-- ==== Sys2Proof/Word.lean ====
section
/-! DEFINITION. Word.lean: the word types of the Huwen instruction set and their plainest arithmetic. -/

namespace Sys2Proof

/-- A byte of memory. -/
abbrev Byte := BitVec 8
/-- The 32-bit value of one register in one lane (R29). -/
abbrev Word := BitVec 32
/-- The 64-bit value of a register pair (R80), and one instruction word (R69). -/
abbrev DWord := BitVec 64
/-- A lane mask: bit l stands for lane l (R4). -/
abbrev Mask := BitVec 32

/-- Bit l of a lane mask. -/
def Mask.has (m : Mask) (l : Nat) : Bool := m.getLsbD l

/-- The mask that holds lane l alone. -/
def Mask.one (l : Nat) : Mask := 1#32 <<< l

/-- The lanes of a mask, in ascending order. -/
def Mask.lanes (m : Mask) : List Nat := (List.range 32).filter m.has

/-- The lowest lane of a mask, if it has one. -/
def Mask.lowest (m : Mask) : Option Nat := (List.range 32).find? m.has

/-- The mask of the lanes that satisfy f. -/
def Mask.ofFn (f : Nat → Bool) : Mask :=
  (List.range 32).foldl (fun m l => if f l then m ||| Mask.one l else m) 0#32

/-- Bits [lo + n − 1 : lo] of a natural number. -/
def bitsOf (x lo n : Nat) : Nat := x / 2 ^ lo % 2 ^ n

/-- Bits [lo + n − 1 : lo] of a value, as an n-bit value. -/
def slice {w : Nat} (x : BitVec w) (lo n : Nat) : BitVec n := x.extractLsb' lo n

/-- The number of 1 bits (R120, R123). -/
def popCount {w : Nat} (x : BitVec w) : Nat :=
  (List.range w).foldl (fun n i => if x.getLsbD i then n + 1 else n) 0

end Sys2Proof
end

