-- ==== Sys2Proof/Syntax.lean ====
section
/-! DEFINITION. Syntax.lean: the operands, the modifiers and the ONE inductive of instructions and events, one
constructor for each row of spec/opcode_table.json. -/

namespace Sys2Proof

/-! ## Operands (R72 to R80) -/

/-- The guard of an instruction: lane l takes part when p[pred][l] XOR neg (R73). -/
structure Guard where
  neg  : Bool
  pred : BitVec 3
  deriving DecidableEq, Repr

/-- What every F and X word carries beside its operands: the guard and the yield hint (R72). -/
structure Hdr where
  guard : Guard
  yh    : Bool
  deriving DecidableEq, Repr

/-- A source operand, one constructor per kind of code of R75. `iconst n` delivers n − 32; `lit x` is the
literal of the X second word (R82). -/
inductive Src where
  | v (n : BitVec 6)
  | s (n : BitVec 6)
  | b (n : BitVec 2)
  | lit (x : BitVec 32)
  | fconst (n : BitVec 4)
  | iconst (n : BitVec 6)
  deriving DecidableEq, Repr

/-- A destination of an ALU-class instruction (R79): a register, or the latch alone (NWB = 1) in the
vector or the scalar form. -/
inductive Dst where
  | v (n : BitVec 6)
  | s (n : BitVec 6)
  | latchV
  | latchS
  deriving DecidableEq, Repr

/-- A destination register of an instruction that cannot set NWB: v0–v63 or s0–s63 (R79). -/
inductive RegDst where
  | v (n : BitVec 6)
  | s (n : BitVec 6)
  deriving DecidableEq, Repr

/-- The target of BRA and CALL: the 14-bit word offset of the F form or the literal of the X form (R188). -/
inductive BTarget where
  | off (o : BitVec 14)
  | lit (x : BitVec 32)
  deriving DecidableEq, Repr

/-! ## Modifiers -/

/-- The scopes of R235, from narrowest to widest. -/
inductive Scope where
  | th | wv | wg | cl | die | dev | node | grp | ten | pod | sys
  deriving DecidableEq, Repr

/-- Relations of ICMP (R108). -/
inductive Cmp where
  | eq | ne | lt | le | gt | ge
  deriving DecidableEq, Repr

/-- Relations of FCMP (R170). -/
inductive FCmp where
  | eq | ne | lt | le | gt | ge | un | ord
  deriving DecidableEq, Repr

/-- How a comparison result enters its predicate (R111). -/
inductive Comb where
  | set | and | or | xor
  deriving DecidableEq, Repr

/-- Modes of IEXT (R113). -/
inductive ExtMode where
  | s8 | u8 | s16 | u16 | s32 | u32
  deriving DecidableEq, Repr

/-- Modes of VOTE (R124). -/
inductive VoteMode where
  | any | all | uni
  deriving DecidableEq, Repr

/-- Modes of SHFL (R125). -/
inductive ShflMode where
  | idx | up | down | xor
  deriving DecidableEq, Repr

/-- Segment sizes of SHFL: 32 >> SEG (R125). -/
inductive ShflSeg where
  | seg32 | seg16 | seg8 | seg4 | seg2 | seg1
  deriving DecidableEq, Repr

/-- Operations of WRED and WSCAN (R122). -/
inductive RedOp where
  | add | min | max | umin | umax | and | or | xor | fadd | fmin | fmax
  deriving DecidableEq, Repr

/-- Rounding modes (R144). -/
inductive RMode where
  | rne | rz | ru | rd | rna | sr
  deriving DecidableEq, Repr

/-- Packed 16-bit element formats (R166). -/
inductive Fmt16 where
  | f16 | bf16
  deriving DecidableEq, Repr

/-- Formats of CVT, F2I and I2F (R170). -/
inductive FFmt where
  | f32 | f16 | bf16
  deriving DecidableEq, Repr

/-- Integer types of F2I and I2F (R170). -/
inductive IType where
  | s32 | u32 | s64 | u64 | s16 | u16 | s8 | u8
  deriving DecidableEq, Repr

/-- The absolute-value and negation bits of one floating source (R166). -/
structure SMod where
  abs : Bool
  neg : Bool
  deriving DecidableEq, Repr

/-- The rounding, saturation and flush modifiers of CF (R166); `rm = none` takes `%rmode`.RM. -/
structure FMod where
  rm  : Option RMode
  sat : Bool
  ftz : Bool
  deriving DecidableEq, Repr

/-- Access sizes (R215). -/
inductive MSize where
  | b8 | b16 | b32 | b64 | b128
  deriving DecidableEq, Repr

/-- Integer atomic operations (R250). -/
inductive AtomOp where
  | add | min | max | umin | umax | and | or | xor | exch | inc | dec
  deriving DecidableEq, Repr

/-- Floating atomic operations (R250). -/
inductive FAtomOp where
  | fadd | fmin | fmax
  deriving DecidableEq, Repr

/-- Operations of RED: the integer ones but `exch`, and the binary32 ones (R250). -/
inductive RedMemOp where
  | int (op : AtomOp)
  | float (op : FAtomOp)
  deriving DecidableEq, Repr

/-- Element types of ATOMF (R249). -/
inductive FAtomTy where
  | f32 | f16x2 | bf16x2
  deriving DecidableEq, Repr

/-- Order bits of an atomic (R249). -/
inductive AOrd where
  | none | acq | rel | ar
  deriving DecidableEq, Repr

/-- Kinds of FENCE (R249). -/
inductive FenceKind where
  | sc | acq | rel
  deriving DecidableEq, Repr

/-- Operations of CMAINT (R257). -/
inductive CmOp where
  | wb | wbinv | inv
  deriving DecidableEq, Repr

/-- Modes of a collective branch (R365). -/
inductive CMode where
  | any | all
  deriving DecidableEq, Repr

/-- Prediction hints of CBR (R365, R374). -/
inductive CHint where
  | pt | pn | pl
  deriving DecidableEq, Repr

/-- Counter modes of a card (R285). -/
inductive CtrMode where
  | global | scratch | barrier
  deriving DecidableEq, Repr

/-- Operations of MARK (R499). -/
inductive MarkOp where
  | ev | beg | fin
  deriving DecidableEq, Repr

/-- Directions of SHF (R118). -/
inductive ShfDir where
  | r | l
  deriving DecidableEq, Repr

/-- Scalar-half operations of a P word (R86). -/
inductive PairS where
  | iadd | isub | imul | imin | imax | and | or | xor | shl | shr | sar | mov | andn | iaddw | popc | nop
  deriving DecidableEq, Repr

/-- Vector-half operations of a P word (R86). -/
inductive PairV where
  | iadd | isub | imul | imin | imax | and | or | xor | shl | shr | sar | mov | fadd | fsub | fmul | fmin | fmax
  | hadd2 | hmul2 | hmin2 | hmax2 | nop
  deriving DecidableEq, Repr

/-- The operands that the job instructions share (R294, R316): result register, counter pair, increment,
counter mode, guard slot 0–8 and scope. `ctr = none` is the code 0xE0. -/
structure JobOps where
  sd    : Option (BitVec 6)
  ctr   : Option (BitVec 6)
  inc   : Src
  cm    : CtrMode
  g     : BitVec 4
  scope : Option Scope
  deriving DecidableEq, Repr

/-- The memory operand of a load or store: base register and offset (R213). -/
structure MemRef where
  base : Src
  off  : Src
  deriving DecidableEq, Repr

/-! ## Special registers (R33, R49, R364, R431, R495) -/

/-- The special registers, in the order of their indices. -/
inductive SReg where
  | laneid | waveid | tid | wgid | gangid | stage | coreid | spid | devid | nwaves | wgsize | gangsize | ngangs
  | salloc | clock | time
  | fair | dscope | maxscope | trapen | rmode | srseed | jring | jnotify | parked | active | frontier
  | trapvec | tcause | tmask | tpc | taddr | tcount | tframe
  | cgroup | cmember | cstate | cjournal | cspec
  | ctxid | pasid | savectr
  | pmovf | pmset
  deriving DecidableEq, Repr

/-- The special registers with their indices; every other index is unassigned. -/
def SReg.table : List (Nat × SReg) :=
  [(0x000, .laneid), (0x001, .waveid), (0x002, .tid), (0x003, .wgid), (0x004, .gangid), (0x005, .stage),
   (0x006, .coreid), (0x007, .spid), (0x008, .devid), (0x009, .nwaves), (0x00A, .wgsize), (0x00B, .gangsize),
   (0x00C, .ngangs), (0x00D, .salloc), (0x010, .clock), (0x011, .time)] ++
  [(0x040, .fair), (0x041, .dscope), (0x042, .maxscope), (0x044, .trapen), (0x045, .rmode), (0x046, .srseed),
   (0x047, .jring), (0x048, .jnotify), (0x049, .parked), (0x04A, .active), (0x04B, .frontier)] ++
  [(0x080, .trapvec), (0x081, .tcause), (0x082, .tmask), (0x083, .tpc), (0x084, .taddr), (0x085, .tcount),
   (0x086, .tframe), (0x0C0, .cgroup), (0x0C1, .cmember), (0x0C2, .cstate), (0x0C3, .cjournal),
   (0x0C4, .cspec), (0x100, .ctxid), (0x101, .pasid), (0x102, .savectr), (0x140, .pmovf), (0x141, .pmset)]

/-- The register at an index, if one is assigned there. -/
def SReg.ofIdx (i : Nat) : Option SReg := (SReg.table.find? (fun e => e.1 == i)).map (fun e => e.2)

/-- The registers of 64 bits (R434). -/
def SReg.wide (r : SReg) : Bool :=
  [SReg.clock, .time, .frontier, .trapvec, .tpc, .taddr, .tframe, .savectr].contains r

/-- The registers that MOVRS may write. -/
def SReg.writable (r : SReg) : Bool :=
  [SReg.fair, .dscope, .trapen, .rmode, .srseed, .trapvec, .tframe, .pmovf].contains r

/-! ## The parties outside the wave: packets, flits, engines and commands -/

/-- An engine of the device (R12, R292, R326, R417). -/
inductive Engine where
  | copy (core k : Nat)
  | half (core h : Nat)
  | attn (core : Nat)
  | ismv (stack : Nat)
  | rot (core : Nat)
  deriving DecidableEq, Repr

/-- A fabric packet as it arrives: the header fields of R337 and up to four data flits, as bytes. -/
structure Packet where
  cls    : BitVec 3
  oclass : BitVec 3
  hop    : Bool
  op     : BitVec 4
  opnd   : BitVec 192
  epoch  : Bool
  ndata  : BitVec 2
  sdev   : BitVec 8
  tdev   : BitVec 8
  svd    : BitVec 9
  tvd    : BitVec 9
  sinc   : BitVec 16
  tinc   : BitVec 16
  ctr    : BitVec 48
  ifa    : BitVec 64
  tag    : BitVec 128
  data   : List Byte
  deriving DecidableEq, Repr

/-- A consensus flit (R363). -/
structure CFlit where
  mac   : BitVec 32
  sdev  : BitVec 8
  svd   : BitVec 9
  sinc  : BitVec 16
  grp   : BitVec 6
  round : BitVec 16
  site  : BitVec 16
  mode  : Bool
  val   : BitVec 2
  kind  : BitVec 2
  phase : BitVec 8
  step  : BitVec 4
  zero  : BitVec 8
  deriving DecidableEq, Repr

/-- What the parts of the package report when a start tests them (R511): the outcomes are the world's, not
the manual's. Each list names the parts that FAIL in the form that the start tries first, and in the
fallback form. -/
structure BootTests where
  rom : Bool
  fwA : Bool
  fwB : Bool
  refA : Bool
  refB : Bool
  links : Bool
  linksSpare : Bool
  stkFail : BitVec 8
  stkConsFail : BitVec 8
  ismvFail : BitVec 8
  lpFail : Bool
  lpConsFail : Bool
  clFail : BitVec 22
  llc : Bool
  llcRepair : Bool
  portFail : BitVec 16
  hostFails : BitVec 4
  tables : Bool
  deriving DecidableEq, Repr

/-! ## The instructions and events -/

/-- The 322 rows of the opcode table: the instructions of the Huwen set, then the events of the device,
the commands of the virtualization control cluster and the acts of the host. -/
inductive Instr where
  -- integer and address (R108)
  | iadd (h : Hdr) (d : Dst) (a b : Src) (u sat : Bool)
  | isub (h : Hdr) (d : Dst) (a b : Src) (u sat : Bool)
  | iadd3 (h : Hdr) (d : Dst) (a b c : Src) (u sat : Bool)
  | iaddw (h : Hdr) (d : Dst) (a b : Src) (u sat : Bool)
  | isubw (h : Hdr) (d : Dst) (a b : Src) (u sat : Bool)
  | imul (h : Hdr) (d : Dst) (a b : Src) (u sat : Bool)
  | imulhi (h : Hdr) (d : Dst) (a b : Src) (u : Bool)
  | imad (h : Hdr) (d : Dst) (a b c : Src) (u sat : Bool)
  | imadw (h : Hdr) (d : Dst) (a b c : Src) (u sat : Bool)
  | imin (h : Hdr) (d : Dst) (a b : Src) (u w : Bool)
  | imax (h : Hdr) (d : Dst) (a b : Src) (u w : Bool)
  | iabs (h : Hdr) (d : Dst) (a : Src) (sat : Bool)
  | idiff (h : Hdr) (d : Dst) (a b : Src) (u : Bool)
  | iclamp (h : Hdr) (d : Dst) (a lo hi : Src) (u : Bool)
  | icmp (h : Hdr) (pd : BitVec 3) (a b : Src) (cmp : Cmp) (u : Bool) (comb : Comb)
  | icmpw (h : Hdr) (pd : BitVec 3) (a b : Src) (cmp : Cmp) (u : Bool) (comb : Comb)
  | isel (h : Hdr) (d : Dst) (a b : Src) (ps : BitVec 3) (pn w : Bool)
  | mov (h : Hdr) (d : Dst) (a : Src)
  | movw (h : Hdr) (d : Dst) (a : Src)
  | movhi (h : Hdr) (d : Dst) (a b : Src)
  | iext (h : Hdr) (d : Dst) (a : Src) (mode : ExtMode)
  | idiv (h : Hdr) (d : Dst) (a b : Src) (u sat w : Bool)
  | irem (h : Hdr) (d : Dst) (a b : Src) (u w : Bool)
  | lea (h : Hdr) (d : Dst) (a b c : Src) (u : Bool) (sh : BitVec 3)
  | and (h : Hdr) (d : Dst) (a b : Src) (w : Bool)
  | or (h : Hdr) (d : Dst) (a b : Src) (w : Bool)
  | xor (h : Hdr) (d : Dst) (a b : Src) (w : Bool)
  | andn (h : Hdr) (d : Dst) (a b : Src) (w : Bool)
  | lop3 (h : Hdr) (d : Dst) (a b c : Src) (w : Bool) (lut : BitVec 8)
  | shl (h : Hdr) (d : Dst) (a b : Src) (wrap : Bool)
  | shr (h : Hdr) (d : Dst) (a b : Src) (wrap : Bool)
  | sar (h : Hdr) (d : Dst) (a b : Src) (wrap : Bool)
  | shf (h : Hdr) (d : Dst) (a b c : Src) (dir : ShfDir) (wrap : Bool)
  | shlw (h : Hdr) (d : Dst) (a b : Src) (wrap : Bool)
  | shrw (h : Hdr) (d : Dst) (a b : Src) (wrap : Bool)
  | sarw (h : Hdr) (d : Dst) (a b : Src) (wrap : Bool)
  | bfe (h : Hdr) (d : Dst) (a ctl : Src) (s w : Bool)
  | bfi (h : Hdr) (d : Dst) (a b ctl : Src) (w : Bool)
  | popc (h : Hdr) (d : Dst) (a : Src) (w : Bool)
  | clz (h : Hdr) (d : Dst) (a : Src) (w : Bool)
  | ctz (h : Hdr) (d : Dst) (a : Src) (w : Bool)
  | brev (h : Hdr) (d : Dst) (a : Src) (w : Bool)
  | bperm (h : Hdr) (d : Dst) (a b sel : Src)
  -- lane and predicate (R122)
  | ballot (h : Hdr) (d : Dst) (ps : BitVec 3) (pn : Bool)
  | vote (h : Hdr) (mode : VoteMode) (pd ps : BitVec 3) (pn : Bool)
  | ppopc (h : Hdr) (d : Dst) (ps : BitVec 3) (pn : Bool)
  | mrank (h : Hdr) (d : Dst) (ps : BitVec 3) (pn : Bool)
  | shfl (h : Hdr) (d : Dst) (a b : Src) (mode : ShflMode) (seg : ShflSeg) (w : Bool)
  | rdlane (h : Hdr) (d : Dst) (vs : BitVec 6) (b : Src) (w : Bool)
  | wrlane (h : Hdr) (d : Dst) (a b : Src) (w : Bool)
  | wred (h : Hdr) (d : Dst) (vs : BitVec 6) (op : RedOp) (w : Bool)
  | wscan (h : Hdr) (d : Dst) (a : Src) (op : RedOp) (w excl : Bool)
  | matchLane (h : Hdr) (d : Dst) (a : Src) (w : Bool)
  | elect (h : Hdr) (pd : BitVec 3) (d : Option Dst)
  | plop (h : Hdr) (pd pa pb : BitVec 3) (lut : BitVec 4)
  | s2p (h : Hdr) (pd : BitVec 3) (a : Src) (mask : Bool)
  -- floating point and conversion (R170)
  | fadd (h : Hdr) (d : Dst) (a b : Src) (ma mb : SMod) (m : FMod)
  | fsub (h : Hdr) (d : Dst) (a b : Src) (ma mb : SMod) (m : FMod)
  | fmul (h : Hdr) (d : Dst) (a b : Src) (ma mb : SMod) (m : FMod)
  | ffma (h : Hdr) (d : Dst) (a b c : Src) (ma mb mc : SMod) (m : FMod)
  | fmin (h : Hdr) (d : Dst) (a b : Src) (ma mb : SMod) (ftz : Bool)
  | fmax (h : Hdr) (d : Dst) (a b : Src) (ma mb : SMod) (ftz : Bool)
  | fcmp (h : Hdr) (pd : BitVec 3) (a b : Src) (ma mb : SMod) (cmp : FCmp) (comb : Comb)
  | fclass (h : Hdr) (d : Dst) (a : Src)
  | frnd (h : Hdr) (d : Dst) (a : Src) (ma : SMod) (rm : Option RMode) (ftz : Bool)
  | fscale (h : Hdr) (d : Dst) (a b : Src) (ma : SMod) (m : FMod)
  | fdiv (h : Hdr) (d : Dst) (a b : Src) (ma mb : SMod) (m : FMod)
  | frcp (h : Hdr) (d : Dst) (a : Src) (ma : SMod) (ftz : Bool)
  | frsq (h : Hdr) (d : Dst) (a : Src) (ma : SMod) (ftz : Bool)
  | fsqrt (h : Hdr) (d : Dst) (a : Src) (ma : SMod) (rm : Option RMode) (ftz : Bool)
  | fexp2 (h : Hdr) (d : Dst) (a : Src) (ma : SMod) (ftz : Bool)
  | flog2 (h : Hdr) (d : Dst) (a : Src) (ma : SMod) (ftz : Bool)
  | fsin (h : Hdr) (d : Dst) (a : Src) (ma : SMod) (ftz : Bool)
  | fcos (h : Hdr) (d : Dst) (a : Src) (ma : SMod) (ftz : Bool)
  | ftanh (h : Hdr) (d : Dst) (a : Src) (ma : SMod) (ftz : Bool)
  | hadd2 (h : Hdr) (d : Dst) (a b : Src) (ma mb : SMod) (m : FMod) (fmt : Fmt16)
  | hmul2 (h : Hdr) (d : Dst) (a b : Src) (ma mb : SMod) (m : FMod) (fmt : Fmt16)
  | hfma2 (h : Hdr) (d : Dst) (a b c : Src) (ma mb mc : SMod) (m : FMod) (fmt : Fmt16)
  | hmin2 (h : Hdr) (d : Dst) (a b : Src) (ma mb : SMod) (ftz : Bool) (fmt : Fmt16)
  | hmax2 (h : Hdr) (d : Dst) (a b : Src) (ma mb : SMod) (ftz : Bool) (fmt : Fmt16)
  | hdot2 (h : Hdr) (d : Dst) (a b c : Src) (ma mb mc : SMod) (m : FMod) (fmt : Fmt16)
  | qdot4 (h : Hdr) (d : Dst) (a b c : Src) (fc : BitVec 6) (inf : Bool) (rm : Option RMode) (sat : Bool)
  | cvt (h : Hdr) (d : Dst) (a : Src) (sf df : FFmt) (m : FMod)
  | f2i (h : Hdr) (d : Dst) (a : Src) (sf : FFmt) (it : IType) (rm : Option RMode) (ftz : Bool)
  | i2f (h : Hdr) (d : Dst) (a : Src) (df : FFmt) (it : IType) (m : FMod)
  | hpack (h : Hdr) (d : Dst) (a b : Src) (m : FMod) (fmt : Fmt16)
  | hunpk (h : Hdr) (d : Dst) (a : Src) (half ftz : Bool) (fmt : Fmt16)
  | qpack (h : Hdr) (d : Dst) (a fw e : Src) (n : Bool)
  | qunpk (h : Hdr) (d : Dst) (a fw e : Src) (n : Bool)
  | q4pack (h : Hdr) (d : Dst) (a fw e : Src) (n : BitVec 2)
  | q4unpk (h : Hdr) (d : Dst) (a fw e : Src) (n : BitVec 2)
  | bscale (h : Hdr) (d : Dst) (a fw : Src) (fit : Bool)
  -- the P word and the illegal words (R83, R71)
  | pairWord (g : Guard) (so : PairS) (sdst : BitVec 6) (sa sb : Src) (vo : PairV) (vdst : BitVec 6) (va vb : Src)
  | illegalWord (w : BitVec 64)
  -- control (R188)
  | bra (h : Hdr) (t : BTarget) (uni lb : Bool)
  | brx (h : Hdr) (a : Src) (rel uni : Bool)
  | call (h : Hdr) (link : BitVec 6) (t : BTarget) (uni : Bool)
  | callx (h : Hdr) (link : BitVec 6) (a : Src) (rel uni : Bool)
  | ret (h : Hdr) (a : Src) (uni : Bool)
  | exit (h : Hdr) (tail : Bool)
  | yield (h : Hdr)
  | nop (h : Hdr)
  | sleep (h : Hdr) (a : Src)
  | syncst (h : Hdr)
  -- consensus (R365)
  | cjoin (h : Hdr) (sd : BitVec 6) (g : Src)
  | cleave (h : Hdr)
  | cbr (h : Hdr) (mode : CMode) (hint : CHint) (ps : BitVec 3) (pn : Bool) (off : BitVec 14) (site : BitVec 16)
  | cbrw (h : Hdr) (mode : CMode) (ps : BitVec 3) (pn : Bool) (off : BitVec 14) (site : BitVec 16)
  | csync (h : Hdr) (sd : Option (BitVec 6))
  | cstat (h : Hdr) (dd : BitVec 6) (g : Src)
  -- memory access (R213)
  | ld (h : Hdr) (d : RegDst) (m : MemRef) (sz : MSize) (sx acq : Bool) (scope : Option Scope)
  | st (h : Hdr) (m : MemRef) (a : Src) (sz : MSize) (rel : Bool) (scope : Option Scope)
  | ldl (h : Hdr) (d : RegDst) (m : MemRef) (sz : MSize) (sx acq : Bool) (scope : Option Scope)
  | stl (h : Hdr) (m : MemRef) (a : Src) (sz : MSize) (rel : Bool) (scope : Option Scope)
  | ldfe (h : Hdr) (d : RegDst) (m : MemRef) (sz : MSize) (sx clr : Bool) (tryPd : Option (BitVec 3)) (scope : Option Scope)
  | stfe (h : Hdr) (m : MemRef) (a : Src) (sz : MSize) (scope : Option Scope)
  | feset (h : Hdr) (m : MemRef) (len : Src) (val : Bool) (scope : Option Scope)
  | ldu (h : Hdr) (d : RegDst) (m : MemRef) (sz : MSize) (sx acq : Bool) (scope : Option Scope)
  | stu (h : Hdr) (m : MemRef) (a : Src) (sz : MSize) (rel : Bool) (scope : Option Scope)
  | cstore (h : Hdr) (m : MemRef) (a : Src) (ps : BitVec 3) (pn : Bool) (sz : MSize) (rel : Bool) (scope : Option Scope)
  | xload (h : Hdr) (d : RegDst) (m : MemRef) (who : Src) (sz : MSize) (sx park acq : Bool) (scope : Option Scope)
  -- atomics, fences, cache, residency (R250, R231)
  | atom (h : Hdr) (d : RegDst) (m : MemRef) (a : Src) (op : AtomOp) (sz : MSize) (ord : AOrd) (scope : Option Scope)
  | atomcas (h : Hdr) (d : RegDst) (base c n : Src) (sz : MSize) (ord : AOrd) (scope : Option Scope)
  | atomf (h : Hdr) (d : RegDst) (m : MemRef) (a : Src) (op : FAtomOp) (ty : FAtomTy) (ord : AOrd) (scope : Option Scope)
  | red (h : Hdr) (m : MemRef) (a : Src) (op : RedMemOp) (sz : MSize) (rel : Bool) (scope : Option Scope)
  | atoml (h : Hdr) (d : RegDst) (m : MemRef) (a : Src) (op : AtomOp) (sz : MSize) (ord : AOrd) (scope : Option Scope)
  | atomlcas (h : Hdr) (d : RegDst) (base c n : Src) (sz : MSize) (ord : AOrd) (scope : Option Scope)
  | fence (h : Hdr) (kind : FenceKind) (scope : Option Scope)
  | cmaint (h : Hdr) (m : MemRef) (len : Src) (op : CmOp) (scope : Option Scope)
  | icinv (h : Hdr) (m : MemRef) (len : Src) (scope : Option Scope)
  | tres (h : Hdr) (sd : BitVec 6) (base len : Src) (pri : BitVec 3)
  | trel (h : Hdr) (a : Src)
  | tevict (h : Hdr) (a : Src)
  | tdemote (h : Hdr) (a : Src)
  -- synchronisation and pipeline (R261)
  | barinit (h : Hdr) (m : MemRef) (n : Src)
  | bararv (h : Hdr) (sd : Option (BitVec 6)) (m : MemRef) (n : Option Src)
  | barwt (h : Hdr) (m : MemRef) (ph : Src)
  | bar (h : Hdr) (m : MemRef) (n : Option Src)
  | cntadd (h : Hdr) (m : MemRef) (a : Src) (w l : Bool) (scope : Option Scope)
  | cntwt (h : Hdr) (m : MemRef) (t : Src) (l : Bool) (tryPd : Option (BitVec 3)) (scope : Option Scope)
  | qinit (h : Hdr) (a : Src) (q : BitVec 4)
  | qpush (h : Hdr) (m : MemRef) (q : BitVec 4) (tryPd : Option (BitVec 3))
  | qpop (h : Hdr) (m : MemRef) (q : BitVec 4) (tryPd : Option (BitVec 3))
  | qstat (h : Hdr) (sd : BitVec 6) (q : BitVec 4)
  | snext (h : Hdr) (close : Bool)
  | gset (h : Hdr) (sd : BitVec 6)
  | gres (h : Hdr) (a : Src) (val : Bool)
  -- jobs and KV (R294, R316, R401)
  | jcopy (h : Hdr) (desc : Src) (j : JobOps)
  | jgen (h : Hdr) (desc : Src) (j : JobOps)
  | jfill (h : Hdr) (desc : Src) (j : JobOps)
  | jmcast (h : Hdr) (desc : Src) (j : JobOps)
  | jmma (h : Hdr) (fw : Src) (db : BitVec 4) (j : JobOps)
  | jacc (h : Hdr) (fw : Src) (db : BitVec 4) (j : JobOps)
  | jmv (h : Hdr) (fw : Src) (db : BitVec 4) (j : JobOps)
  | jattn (h : Hdr) (fw : Src) (db : BitVec 4) (j : JobOps)
  | jrot (h : Hdr) (fw : Src) (db : BitVec 4) (j : JobOps)
  | jpub (h : Hdr) (n : Src)
  | jcancel (h : Hdr) (sd : BitVec 6) (seq : Src)
  | jstat (h : Hdr) (sd : BitVec 6) (seq : Src)
  | jstatRing (h : Hdr) (sd : BitVec 6)
  | kvapp (h : Hdr) (sd : BitVec 6) (t n src : Src) (scope : Option Scope)
  | kvref (h : Hdr) (sd : BitVec 6) (pool ent : Src) (rel : Bool) (scope : Option Scope)
  | kvdem (h : Hdr) (sd : BitVec 6) (t ix : Src) (pro : Bool) (scope : Option Scope)
  | kvlook (h : Hdr) (dd : BitVec 6) (t ix : Src) (scope : Option Scope)
  | kvfork (h : Hdr) (sd : BitVec 6) (dst src : Src) (scope : Option Scope)
  -- fabric (R350)
  | rsig (h : Hdr) (m : MemRef) (a : Src) (w : Bool) (scope : Option Scope)
  | rflush (h : Hdr) (m : MemRef) (len : Src) (inv : Bool) (scope : Option Scope)
  | rflushAll (h : Hdr) (n : Src) (inv : Bool) (scope : Option Scope)
  -- system (R433)
  | movsr (h : Hdr) (d : RegDst) (idx : BitVec 10)
  | movrs (h : Hdr) (a : Src) (idx : BitVec 10)
  | trap (h : Hdr) (code : BitVec 8)
  | rft (h : Hdr)
  | brk (h : Hdr) (code : BitVec 8)
  | stsrd (h : Hdr) (d : RegDst) (m : Src)
  | intr (h : Hdr) (sd : BitVec 6) (n : Src)
  | probe (h : Hdr) (d : RegDst) (m : MemRef)
  | tlbinv (h : Hdr) (m : MemRef) (n : Src) (scope : Option Scope)
  | tlbinvAll (h : Hdr) (scope : Option Scope)
  -- monitors (R499)
  | pmrd (h : Hdr) (dd : BitVec 6) (cid : Src)
  | pmctl (h : Hdr) (sd : BitVec 6) (cid ctl : Src)
  | pmctlVal (h : Hdr) (sd : BitVec 6) (cid val : Src)
  | lcurd (h : Hdr) (dd : BitVec 6) (cid : Src) (fld : BitVec 5)
  | mark (h : Hdr) (op : MarkOp) (tag : BitVec 8)
  -- events of waves, workgroups and launches
  | fairnessEvent (w : Nat)
  | threadResume (w lane : Nat)
  | sleepExpire (w : Nat)
  | stageReassign (w : Nat)
  | launchRecordRead (vd ctx : Nat)
  | gangPlacement (vd : Nat)
  | waveRetire (w : Nat)
  | workgroupRetire (g : Nat)
  | launchCompletionAdd (l : Nat)
  | preemptRequest (sp : Nat)
  | waveHalt (w : Nat)
  | preemptTimeout (w : Nat)
  | contextSave (vd ctx : Nat)
  | contextRestore (vd ctx : Nat)
  | trapEntry (w : Nat)
  -- events of cards and engines
  | cardAdmit (core : Nat)
  | cardRelease (core : Nat)
  | cardStart (e : Engine)
  | engineGranuleWrite (e : Engine)
  | cardPark (e : Engine)
  | cardFinish (e : Engine)
  | cardFail (e : Engine)
  | cardCancelStop (e : Engine)
  | qpushCommit (g q : Nat)
  | qpopCopyDone (g q : Nat)
  | ismvChunk (stack : Nat)
  | engineDrainTimeout (e : Engine)
  | attnStep (core : Nat)
  | kvHomeOperation (die : Nat)
  | kvdemCopyDone (die : Nat)
  -- events of the fabric
  | dwellStart (port : Nat)
  | portLinkLoss (port : Nat)
  | rds (p : Packet)
  | rdo (p : Packet)
  | wb (p : Packet)
  | rdu (p : Packet)
  | wru (p : Packet)
  | atm (p : Packet)
  | sig (p : Packet)
  | inv (p : Packet)
  | iack (p : Packet)
  | data (p : Packet)
  | ack (p : Packet)
  | nack (p : Packet)
  | retire (p : Packet)
  | rack (p : Packet)
  | announce (p : Packet)
  | flitDrop (port : Nat) (p : Packet)
  | reincarnationTimeout (vd dev : Nat)
  | oldKeyDrop (vd dev : Nat)
  | streamFault (vd dev : Nat)
  -- events of the consensus unit
  | consensusPhase (phase : Nat)
  | consensusVote (w : Nat)
  | consensusUp (f : CFlit)
  | consensusDown (f : CFlit)
  | consensusRestart (f : CFlit)
  | consensusMemberLost (f : CFlit)
  | consensusRoundTimeout (g : Nat)
  | specCommit (w : Nat)
  | specRollback (w : Nat)
  | cbrwResolve (w : Nat)
  -- events of the rotation
  | rotGrant (p : Packet)
  | rotPiece (p : Packet)
  | rotAck (p : Packet)
  | rotAbort (p : Packet)
  | rotTimeout (core : Nat)
  | rotHeldGrantExpire (vd fg : Nat)
  -- events of translation, frames and virtual devices
  | atsInvalidation (vd ctx : Nat) (va : BitVec 64) (pages : Nat)
  | migrationLockRequest (frame : Nat) (host dev : Bool)
  | migrationDone (frame : Nat)
  | migrationHoldoffExpire (frame : Nat) (host : Bool)
  | scrubSweepPage (frame page : Nat)
  | sliceEnd (sp : Nat)
  | watchdogExpire (vd : Nat)
  | killDrainComplete (vd : Nat)
  | reincarnationComplete (vd : Nat)
  | pcapExceeded (vd : Nat)
  -- commands of the VCC (R464, R465); c is the 64-byte command
  | vdCreate (c : BitVec 512)
  | vdConfigParams (c : BitVec 512)
  | vdConfigContext (c : BitVec 512)
  | vdConfigFormat (c : BitVec 512)
  | vdConfigQueue (c : BitVec 512)
  | vdConfigQueueKey (c : BitVec 512)
  | vdConfigPartition (c : BitVec 512)
  | vdConfigFabricRes (c : BitVec 512)
  | vdConfigWindow (c : BitVec 512)
  | vdGrantMem (c : BitVec 512)
  | vdRevokeMem (c : BitVec 512)
  | vdBindKeyMemory (c : BitVec 512)
  | vdBindKeyPartition (c : BitVec 512)
  | vdBindKeyPending (c : BitVec 512)
  | vdStart (c : BitVec 512)
  | vdStop (c : BitVec 512)
  | vdKill (c : BitVec 512)
  | vdReset (c : BitVec 512)
  | vdDestroy (c : BitVec 512)
  | vdMigBegin (c : BitVec 512)
  | vdMigRound (c : BitVec 512)
  | vdMigFinal (c : BitVec 512)
  | vdMigCommitSource (c : BitVec 512)
  | vdMigCommitImport (c : BitVec 512)
  | vdMigCommitAbort (c : BitVec 512)
  | fgCreateFabric (c : BitVec 512)
  | fgDeleteFabric (c : BitVec 512)
  | fgCreateConsensus (c : BitVec 512)
  | fgDeleteConsensus (c : BitVec 512)
  | fgAdd (c : BitVec 512)
  | irqMap (c : BitVec 512)
  | ctrGrant (c : BitVec 512)
  | ctrRevoke (c : BitVec 512)
  | status (c : BitVec 512)
  | badop (c : BitVec 512)
  -- acts of the host and of the package's supply
  | kick (vd q : Nat) (val : BitVec 64)
  | faultHead (vd ctx : Nat) (val : BitVec 64)
  | faultAnswer (vd ctx : Nat) (val : BitVec 64)
  | registerWrite (fn bar off : Nat) (val : BitVec 64)
  | bar4Access (vd off n : Nat) (wr : Option (BitVec 64))
  | cxlMemAccess (addr n : Nat) (wr : Option (BitVec 64))
  | vfFlr (vd : Nat)
  | pfFlr (t : BootTests)
  | perst (t : BootTests)
  | coldStart (t : BootTests)
  | undervoltageStop
  | overtempStop
  | thermalThrottle (on : Bool)
  | getMeasurements
  | keyExchange (secret : BitVec 384)
  | getDeviceInterfaceReport (vd : Nat)
  | stopInterface (vd : Nat)
  | uncorrectableMemoryError (addr : Nat)
  | lockInterface (vd : Nat)
  | startInterface (vd : Nat)
  | ideKm (stream : Nat) (key : BitVec 256)
  | hostCoherenceRecall (line : Nat)
  | relayHop (p : Packet)
  | linkReplay (port flits : Nat)
  | allowanceRequest (src vd cls : Nat)
  | plimitExceeded
  | queueLevelSample (die : Nat) (level : Nat)
  deriving DecidableEq, Repr

end Sys2Proof
end

