-- ==== Sys2Proof/WellFormed.lean ====
section
/-! DEFINITION. WellFormed.lean: the field checks of R71 to R82 and the reserved uses of every encoding table. A
word whose instruction fails one of them raises ILLENC. -/

namespace Sys2Proof

/-! ## Checks on operands -/

/-- A vector register code. -/
def Src.isV : Src → Bool
  | .v _ => true
  | _ => false
/-- A register code, vector or scalar. -/
def Src.isReg : Src → Bool
  | .v _ | .s _ => true
  | _ => false
/-- A latch code. -/
def Src.isLatch : Src → Bool
  | .b _ => true
  | _ => false
/-- The literal code. -/
def Src.isLit : Src → Bool
  | .lit _ => true
  | _ => false
/-- A source of a field that its instruction may read as a register whose number is a multiple of m (R80, R215);
constants and latches have no number. -/
def Src.mult (m : Nat) : Src → Bool
  | .v n | .s n => n.toNat % m == 0
  | _ => true
/-- A field that must hold the code of a register pair (R213, R188, R350, R433). -/
def Src.pair (x : Src) : Bool := x.isReg && x.mult 2
/-- A field that must hold the code of a scalar register pair. -/
def Src.spair : Src → Bool
  | .s n => n.toNat % 2 == 0
  | _ => false

/-- The scalar form of a destination (R78, R79). -/
def Dst.scalar : Dst → Bool
  | .s _ | .latchS => true
  | _ => false
/-- The destinations that suppress write-back (R88). -/
def Dst.nwb : Dst → Bool
  | .latchV | .latchS => true
  | _ => false
/-- A destination whose register number is a multiple of m (R80). -/
def Dst.mult (m : Nat) : Dst → Bool
  | .v n | .s n => n.toNat % m == 0
  | _ => true

/-- The scalar destinations of a load or a MOVSR (R214). -/
def RegDst.scalar : RegDst → Bool
  | .s _ => true
  | .v _ => false
/-- The register number is a multiple of m. -/
def RegDst.mult (m : Nat) : RegDst → Bool
  | .v n | .s n => n.toNat % m == 0

/-- At most one source is the literal (R82). -/
def oneLit (l : List Src) : Bool := (l.filter Src.isLit).length ≤ 1

/-- The field checks of an ALU-class instruction with a register destination: the widths of R80 and the
scalar-form rule of R78. Every source comes with whether its operand is wide. -/
def aluOk (d : Dst) (dw : Bool) (l : List (Src × Bool)) : Bool :=
  (!dw || d.mult 2) && l.all (fun e => !e.2 || e.1.mult 2) && (!d.scalar || l.all (fun e => !e.1.isV)) &&
    oneLit (l.map Prod.fst)

/-- The same for an ALU-class instruction that writes a predicate (R106). -/
def predOk (l : List (Src × Bool)) : Bool := l.all (fun e => !e.2 || e.1.mult 2) && oneLit (l.map Prod.fst)

/-- The field checks of an instruction that is not ALU-class: no latch (R94), one literal (R82). -/
def plainOk (l : List Src) : Bool := l.all (fun x => !x.isLatch) && oneLit l

/-- As `plainOk`, for an instruction in which a vector register in any field is reserved. -/
def scalOk (l : List Src) : Bool := plainOk l && l.all (fun x => !x.isV)

/-- U = 1 with SAT = 0 is reserved (R108). -/
def uSat (u sat : Bool) : Bool := !u || sat

/-! ## Sizes of memory data -/

/-- Bytes of an access size (R212). -/
def MSize.bytes : MSize → Nat
  | .b8 => 1
  | .b16 => 2
  | .b32 => 4
  | .b64 => 8
  | .b128 => 16
/-- Registers of an access size: the index rule of R215. -/
def MSize.regs : MSize → Nat
  | .b64 => 2
  | .b128 => 4
  | _ => 1

/-- Loads: base register (a pair for global memory), offset, destination (R213, R214, R215). -/
def loadOk (d : RegDst) (m : MemRef) (sz : MSize) (glob : Bool) (rest : List Src) : Bool :=
  plainOk (m.base :: m.off :: rest) && m.base.isReg && (!glob || m.base.mult 2) && d.mult sz.regs &&
    (!d.scalar || (m.base :: m.off :: rest).all (fun x => !x.isV))

/-- Stores (R213, R215): the data of a .b128 store is no constant. -/
def storeOk (m : MemRef) (a : Src) (sz : MSize) (glob : Bool) : Bool :=
  plainOk [m.base, a, m.off] && m.base.isReg && (!glob || m.base.mult 2) && a.mult sz.regs &&
    (sz != .b128 || a.isReg)

/-- SX is reserved with a size of 32 bits or more, where the row says so. -/
def sxOk (sz : MSize) (sx : Bool) : Bool := !sx || sz == .b8 || sz == .b16

/-- Integer atomics take .b32 and .b64 only (R249). -/
def atomSz (sz : MSize) : Bool := sz == .b32 || sz == .b64

/-- The atomics that return the old value (R250). -/
def atomOk (d : RegDst) (base : Src) (l w : List Src) (sz : MSize) (glob : Bool) : Bool :=
  atomSz sz && plainOk (base :: (l ++ w)) && base.isReg && (!glob || base.mult 2) && d.mult sz.regs &&
    w.all (fun x => x.mult sz.regs) && (!d.scalar || (base :: (l ++ w)).all (fun x => !x.isV))

/-- What the job instructions share (R294, R316). `n` is the length of the descriptor block, `av` whether SA may be a
vector register when RD = 0. -/
def jobOk (a : Src) (j : JobOps) (av : Bool) : Bool :=
  plainOk [a, j.inc] && !j.inc.isV && (!a.isV || (av && j.sd.isNone)) &&
    (match j.ctr with | some k => k.toNat % 2 == 0 | none => true) && j.g.toNat ≤ 8

/-- The descriptor block lies within s0 to s63 (R316). -/
def blockOk (db : BitVec 4) (n : Nat) : Bool := 4 * db.toNat + n ≤ 64

/-- The integer types of 64 bits (R180). -/
def IType.wide : IType → Bool
  | .s64 | .u64 => true
  | _ => false

/-- The format codes of QDOT4 (R178), and where INF may be set. -/
def qdotOk (fc : BitVec 6) (inf : Bool) (rm : Option RMode) : Bool :=
  let c := fc.toNat
  ((1 ≤ c && c ≤ 7) || (9 ≤ c && c ≤ 0xF && !inf) ||
    ((c == 0x18 || c == 0x19 || c == 0x1C) && !inf && rm.isNone))

/-- A reduction over pairs has no floating operation, and names an even register (R122). -/
def redOk (op : RedOp) (w : Bool) : Bool := !w || !(op == .fadd || op == .fmin || op == .fmax)

/-! ## P words (R84, R85) -/

/-- The halves that read one source. -/
def PairS.reads : PairS → Nat
  | .nop => 0
  | .mov | .popc => 1
  | _ => 2
/-- The halves that read one source. -/
def PairV.reads : PairV → Nat
  | .nop => 0
  | .mov => 1
  | _ => 2

/-- The code 0x00 of a field that is not read (R74). -/
def Src.zero : Src := .v 0

/-- The checks of R84 and R85. -/
def pairOk (so : PairS) (sdst : BitVec 6) (sa sb : Src) (vo : PairV) (vdst : BitVec 6) (va vb : Src) : Bool :=
  let sr := [sa, sb].take so.reads
  let vr := [va, vb].take vo.reads
  let su := [sa, sb].drop so.reads
  let vu := [va, vb].drop vo.reads
  let written := match so with
    | .nop => []
    | .iaddw => [Src.s sdst, Src.s (sdst + 1)]
    | _ => [Src.s sdst]
  (su ++ vu).all (fun x => x == Src.zero) && (sr ++ vr).all (fun x => !x.isLit) && sr.all (fun x => !x.isV) &&
    (so != .nop || sdst == 0) && (vo != .nop || vdst == 0) &&
    (so != .iaddw || (sdst.toNat % 2 == 0 && sa.spair)) &&
    (match vr with
      | [.v x, .v y] => x == y || x.toNat % 4 != y.toNat % 4
      | _ => true) &&
    vr.all (fun x => !written.contains x)

/-! ## The instructions -/

/-- The opcodes that are assigned (R93). -/
def assigned (opc : Nat) : Bool :=
  opc ≤ 0x02A || (0x040 ≤ opc && opc ≤ 0x04C) || (0x060 ≤ opc && opc ≤ 0x072) || (0x078 ≤ opc && opc ≤ 0x07E) ||
    (0x080 ≤ opc && opc ≤ 0x089) || (0x0C0 ≤ opc && opc ≤ 0x0C9) || (0x0E0 ≤ opc && opc ≤ 0x0E5) ||
    (0x100 ≤ opc && opc ≤ 0x10A) || (0x140 ≤ opc && opc ≤ 0x14C) || (0x160 ≤ opc && opc ≤ 0x16C) ||
    (0x180 ≤ opc && opc ≤ 0x18B) || (0x190 ≤ opc && opc ≤ 0x194) || (0x1B0 ≤ opc && opc ≤ 0x1B1) ||
    (0x1C0 ≤ opc && opc ≤ 0x1C8) || (0x1E0 ≤ opc && opc ≤ 0x1E3)

/-- The words that raise ILLOP: a first word tagged 0b11, or an F or X word with an unassigned opcode (R71). -/
def illegal (w : BitVec 64) : Bool :=
  slice w 62 2 == 3#2 || (slice w 62 2 != 1#2 && !assigned (slice w 49 9).toNat)

/-- The loop-buffer hint needs an offset of −63 to 0 (R188). -/
def lbOk (t : BTarget) (lb : Bool) : Bool :=
  !lb || (match t with
    | .off o => decide (-63 ≤ o.toInt ∧ o.toInt ≤ 0)
    | .lit x => decide (-63 ≤ x.toInt ∧ x.toInt ≤ 0))

/-- SA of BRX and CALLX: a pair when REL = 0, and no vector register beside a literal (R188). -/
def brxOk (a : Src) (rel : Bool) : Bool := plainOk [a] && (rel || a.pair)

/-- Reads of a 32-bit scalar or constant only. -/
def scalar1 (a : Src) : Bool := scalOk [a]

/-- The field checks of every instruction (R71, check 6). An event or a command has no word, and nothing to check
here. -/
def Instr.wellFormed : Instr → Bool
  -- R108
  | .iadd _ d a b u sat => aluOk d false [(a, false), (b, false)] && uSat u sat
  | .isub _ d a b u sat => aluOk d false [(a, false), (b, false)] && uSat u sat
  | .iadd3 _ d a b c u sat => aluOk d false [(a, false), (b, false), (c, false)] && uSat u sat
  | .iaddw _ d a b u sat => aluOk d true [(a, true), (b, true)] && uSat u sat
  | .isubw _ d a b u sat => aluOk d true [(a, true), (b, true)] && uSat u sat
  | .imul _ d a b u sat => aluOk d false [(a, false), (b, false)] && uSat u sat
  | .imulhi _ d a b _ => aluOk d false [(a, false), (b, false)]
  | .imad _ d a b c u sat => aluOk d false [(a, false), (b, false), (c, false)] && uSat u sat
  | .imadw _ d a b c _ _ => aluOk d true [(a, false), (b, false), (c, true)]
  | .imin _ d a b _ w => aluOk d w [(a, w), (b, w)]
  | .imax _ d a b _ w => aluOk d w [(a, w), (b, w)]
  | .iabs _ d a _ => aluOk d false [(a, false)]
  | .idiff _ d a b _ => aluOk d false [(a, false), (b, false)]
  | .iclamp _ d a lo hi _ => aluOk d false [(a, false), (lo, false), (hi, false)]
  | .icmp _ _ a b _ _ _ => predOk [(a, false), (b, false)]
  | .icmpw _ _ a b _ _ _ => predOk [(a, true), (b, true)]
  | .isel _ d a b _ _ w => aluOk d w [(a, w), (b, w)]
  | .mov _ d a => aluOk d false [(a, false)]
  | .movw _ d a => aluOk d true [(a, true)]
  | .movhi _ d a b => aluOk d true [(a, false), (b, false)]
  | .iext _ d a mode => aluOk d (mode == .s32 || mode == .u32) [(a, false)]
  | .idiv _ d a b u sat w => aluOk d w [(a, w), (b, w)] && !(u && sat)
  | .irem _ d a b _ w => aluOk d w [(a, w), (b, w)]
  | .lea _ d a b c _ _ => aluOk d true [(a, true), (b, false), (c, false)]
  | .and _ d a b w => aluOk d w [(a, w), (b, w)]
  | .or _ d a b w => aluOk d w [(a, w), (b, w)]
  | .xor _ d a b w => aluOk d w [(a, w), (b, w)]
  | .andn _ d a b w => aluOk d w [(a, w), (b, w)]
  | .lop3 _ d a b c w _ => aluOk d w [(a, w), (b, w), (c, w)]
  | .shl _ d a b _ => aluOk d false [(a, false), (b, false)]
  | .shr _ d a b _ => aluOk d false [(a, false), (b, false)]
  | .sar _ d a b _ => aluOk d false [(a, false), (b, false)]
  | .shf _ d a b c _ _ => aluOk d false [(a, false), (b, false), (c, false)]
  | .shlw _ d a b _ => aluOk d true [(a, true), (b, false)]
  | .shrw _ d a b _ => aluOk d true [(a, true), (b, false)]
  | .sarw _ d a b _ => aluOk d true [(a, true), (b, false)]
  | .bfe _ d a ctl _ w => aluOk d w [(a, w), (ctl, false)]
  | .bfi _ d a b ctl w => aluOk d w [(a, w), (b, w), (ctl, false)]
  | .popc _ d a w => aluOk d false [(a, w)]
  | .clz _ d a w => aluOk d false [(a, w)]
  | .ctz _ d a w => aluOk d false [(a, w)]
  | .brev _ d a w => aluOk d w [(a, w)]
  | .bperm _ d a b sel => aluOk d false [(a, false), (b, false), (sel, false)]
  -- R122
  | .ballot _ d _ _ => d.scalar
  | .vote _ _ _ _ _ => true
  | .ppopc _ d _ _ => d.scalar
  | .mrank _ d _ _ => !d.scalar
  | .shfl _ d a b _ _ w => !d.scalar && aluOk d w [(a, w), (b, false)]
  | .rdlane _ d vs b w => d.scalar && aluOk d w [(b, false)] && (!w || vs.toNat % 2 == 0)
  | .wrlane _ d a b w => !d.scalar && aluOk d w [(a, w), (b, false)] && !a.isV && !b.isV
  | .wred _ d vs op w => aluOk d w [] && redOk op w && (!w || vs.toNat % 2 == 0)
  | .wscan _ d a op w _ => !d.scalar && aluOk d w [(a, w)] && redOk op w
  | .matchLane _ d a w => !d.scalar && aluOk d false [(a, w)]
  | .elect _ _ d => match d with | some e => e.scalar | none => true
  | .plop _ _ _ _ _ => true
  | .s2p _ _ a _ => predOk [(a, false)]
  -- R170
  | .fadd _ d a b _ _ _ => aluOk d false [(a, false), (b, false)]
  | .fsub _ d a b _ _ _ => aluOk d false [(a, false), (b, false)]
  | .fmul _ d a b _ _ _ => aluOk d false [(a, false), (b, false)]
  | .ffma _ d a b c _ _ _ _ => aluOk d false [(a, false), (b, false), (c, false)]
  | .fmin _ d a b _ _ _ => aluOk d false [(a, false), (b, false)]
  | .fmax _ d a b _ _ _ => aluOk d false [(a, false), (b, false)]
  | .fcmp _ _ a b _ _ _ _ => predOk [(a, false), (b, false)]
  | .fclass _ d a => aluOk d false [(a, false)]
  | .frnd _ d a _ _ _ => aluOk d false [(a, false)]
  | .fscale _ d a b _ _ => aluOk d false [(a, false), (b, false)]
  | .fdiv _ d a b _ _ _ => aluOk d false [(a, false), (b, false)]
  | .frcp _ d a _ _ => aluOk d false [(a, false)]
  | .frsq _ d a _ _ => aluOk d false [(a, false)]
  | .fsqrt _ d a _ _ _ => aluOk d false [(a, false)]
  | .fexp2 _ d a _ _ => aluOk d false [(a, false)]
  | .flog2 _ d a _ _ => aluOk d false [(a, false)]
  | .fsin _ d a _ _ => aluOk d false [(a, false)]
  | .fcos _ d a _ _ => aluOk d false [(a, false)]
  | .ftanh _ d a _ _ => aluOk d false [(a, false)]
  | .hadd2 _ d a b _ _ _ _ => aluOk d false [(a, false), (b, false)]
  | .hmul2 _ d a b _ _ _ _ => aluOk d false [(a, false), (b, false)]
  | .hfma2 _ d a b c _ _ _ _ _ => aluOk d false [(a, false), (b, false), (c, false)]
  | .hmin2 _ d a b _ _ _ _ => aluOk d false [(a, false), (b, false)]
  | .hmax2 _ d a b _ _ _ _ => aluOk d false [(a, false), (b, false)]
  | .hdot2 _ d a b c _ _ _ _ _ => aluOk d false [(a, false), (b, false), (c, false)]
  | .qdot4 _ d a b c fc inf rm _ => aluOk d false [(a, false), (b, false), (c, false)] && qdotOk fc inf rm
  | .cvt _ d a _ _ _ => aluOk d false [(a, false)]
  | .f2i _ d a _ it _ _ => aluOk d it.wide [(a, false)]
  | .i2f _ d a _ it _ => aluOk d false [(a, it.wide)]
  | .hpack _ d a b _ _ => aluOk d false [(a, false), (b, false)]
  | .hunpk _ d a _ _ _ => aluOk d false [(a, false)]
  | .qpack _ d a fw e _ => aluOk d false [(a, true), (fw, false), (e, false)] && !d.nwb
  | .qunpk _ d a fw e _ => aluOk d true [(a, false), (fw, false), (e, false)]
  | .q4pack _ d a fw e _ => aluOk d false [(a, true), (fw, false), (e, false)] && !d.nwb
  | .q4unpk _ d a fw e _ => aluOk d true [(a, false), (fw, false), (e, false)]
  | .bscale _ d a fw _ => aluOk d false [(a, false), (fw, false)]
  -- R83, R71
  | .pairWord _ so sdst sa sb vo vdst va vb => pairOk so sdst sa sb vo vdst va vb
  | .illegalWord w => illegal w
  -- R188
  | .bra _ t _ lb => lbOk t lb
  | .brx _ a rel _ => brxOk a rel
  | .call _ link _ _ => link.toNat % 2 == 0
  | .callx _ link a rel _ => link.toNat % 2 == 0 && brxOk a rel
  | .ret _ a _ => a.pair
  | .exit _ _ => true
  | .yield _ => true
  | .nop _ => true
  | .sleep _ a => scalar1 a
  | .syncst _ => true
  -- R365
  | .cjoin _ _ g => scalar1 g
  | .cleave _ => true
  | .cbr _ _ _ _ _ _ _ => true
  | .cbrw _ _ _ _ _ _ => true
  | .csync _ _ => true
  | .cstat _ dd g => scalar1 g && dd.toNat % 2 == 0
  -- R213
  | .ld _ d m sz sx _ _ => loadOk d m sz true [] && sxOk sz sx
  | .st _ m a sz _ _ => storeOk m a sz true
  | .ldl _ d m sz sx _ _ => loadOk d m sz false [] && sxOk sz sx
  | .stl _ m a sz _ _ => storeOk m a sz false
  | .ldfe _ d m sz _ _ _ _ => loadOk d m sz false []
  | .stfe _ m a sz _ => storeOk m a sz false
  | .feset _ m len _ _ => plainOk [m.base, len, m.off] && m.base.isReg
  | .ldu _ d m sz sx _ _ => loadOk d m sz true [] && sxOk sz sx
  | .stu _ m a sz _ _ => storeOk m a sz true
  | .cstore _ m a _ _ sz _ _ => storeOk m a sz true && sz != .b128 && m.base.spair && !m.off.isV
  | .xload _ d m who sz _ _ _ _ => loadOk d m sz false [who]
  -- R250, R231
  | .atom _ d m a _ sz _ _ => atomOk d m.base [m.off] [a] sz true
  | .atomcas _ d base c n sz _ _ => atomOk d base [] [c, n] sz true
  | .atomf _ d m a _ _ _ _ => atomOk d m.base [m.off] [a] .b32 true
  | .red _ m a op sz _ _ => atomSz sz && storeOk m a sz true &&
      (match op with | .int o => o != .exch | .float _ => sz == .b32)
  | .atoml _ d m a _ sz _ _ => atomOk d m.base [m.off] [a] sz false
  | .atomlcas _ d base c n sz _ _ => atomOk d base [] [c, n] sz false
  | .fence _ _ _ => true
  | .cmaint _ m len _ _ => scalOk [m.base, len, m.off] && m.base.spair
  | .icinv _ m len _ => scalOk [m.base, len, m.off] && m.base.spair
  | .tres _ _ base len _ => scalOk [base, len] && base.spair
  | .trel _ a => scalar1 a
  | .tevict _ a => scalar1 a
  | .tdemote _ a => scalar1 a
  -- R261
  | .barinit _ m n => scalOk [m.base, n, m.off]
  | .bararv _ _ m n => scalOk (m.base :: m.off :: n.toList)
  | .barwt _ m ph => scalOk [m.base, ph, m.off]
  | .bar _ m n => scalOk (m.base :: m.off :: n.toList)
  | .cntadd _ m a w l _ => plainOk [m.base, a, m.off] && (l || m.base.pair) && (!w || a.mult 2)
  | .cntwt _ m t l _ _ => plainOk [m.base, t, m.off] && (l || m.base.pair) && t.mult 2
  | .qinit _ a _ => a.spair
  | .qpush _ m _ _ => plainOk [m.base, m.off]
  | .qpop _ m _ _ => plainOk [m.base, m.off]
  | .qstat _ _ _ => true
  | .snext _ _ => true
  | .gset _ _ => true
  | .gres _ a _ => scalar1 a
  -- R294, R316
  | .jcopy _ a j => jobOk a j false
  | .jgen _ a j => jobOk a j false
  | .jfill _ a j => jobOk a j false
  | .jmcast _ a j => jobOk a j false
  | .jmma _ a db j => jobOk a j true && blockOk db 10
  | .jacc _ a db j => jobOk a j true && blockOk db 4
  | .jmv _ a db j => jobOk a j true && blockOk db 10
  | .jattn _ a db j => jobOk a j true && blockOk db 10
  | .jrot _ a db j => jobOk a j true && blockOk db 8
  | .jpub _ n => scalar1 n
  | .jcancel _ _ a => scalar1 a
  | .jstat _ _ a => scalar1 a
  | .jstatRing _ _ => true
  -- R401
  | .kvapp _ _ t n src _ => scalOk [t, n, src] && t.spair
  | .kvref _ _ p e _ _ => scalOk [p, e] && p.spair && e.spair
  | .kvdem _ _ t i _ _ => scalOk [t, i] && t.spair
  | .kvlook _ dd t i _ => scalOk [t, i] && t.spair && dd.toNat % 2 == 0
  | .kvfork _ _ dst src _ => scalOk [dst, src] && dst.spair && src.spair
  -- R350
  | .rsig _ m a w _ => plainOk [m.base, a, m.off] && m.base.pair && (!w || a.mult 2)
  | .rflush _ m len _ _ => scalOk [m.base, len, m.off] && m.base.spair
  | .rflushAll _ n _ _ => scalar1 n
  -- R433
  | .movsr _ d idx => match SReg.ofIdx idx.toNat with
      | some r => !r.wide || d.mult 2
      | none => false
  | .movrs _ a idx => match SReg.ofIdx idx.toNat with
      | some r => plainOk [a] && r.writable && (!a.isV || r == .srseed) && (!r.wide || a.mult 2)
      | none => false
  | .trap _ _ => true
  | .rft _ => true
  | .brk _ _ => true
  | .stsrd _ d m => plainOk [m] && (!d.scalar || !m.isV)
  | .intr _ _ n => scalar1 n
  | .probe _ d m => plainOk [m.base, m.off] && m.base.pair && d.mult 2 &&
      (!d.scalar || (!m.base.isV && !m.off.isV))
  | .tlbinv _ m n _ => scalOk [m.base, n, m.off] && m.base.spair
  | .tlbinvAll _ _ => true
  -- R499
  | .pmrd _ dd cid => scalar1 cid && dd.toNat % 2 == 0
  | .pmctl _ _ cid ctl => scalOk [cid, ctl]
  | .pmctlVal _ _ cid val => scalOk [cid, val] && val.mult 2
  | .lcurd _ dd cid fld => scalar1 cid && dd.toNat % 2 == 0 && (fld.toNat ≤ 4 || 16 ≤ fld.toNat)
  | .mark _ _ _ => true
  -- events, commands and acts of the host have no word
  | .fairnessEvent _ | .threadResume _ _ | .sleepExpire _ | .stageReassign _ | .launchRecordRead _ _
  | .gangPlacement _ | .waveRetire _ | .workgroupRetire _ | .launchCompletionAdd _ | .preemptRequest _
  | .waveHalt _ | .preemptTimeout _ | .contextSave _ _ | .contextRestore _ _ | .trapEntry _ | .cardAdmit _
  | .cardRelease _ | .cardStart _ | .engineGranuleWrite _ | .cardPark _ | .cardFinish _ | .cardFail _
  | .cardCancelStop _ | .qpushCommit _ _ | .qpopCopyDone _ _ | .ismvChunk _ | .engineDrainTimeout _ | .attnStep _
  | .kvHomeOperation _ | .kvdemCopyDone _ | .dwellStart _ | .portLinkLoss _ | .rds _ | .rdo _ | .wb _ | .rdu _
  | .wru _ | .atm _ | .sig _ | .inv _ | .iack _ | .data _ | .ack _ | .nack _ | .retire _ | .rack _ | .announce _
  | .flitDrop _ _ | .reincarnationTimeout _ _ | .oldKeyDrop _ _ | .streamFault _ _ | .consensusPhase _
  | .consensusVote _ | .consensusUp _ | .consensusDown _ | .consensusRestart _ | .consensusMemberLost _
  | .consensusRoundTimeout _ | .specCommit _ | .specRollback _ | .cbrwResolve _ | .rotGrant _ | .rotPiece _
  | .rotAck _ | .rotAbort _ | .rotTimeout _ | .rotHeldGrantExpire _ _ | .atsInvalidation _ _ _ _
  | .migrationLockRequest _ _ _ | .migrationDone _ | .migrationHoldoffExpire _ _ | .scrubSweepPage _ _ | .sliceEnd _
  | .watchdogExpire _ | .killDrainComplete _ | .reincarnationComplete _ | .pcapExceeded _ | .vdCreate _
  | .vdConfigParams _ | .vdConfigContext _ | .vdConfigFormat _ | .vdConfigQueue _ | .vdConfigQueueKey _
  | .vdConfigPartition _ | .vdConfigFabricRes _ | .vdConfigWindow _ | .vdGrantMem _ | .vdRevokeMem _
  | .vdBindKeyMemory _ | .vdBindKeyPartition _ | .vdBindKeyPending _ | .vdStart _ | .vdStop _ | .vdKill _
  | .vdReset _ | .vdDestroy _ | .vdMigBegin _ | .vdMigRound _ | .vdMigFinal _ | .vdMigCommitSource _
  | .vdMigCommitImport _ | .vdMigCommitAbort _ | .fgCreateFabric _ | .fgDeleteFabric _ | .fgCreateConsensus _
  | .fgDeleteConsensus _ | .fgAdd _ | .irqMap _ | .ctrGrant _ | .ctrRevoke _ | .status _ | .badop _ | .kick _ _ _
  | .faultHead _ _ _ | .faultAnswer _ _ _ | .registerWrite _ _ _ _ | .bar4Access _ _ _ _ | .cxlMemAccess _ _ _
  | .vfFlr _ | .pfFlr _ | .perst _ | .coldStart _ | .undervoltageStop | .overtempStop | .thermalThrottle _
  | .getMeasurements | .keyExchange _ | .getDeviceInterfaceReport _ | .stopInterface _ | .uncorrectableMemoryError _
  | .lockInterface _ | .startInterface _ | .ideKm _ _ | .hostCoherenceRecall _ | .relayHop _ | .linkReplay _ _
  | .allowanceRequest _ _ _ | .plimitExceeded | .queueLevelSample _ _ => true


end Sys2Proof
end

