-- ==== Sys2Proof/Decode.lean ====
section
/-! DEFINITION. Decode.lean: the decoder of instruction words (R69 to R87 and the encoding tables of every
chapter), total on any words, and the encoder beside it. -/

namespace Sys2Proof

/-! ## Fields of an F word (R72) and of an X word (R81) -/

/-- The fields of an F word or of the first word of an X instruction; `x` holds EXT and LIT of the second word. -/
structure Fields where
  x    : Option (BitVec 30 × BitVec 32)
  gneg : Bool
  gpred : BitVec 3
  opc  : BitVec 9
  nwb  : Bool
  dst  : BitVec 7
  sa   : BitVec 8
  sb   : BitVec 8
  sc   : BitVec 8
  mod  : BitVec 16
  yh   : Bool
  deriving DecidableEq, Repr

/-- One bit as a bit vector. -/
def b1 (b : Bool) : BitVec 1 := BitVec.ofBool b

/-- The first word of the fields (R72). -/
def Fields.word (f : Fields) : BitVec 64 :=
  (if f.x.isSome then 2#2 else 0#2) ++ b1 f.gneg ++ f.gpred ++ f.opc ++ b1 f.nwb ++ f.dst ++ f.sa ++ f.sb ++ f.sc ++
    f.mod ++ b1 f.yh

/-- The words of the fields: one for F, two for X (R81). -/
def Fields.words (f : Fields) : List (BitVec 64) :=
  match f.x with
  | none => [f.word]
  | some (e, l) => [f.word, 3#2 ++ e ++ l]

/-- The fields of a first word and, in an X instruction, of its second word. -/
def Fields.ofWords (w : BitVec 64) (w2 : Option (BitVec 64)) : Fields where
  x := w2.map (fun y => (slice y 32 30, slice y 0 32))
  gneg := w.getLsbD 61
  gpred := slice w 58 3
  opc := slice w 49 9
  nwb := w.getLsbD 48
  dst := slice w 41 7
  sa := slice w 33 8
  sb := slice w 25 8
  sc := slice w 17 8
  mod := slice w 1 16
  yh := w.getLsbD 0

/-! ## Codes -/

/-- The position of a value in the list of its codes. -/
def codeIn {α : Type} [DecidableEq α] (l : List α) (x : α) (w : Nat) : BitVec w := BitVec.ofNat w (l.idxOf x)

/-- The values of Cmp in the order of their codes. -/
def Cmp.list : List Cmp := [.eq, .ne, .lt, .le, .gt, .ge]
/-- The code of Cmp in its field of 3 bits. -/
def Cmp.code (x : Cmp) : BitVec 3 := codeIn Cmp.list x 3
/-- The value of Cmp with a code; a reserved code has none. -/
def Cmp.ofCode (c : BitVec 3) : Option Cmp := Cmp.list[c.toNat]?

/-- The values of Comb in the order of their codes. -/
def Comb.list : List Comb := [.set, .and, .or, .xor]
/-- The code of Comb in its field of 2 bits. -/
def Comb.code (x : Comb) : BitVec 2 := codeIn Comb.list x 2
/-- The value of Comb with a code; a reserved code has none. -/
def Comb.ofCode (c : BitVec 2) : Option Comb := Comb.list[c.toNat]?

/-- The values of ExtMode in the order of their codes. -/
def ExtMode.list : List ExtMode := [.s8, .u8, .s16, .u16, .s32, .u32]
/-- The code of ExtMode in its field of 3 bits. -/
def ExtMode.code (x : ExtMode) : BitVec 3 := codeIn ExtMode.list x 3
/-- The value of ExtMode with a code; a reserved code has none. -/
def ExtMode.ofCode (c : BitVec 3) : Option ExtMode := ExtMode.list[c.toNat]?

/-- The values of ShfDir in the order of their codes. -/
def ShfDir.list : List ShfDir := [.r, .l]
/-- The code of ShfDir in its field of 1 bit. -/
def ShfDir.code (x : ShfDir) : BitVec 1 := codeIn ShfDir.list x 1
/-- The value of ShfDir with a code; a reserved code has none. -/
def ShfDir.ofCode (c : BitVec 1) : Option ShfDir := ShfDir.list[c.toNat]?

/-- The values of VoteMode in the order of their codes. -/
def VoteMode.list : List VoteMode := [.any, .all, .uni]
/-- The code of VoteMode in its field of 2 bits. -/
def VoteMode.code (x : VoteMode) : BitVec 2 := codeIn VoteMode.list x 2
/-- The value of VoteMode with a code; a reserved code has none. -/
def VoteMode.ofCode (c : BitVec 2) : Option VoteMode := VoteMode.list[c.toNat]?

/-- The values of ShflMode in the order of their codes. -/
def ShflMode.list : List ShflMode := [.idx, .up, .down, .xor]
/-- The code of ShflMode in its field of 2 bits. -/
def ShflMode.code (x : ShflMode) : BitVec 2 := codeIn ShflMode.list x 2
/-- The value of ShflMode with a code; a reserved code has none. -/
def ShflMode.ofCode (c : BitVec 2) : Option ShflMode := ShflMode.list[c.toNat]?

/-- The values of ShflSeg in the order of their codes. -/
def ShflSeg.list : List ShflSeg := [.seg32, .seg16, .seg8, .seg4, .seg2, .seg1]
/-- The code of ShflSeg in its field of 3 bits. -/
def ShflSeg.code (x : ShflSeg) : BitVec 3 := codeIn ShflSeg.list x 3
/-- The value of ShflSeg with a code; a reserved code has none. -/
def ShflSeg.ofCode (c : BitVec 3) : Option ShflSeg := ShflSeg.list[c.toNat]?

/-- The values of RedOp in the order of their codes. -/
def RedOp.list : List RedOp := [.add, .min, .max, .umin, .umax, .and, .or, .xor, .fadd, .fmin, .fmax]
/-- The code of RedOp in its field of 4 bits. -/
def RedOp.code (x : RedOp) : BitVec 4 := codeIn RedOp.list x 4
/-- The value of RedOp with a code; a reserved code has none. -/
def RedOp.ofCode (c : BitVec 4) : Option RedOp := RedOp.list[c.toNat]?

/-- The values of FCmp in the order of their codes. -/
def FCmp.list : List FCmp := [.eq, .ne, .lt, .le, .gt, .ge, .un, .ord]
/-- The code of FCmp in its field of 3 bits. -/
def FCmp.code (x : FCmp) : BitVec 3 := codeIn FCmp.list x 3
/-- The value of FCmp with a code; a reserved code has none. -/
def FCmp.ofCode (c : BitVec 3) : Option FCmp := FCmp.list[c.toNat]?

/-- The values of Fmt16 in the order of their codes. -/
def Fmt16.list : List Fmt16 := [.f16, .bf16]
/-- The code of Fmt16 in its field of 2 bits. -/
def Fmt16.code (x : Fmt16) : BitVec 2 := codeIn Fmt16.list x 2
/-- The value of Fmt16 with a code; a reserved code has none. -/
def Fmt16.ofCode (c : BitVec 2) : Option Fmt16 := Fmt16.list[c.toNat]?

/-- The values of FFmt in the order of their codes. -/
def FFmt.list : List FFmt := [.f32, .f16, .bf16]
/-- The code of FFmt in its field of 3 bits. -/
def FFmt.code (x : FFmt) : BitVec 3 := codeIn FFmt.list x 3
/-- The value of FFmt with a code; a reserved code has none. -/
def FFmt.ofCode (c : BitVec 3) : Option FFmt := FFmt.list[c.toNat]?

/-- The values of IType in the order of their codes. -/
def IType.list : List IType := [.s32, .u32, .s64, .u64, .s16, .u16, .s8, .u8]
/-- The code of IType in its field of 3 bits. -/
def IType.code (x : IType) : BitVec 3 := codeIn IType.list x 3
/-- The value of IType with a code; a reserved code has none. -/
def IType.ofCode (c : BitVec 3) : Option IType := IType.list[c.toNat]?

/-- The values of MSize in the order of their codes. -/
def MSize.list : List MSize := [.b8, .b16, .b32, .b64, .b128]
/-- The code of MSize in its field of 3 bits. -/
def MSize.code (x : MSize) : BitVec 3 := codeIn MSize.list x 3
/-- The value of MSize with a code; a reserved code has none. -/
def MSize.ofCode (c : BitVec 3) : Option MSize := MSize.list[c.toNat]?

/-- The values of AtomOp in the order of their codes. -/
def AtomOp.list : List AtomOp := [.add, .min, .max, .umin, .umax, .and, .or, .xor, .exch, .inc, .dec]
/-- The code of AtomOp in its field of 4 bits. -/
def AtomOp.code (x : AtomOp) : BitVec 4 := codeIn AtomOp.list x 4
/-- The value of AtomOp with a code; a reserved code has none. -/
def AtomOp.ofCode (c : BitVec 4) : Option AtomOp := AtomOp.list[c.toNat]?

/-- The values of AOrd in the order of their codes. -/
def AOrd.list : List AOrd := [.none, .acq, .rel, .ar]
/-- The code of AOrd in its field of 2 bits. -/
def AOrd.code (x : AOrd) : BitVec 2 := codeIn AOrd.list x 2
/-- The value of AOrd with a code; a reserved code has none. -/
def AOrd.ofCode (c : BitVec 2) : Option AOrd := AOrd.list[c.toNat]?

/-- The values of FAtomOp in the order of their codes. -/
def FAtomOp.list : List FAtomOp := [.fadd, .fmin, .fmax]
/-- The code of FAtomOp in its field of 4 bits. -/
def FAtomOp.code (x : FAtomOp) : BitVec 4 := codeIn FAtomOp.list x 4
/-- The value of FAtomOp with a code; a reserved code has none. -/
def FAtomOp.ofCode (c : BitVec 4) : Option FAtomOp := FAtomOp.list[c.toNat]?

/-- The values of FAtomTy in the order of their codes. -/
def FAtomTy.list : List FAtomTy := [.f32, .f16x2, .bf16x2]
/-- The code of FAtomTy in its field of 3 bits. -/
def FAtomTy.code (x : FAtomTy) : BitVec 3 := codeIn FAtomTy.list x 3
/-- The value of FAtomTy with a code; a reserved code has none. -/
def FAtomTy.ofCode (c : BitVec 3) : Option FAtomTy := FAtomTy.list[c.toNat]?

/-- The values of FenceKind in the order of their codes. -/
def FenceKind.list : List FenceKind := [.sc, .acq, .rel]
/-- The code of FenceKind in its field of 2 bits. -/
def FenceKind.code (x : FenceKind) : BitVec 2 := codeIn FenceKind.list x 2
/-- The value of FenceKind with a code; a reserved code has none. -/
def FenceKind.ofCode (c : BitVec 2) : Option FenceKind := FenceKind.list[c.toNat]?

/-- The values of CmOp in the order of their codes. -/
def CmOp.list : List CmOp := [.wb, .wbinv, .inv]
/-- The code of CmOp in its field of 2 bits. -/
def CmOp.code (x : CmOp) : BitVec 2 := codeIn CmOp.list x 2
/-- The value of CmOp with a code; a reserved code has none. -/
def CmOp.ofCode (c : BitVec 2) : Option CmOp := CmOp.list[c.toNat]?

/-- The values of MarkOp in the order of their codes. -/
def MarkOp.list : List MarkOp := [.ev, .beg, .fin]
/-- The code of MarkOp in its field of 2 bits. -/
def MarkOp.code (x : MarkOp) : BitVec 2 := codeIn MarkOp.list x 2
/-- The value of MarkOp with a code; a reserved code has none. -/
def MarkOp.ofCode (c : BitVec 2) : Option MarkOp := MarkOp.list[c.toNat]?

/-- The values of CMode in the order of their codes. -/
def CMode.list : List CMode := [.any, .all]
/-- The code of CMode in its field of 1 bit. -/
def CMode.code (x : CMode) : BitVec 1 := codeIn CMode.list x 1
/-- The value of CMode with a code; a reserved code has none. -/
def CMode.ofCode (c : BitVec 1) : Option CMode := CMode.list[c.toNat]?

/-- The values of CHint in the order of their codes. -/
def CHint.list : List CHint := [.pt, .pn, .pl]
/-- The code of CHint in its field of 2 bits. -/
def CHint.code (x : CHint) : BitVec 2 := codeIn CHint.list x 2
/-- The value of CHint with a code; a reserved code has none. -/
def CHint.ofCode (c : BitVec 2) : Option CHint := CHint.list[c.toNat]?

/-- The values of CtrMode in the order of their codes. -/
def CtrMode.list : List CtrMode := [.global, .scratch, .barrier]
/-- The code of CtrMode in its field of 2 bits. -/
def CtrMode.code (x : CtrMode) : BitVec 2 := codeIn CtrMode.list x 2
/-- The value of CtrMode with a code; a reserved code has none. -/
def CtrMode.ofCode (c : BitVec 2) : Option CtrMode := CtrMode.list[c.toNat]?

/-- The values of Scope in the order of their codes. -/
def Scope.list : List Scope := [.th, .wv, .wg, .cl, .die, .dev, .node, .grp, .ten, .pod, .sys]
/-- The code of Scope in its field of 4 bits. -/
def Scope.code (x : Scope) : BitVec 4 := codeIn Scope.list x 4
/-- The value of Scope with a code; a reserved code has none. -/
def Scope.ofCode (c : BitVec 4) : Option Scope := Scope.list[c.toNat]?

/-- The values of RMode in the order of their codes. -/
def RMode.list : List RMode := [.rne, .rz, .ru, .rd, .rna, .sr]
/-- The code of RMode in its field of 3 bits. -/
def RMode.code (x : RMode) : BitVec 3 := codeIn RMode.list x 3
/-- The value of RMode with a code; a reserved code has none. -/
def RMode.ofCode (c : BitVec 3) : Option RMode := RMode.list[c.toNat]?

/-- The values of PairS in the order of their codes. -/
def PairS.list : List PairS := [.iadd, .isub, .imul, .imin, .imax, .and, .or, .xor, .shl, .shr, .sar, .mov, .andn, .iaddw, .popc, .nop]
/-- The code of PairS in its field of 7 bits. -/
def PairS.code (x : PairS) : BitVec 7 := codeIn PairS.list x 7
/-- The value of PairS with a code; a reserved code has none. -/
def PairS.ofCode (c : BitVec 7) : Option PairS := PairS.list[c.toNat]?

/-- The values of PairV in the order of their codes. -/
def PairV.list : List PairV := [.iadd, .isub, .imul, .imin, .imax, .and, .or, .xor, .shl, .shr, .sar, .mov, .fadd, .fsub, .fmul, .fmin, .fmax, .hadd2, .hmul2, .hmin2, .hmax2, .nop]
/-- The code of PairV in its field of 7 bits. -/
def PairV.code (x : PairV) : BitVec 7 := codeIn PairV.list x 7
/-- The value of PairV with a code; a reserved code has none. -/
def PairV.ofCode (c : BitVec 7) : Option PairV := PairV.list[c.toNat]?
/-! ## Operand codes (R75, R79) -/

/-- The code of a source operand. -/
def Src.code : Src → BitVec 8
  | .v n => 0#2 ++ n
  | .s n => 1#2 ++ n
  | .b n => 0x20#6 ++ n
  | .lit _ => 0x88#8
  | .fconst n => 9#4 ++ n
  | .iconst n => 3#2 ++ n

/-- The source operand of a code; LIT takes the literal of the second word, and a reserved code gives none. -/
def Src.ofCode (c : BitVec 8) (lit : Option (BitVec 32)) : Option Src :=
  if slice c 6 2 = 0#2 then some (.v (slice c 0 6))
  else if slice c 6 2 = 1#2 then some (.s (slice c 0 6))
  else if slice c 6 2 = 3#2 then some (.iconst (slice c 0 6))
  else if slice c 2 6 = 0x20#6 then some (.b (slice c 0 2))
  else if c = 0x88#8 then lit.map Src.lit
  else if slice c 4 4 = 9#4 then some (.fconst (slice c 0 4))
  else none

/-- The literal of a source operand. -/
def Src.litOf : Src → Option (BitVec 32)
  | .lit x => some x
  | _ => none

/-- DST and NWB of an instruction that writes no register. -/
def Dst.none : Bool × BitVec 7 := (false, 0)
/-- DST of a scalar register. -/
def Dst.sc (n : BitVec 6) : Bool × BitVec 7 := (false, 1#1 ++ n)
/-- DST of a vector register. -/
def Dst.ve (n : BitVec 6) : Bool × BitVec 7 := (false, 0#1 ++ n)
/-- NWB and DST of a destination (R79). -/
def Dst.enc : Dst → Bool × BitVec 7
  | .v n => Dst.ve n
  | .s n => Dst.sc n
  | .latchV => (true, 0#7)
  | .latchS => (true, 0x40#7)
/-- DST of an optional scalar result. -/
def Dst.opt : Option (BitVec 6) → Bool × BitVec 7
  | some n => Dst.sc n
  | Option.none => Dst.none
/-- NWB and DST of the optional destination of ELECT. -/
def Dst.opt' : Option Dst → Bool × BitVec 7
  | some d => d.enc
  | Option.none => Dst.none
/-- DST of a register that is no latch. -/
def RegDst.enc : RegDst → Bool × BitVec 7
  | .v n => Dst.ve n
  | .s n => Dst.sc n

/-! ## Modifiers, by their bit positions in the word (MOD is bits [16:1]) -/

/-- A flag at a word bit. -/
def bit (b : Bool) (k : Nat) : BitVec 16 := (BitVec.ofBool b).setWidth 16 <<< (k - 1)
/-- A field with its lowest word bit. -/
def fld {n : Nat} (x : BitVec n) (k : Nat) : BitVec 16 := x.setWidth 16 <<< (k - 1)
/-- SCOPE [5:2] and SP [1] (R94). -/
def encScope : Option Scope → BitVec 16
  | some s => fld s.code 2 ||| bit true 1
  | none => 0
/-- RM [9:7] and RX [10] (R166). -/
def encRm : Option RMode → BitVec 16
  | some r => fld r.code 7 ||| bit true 10
  | none => 0
/-- RM, RX, SAT [11] and FZ [12]. -/
def FMod.enc (m : FMod) : BitVec 16 := encRm m.rm ||| bit m.sat 11 ||| bit m.ftz 12
/-- N and A of one source, N at the lower bit. -/
def SMod.enc (m : SMod) (k : Nat) : BitVec 16 := bit m.neg k ||| bit m.abs (k + 1)
/-- TRY at bit p and PD at bit q, which is 7 without TRY. -/
def encTry (t : Option (BitVec 3)) (p q : Nat) : BitVec 16 :=
  match t with
  | some pd => bit true p ||| fld pd q
  | none => fld 7#3 q
/-- OP of RED: 0–10 the integer operations, 11–13 the binary32 ones (R250). -/
def RedMemOp.code : RedMemOp → BitVec 4
  | .int o => o.code
  | .float o => o.code + 11#4
/-- The operation of RED with a code. -/
def RedMemOp.ofCode (c : BitVec 4) : Option RedMemOp :=
  if c.toNat < 11 then (AtomOp.ofCode c).map .int else (FAtomOp.ofCode (c - 11#4)).map .float
/-- SA of BRA and CALL: LIT in the X form. -/
def BTarget.src : BTarget → Src
  | .off _ => .zero
  | .lit x => .lit x
/-- OFF [16:3]. -/
def BTarget.enc : BTarget → BitVec 16
  | .off o => fld o 3
  | .lit _ => 0
/-- SB of a job instruction: the counter pair, or 0xE0 for none (R294). -/
def JobOps.ctrSrc (j : JobOps) : Src :=
  match j.ctr with
  | some k => .s k
  | none => .iconst 32
/-- SP, SCOPE, CM [7:6], G [11:8] and RD [12] (R294). -/
def JobOps.enc (j : JobOps) : BitVec 16 :=
  encScope j.scope ||| fld j.cm.code 6 ||| fld j.g 8 ||| bit j.sd.isSome 12

/-! ## The encoder -/

/-- The fields of an instruction from its operands: the literal X form when a source is the literal (R82). -/
def row (h : Hdr) (opc : BitVec 9) (d : Bool × BitVec 7) (a b c : Src) (mod : BitVec 16) : Fields where
  x := ((a.litOf.or b.litOf).or c.litOf).map (fun l => (0, l))
  gneg := h.guard.neg
  gpred := h.guard.pred
  opc := opc
  nwb := d.1
  dst := d.2
  sa := a.code
  sb := b.code
  sc := c.code
  mod := mod
  yh := h.yh

/-- The fields of CBR and CBRW: an extension X form with SITE [61:46] and OFF [45:32] in the second word (R365). -/
def rowExt (h : Hdr) (opc : BitVec 9) (mod : BitVec 16) (site : BitVec 16) (off : BitVec 14) : Fields :=
  { row h opc Dst.none .zero .zero .zero mod with x := some (site ++ off, 0) }

/-- The fields of an F or X instruction. P words, illegal words, events and commands have none. -/
def Instr.fields : Instr → Option Fields
  | .iadd h x0 x1 x2 x3 x4 => some (row h 0x000 (x0.enc) x1 x2 .zero (bit x3 1 ||| bit x4 2))
  | .isub h x0 x1 x2 x3 x4 => some (row h 0x001 (x0.enc) x1 x2 .zero (bit x3 1 ||| bit x4 2))
  | .iadd3 h x0 x1 x2 x3 x4 x5 => some (row h 0x002 (x0.enc) x1 x2 x3 (bit x4 1 ||| bit x5 2))
  | .iaddw h x0 x1 x2 x3 x4 => some (row h 0x003 (x0.enc) x1 x2 .zero (bit x3 1 ||| bit x4 2))
  | .isubw h x0 x1 x2 x3 x4 => some (row h 0x004 (x0.enc) x1 x2 .zero (bit x3 1 ||| bit x4 2))
  | .imul h x0 x1 x2 x3 x4 => some (row h 0x005 (x0.enc) x1 x2 .zero (bit x3 1 ||| bit x4 2))
  | .imulhi h x0 x1 x2 x3 => some (row h 0x006 (x0.enc) x1 x2 .zero (bit x3 1))
  | .imad h x0 x1 x2 x3 x4 x5 => some (row h 0x007 (x0.enc) x1 x2 x3 (bit x4 1 ||| bit x5 2))
  | .imadw h x0 x1 x2 x3 x4 x5 => some (row h 0x008 (x0.enc) x1 x2 x3 (bit x4 1 ||| bit x5 2))
  | .imin h x0 x1 x2 x3 x4 => some (row h 0x009 (x0.enc) x1 x2 .zero (bit x3 1 ||| bit x4 3))
  | .imax h x0 x1 x2 x3 x4 => some (row h 0x00a (x0.enc) x1 x2 .zero (bit x3 1 ||| bit x4 3))
  | .iabs h x0 x1 x2 => some (row h 0x00b (x0.enc) x1 .zero .zero (bit x2 2))
  | .idiff h x0 x1 x2 x3 => some (row h 0x00c (x0.enc) x1 x2 .zero (bit x3 1))
  | .iclamp h x0 x1 x2 x3 x4 => some (row h 0x00d (x0.enc) x1 x2 x3 (bit x4 1))
  | .icmp h x0 x1 x2 x3 x4 x5 => some (row h 0x00e (Dst.none) x1 x2 .zero (fld x0 14 ||| fld (Cmp.code x3) 4 |||
      bit x4 1 ||| fld (Comb.code x5) 12))
  | .icmpw h x0 x1 x2 x3 x4 x5 => some (row h 0x00f (Dst.none) x1 x2 .zero (fld x0 14 ||| fld (Cmp.code x3) 4 |||
      bit x4 1 ||| fld (Comb.code x5) 12))
  | .isel h x0 x1 x2 x3 x4 x5 => some (row h 0x010 (x0.enc) x1 x2 .zero (fld x3 14 ||| bit x4 13 ||| bit x5 3))
  | .mov h x0 x1 => some (row h 0x011 (x0.enc) x1 .zero .zero (0))
  | .movw h x0 x1 => some (row h 0x012 (x0.enc) x1 .zero .zero (0))
  | .movhi h x0 x1 x2 => some (row h 0x013 (x0.enc) x1 x2 .zero (0))
  | .iext h x0 x1 x2 => some (row h 0x014 (x0.enc) x1 .zero .zero (fld (ExtMode.code x2) 1))
  | .idiv h x0 x1 x2 x3 x4 x5 => some (row h 0x015 (x0.enc) x1 x2 .zero (bit x3 1 ||| bit x4 2 ||| bit x5 3))
  | .irem h x0 x1 x2 x3 x4 => some (row h 0x016 (x0.enc) x1 x2 .zero (bit x3 1 ||| bit x4 3))
  | .lea h x0 x1 x2 x3 x4 x5 => some (row h 0x017 (x0.enc) x1 x2 x3 (bit x4 1 ||| fld x5 4))
  | .and h x0 x1 x2 x3 => some (row h 0x018 (x0.enc) x1 x2 .zero (bit x3 3))
  | .or h x0 x1 x2 x3 => some (row h 0x019 (x0.enc) x1 x2 .zero (bit x3 3))
  | .xor h x0 x1 x2 x3 => some (row h 0x01a (x0.enc) x1 x2 .zero (bit x3 3))
  | .andn h x0 x1 x2 x3 => some (row h 0x01b (x0.enc) x1 x2 .zero (bit x3 3))
  | .lop3 h x0 x1 x2 x3 x4 x5 => some (row h 0x01c (x0.enc) x1 x2 x3 (bit x4 3 ||| fld x5 4))
  | .shl h x0 x1 x2 x3 => some (row h 0x01d (x0.enc) x1 x2 .zero (bit x3 4))
  | .shr h x0 x1 x2 x3 => some (row h 0x01e (x0.enc) x1 x2 .zero (bit x3 4))
  | .sar h x0 x1 x2 x3 => some (row h 0x01f (x0.enc) x1 x2 .zero (bit x3 4))
  | .shf h x0 x1 x2 x3 x4 x5 => some (row h 0x020 (x0.enc) x1 x2 x3 (fld (ShfDir.code x4) 1 ||| bit x5 4))
  | .shlw h x0 x1 x2 x3 => some (row h 0x021 (x0.enc) x1 x2 .zero (bit x3 4))
  | .shrw h x0 x1 x2 x3 => some (row h 0x022 (x0.enc) x1 x2 .zero (bit x3 4))
  | .sarw h x0 x1 x2 x3 => some (row h 0x023 (x0.enc) x1 x2 .zero (bit x3 4))
  | .bfe h x0 x1 x2 x3 x4 => some (row h 0x024 (x0.enc) x1 x2 .zero (bit x3 1 ||| bit x4 3))
  | .bfi h x0 x1 x2 x3 x4 => some (row h 0x025 (x0.enc) x1 x2 x3 (bit x4 3))
  | .popc h x0 x1 x2 => some (row h 0x026 (x0.enc) x1 .zero .zero (bit x2 3))
  | .clz h x0 x1 x2 => some (row h 0x027 (x0.enc) x1 .zero .zero (bit x2 3))
  | .ctz h x0 x1 x2 => some (row h 0x028 (x0.enc) x1 .zero .zero (bit x2 3))
  | .brev h x0 x1 x2 => some (row h 0x029 (x0.enc) x1 .zero .zero (bit x2 3))
  | .bperm h x0 x1 x2 x3 => some (row h 0x02a (x0.enc) x1 x2 x3 (0))
  | .ballot h x0 x1 x2 => some (row h 0x040 (x0.enc) .zero .zero .zero (fld x1 14 ||| bit x2 13))
  | .vote h x0 x1 x2 x3 => some (row h 0x041 (Dst.none) .zero .zero .zero (fld (VoteMode.code x0) 1 ||| fld x1 14
      ||| fld x2 10 ||| bit x3 13))
  | .ppopc h x0 x1 x2 => some (row h 0x042 (x0.enc) .zero .zero .zero (fld x1 14 ||| bit x2 13))
  | .mrank h x0 x1 x2 => some (row h 0x043 (x0.enc) .zero .zero .zero (fld x1 14 ||| bit x2 13))
  | .shfl h x0 x1 x2 x3 x4 x5 => some (row h 0x044 (x0.enc) x1 x2 .zero (fld (ShflMode.code x3) 1 ||| fld
      (ShflSeg.code x4) 4 ||| bit x5 3))
  | .rdlane h x0 x1 x2 x3 => some (row h 0x045 (x0.enc) .zero x2 .zero (fld x1 11 ||| bit x3 1))
  | .wrlane h x0 x1 x2 x3 => some (row h 0x046 (x0.enc) x1 x2 .zero (bit x3 1))
  | .wred h x0 x1 x2 x3 => some (row h 0x047 (x0.enc) .zero .zero .zero (fld x1 11 ||| fld (RedOp.code x2) 1 |||
      bit x3 5))
  | .wscan h x0 x1 x2 x3 x4 => some (row h 0x048 (x0.enc) x1 .zero .zero (fld (RedOp.code x2) 1 ||| bit x3 5 |||
      bit x4 6))
  | .matchLane h x0 x1 x2 => some (row h 0x049 (x0.enc) x1 .zero .zero (bit x2 3))
  | .elect h x0 x1 => some (row h 0x04a (Dst.opt' x1) .zero .zero .zero (fld x0 14 ||| bit x1.isSome 12))
  | .plop h x0 x1 x2 x3 => some (row h 0x04b (Dst.none) .zero .zero .zero (fld x0 14 ||| fld x1 11 ||| fld x2 8 |||
      fld x3 1))
  | .s2p h x0 x1 x2 => some (row h 0x04c (Dst.none) x1 .zero .zero (fld x0 14 ||| bit x2 1))
  | .fadd h x0 x1 x2 x3 x4 x5 => some (row h 0x060 (x0.enc) x1 x2 .zero (x3.enc 1 ||| x4.enc 3 ||| x5.enc))
  | .fsub h x0 x1 x2 x3 x4 x5 => some (row h 0x061 (x0.enc) x1 x2 .zero (x3.enc 1 ||| x4.enc 3 ||| x5.enc))
  | .fmul h x0 x1 x2 x3 x4 x5 => some (row h 0x062 (x0.enc) x1 x2 .zero (x3.enc 1 ||| x4.enc 3 ||| x5.enc))
  | .ffma h x0 x1 x2 x3 x4 x5 x6 x7 => some (row h 0x063 (x0.enc) x1 x2 x3 (x4.enc 1 ||| x5.enc 3 ||| x6.enc 5 |||
      x7.enc))
  | .fmin h x0 x1 x2 x3 x4 x5 => some (row h 0x064 (x0.enc) x1 x2 .zero (x3.enc 1 ||| x4.enc 3 ||| bit x5 12))
  | .fmax h x0 x1 x2 x3 x4 x5 => some (row h 0x065 (x0.enc) x1 x2 .zero (x3.enc 1 ||| x4.enc 3 ||| bit x5 12))
  | .fcmp h x0 x1 x2 x3 x4 x5 x6 => some (row h 0x066 (Dst.none) x1 x2 .zero (fld x0 14 ||| x3.enc 1 ||| x4.enc 3
      ||| fld (FCmp.code x5) 5 ||| fld (Comb.code x6) 12))
  | .fclass h x0 x1 => some (row h 0x067 (x0.enc) x1 .zero .zero (0))
  | .frnd h x0 x1 x2 x3 x4 => some (row h 0x068 (x0.enc) x1 .zero .zero (x2.enc 1 ||| encRm x3 ||| bit x4 12))
  | .fscale h x0 x1 x2 x3 x4 => some (row h 0x069 (x0.enc) x1 x2 .zero (x3.enc 1 ||| x4.enc))
  | .fdiv h x0 x1 x2 x3 x4 x5 => some (row h 0x06a (x0.enc) x1 x2 .zero (x3.enc 1 ||| x4.enc 3 ||| x5.enc))
  | .frcp h x0 x1 x2 x3 => some (row h 0x06b (x0.enc) x1 .zero .zero (x2.enc 1 ||| bit x3 12))
  | .frsq h x0 x1 x2 x3 => some (row h 0x06c (x0.enc) x1 .zero .zero (x2.enc 1 ||| bit x3 12))
  | .fsqrt h x0 x1 x2 x3 x4 => some (row h 0x06d (x0.enc) x1 .zero .zero (x2.enc 1 ||| encRm x3 ||| bit x4 12))
  | .fexp2 h x0 x1 x2 x3 => some (row h 0x06e (x0.enc) x1 .zero .zero (x2.enc 1 ||| bit x3 12))
  | .flog2 h x0 x1 x2 x3 => some (row h 0x06f (x0.enc) x1 .zero .zero (x2.enc 1 ||| bit x3 12))
  | .fsin h x0 x1 x2 x3 => some (row h 0x070 (x0.enc) x1 .zero .zero (x2.enc 1 ||| bit x3 12))
  | .fcos h x0 x1 x2 x3 => some (row h 0x071 (x0.enc) x1 .zero .zero (x2.enc 1 ||| bit x3 12))
  | .ftanh h x0 x1 x2 x3 => some (row h 0x072 (x0.enc) x1 .zero .zero (x2.enc 1 ||| bit x3 12))
  | .hadd2 h x0 x1 x2 x3 x4 x5 x6 => some (row h 0x078 (x0.enc) x1 x2 .zero (x3.enc 1 ||| x4.enc 3 ||| x5.enc |||
      fld (Fmt16.code x6) 13))
  | .hmul2 h x0 x1 x2 x3 x4 x5 x6 => some (row h 0x079 (x0.enc) x1 x2 .zero (x3.enc 1 ||| x4.enc 3 ||| x5.enc |||
      fld (Fmt16.code x6) 13))
  | .hfma2 h x0 x1 x2 x3 x4 x5 x6 x7 x8 => some (row h 0x07a (x0.enc) x1 x2 x3 (x4.enc 1 ||| x5.enc 3 ||| x6.enc 5
      ||| x7.enc ||| fld (Fmt16.code x8) 13))
  | .hmin2 h x0 x1 x2 x3 x4 x5 x6 => some (row h 0x07b (x0.enc) x1 x2 .zero (x3.enc 1 ||| x4.enc 3 ||| bit x5 12
      ||| fld (Fmt16.code x6) 13))
  | .hmax2 h x0 x1 x2 x3 x4 x5 x6 => some (row h 0x07c (x0.enc) x1 x2 .zero (x3.enc 1 ||| x4.enc 3 ||| bit x5 12
      ||| fld (Fmt16.code x6) 13))
  | .hdot2 h x0 x1 x2 x3 x4 x5 x6 x7 x8 => some (row h 0x07d (x0.enc) x1 x2 x3 (x4.enc 1 ||| x5.enc 3 ||| x6.enc 5
      ||| x7.enc ||| fld (Fmt16.code x8) 13))
  | .qdot4 h x0 x1 x2 x3 x4 x5 x6 x7 => some (row h 0x07e (x0.enc) x1 x2 x3 (fld x4 1 ||| bit x5 13 ||| encRm x6
      ||| bit x7 11))
  | .cvt h x0 x1 x2 x3 x4 => some (row h 0x080 (x0.enc) x1 .zero .zero (fld (FFmt.code x2) 1 ||| fld (FFmt.code x3)
      4 ||| x4.enc))
  | .f2i h x0 x1 x2 x3 x4 x5 => some (row h 0x081 (x0.enc) x1 .zero .zero (fld (FFmt.code x2) 1 ||| fld (IType.code
      x3) 4 ||| encRm x4 ||| bit x5 12))
  | .i2f h x0 x1 x2 x3 x4 => some (row h 0x082 (x0.enc) x1 .zero .zero (fld (FFmt.code x2) 1 ||| fld (IType.code
      x3) 4 ||| x4.enc))
  | .hpack h x0 x1 x2 x3 x4 => some (row h 0x083 (x0.enc) x1 x2 .zero (x3.enc ||| fld (Fmt16.code x4) 13))
  | .hunpk h x0 x1 x2 x3 x4 => some (row h 0x084 (x0.enc) x1 .zero .zero (bit x2 1 ||| bit x3 12 ||| fld
      (Fmt16.code x4) 13))
  | .qpack h x0 x1 x2 x3 x4 => some (row h 0x085 (x0.enc) x1 x2 x3 (bit x4 1))
  | .qunpk h x0 x1 x2 x3 x4 => some (row h 0x086 (x0.enc) x1 x2 x3 (bit x4 1))
  | .q4pack h x0 x1 x2 x3 x4 => some (row h 0x087 (x0.enc) x1 x2 x3 (fld x4 1))
  | .q4unpk h x0 x1 x2 x3 x4 => some (row h 0x088 (x0.enc) x1 x2 x3 (fld x4 1))
  | .bscale h x0 x1 x2 x3 => some (row h 0x089 (x0.enc) x1 x2 .zero (bit x3 1))
  | .bra h x0 x1 x2 => some (row h 0x0c0 (Dst.none) x0.src .zero .zero (x0.enc ||| bit x1 1 ||| bit x2 2))
  | .brx h x0 x1 x2 => some (row h 0x0c1 (Dst.none) x0 .zero .zero (bit x1 3 ||| bit x2 1))
  | .call h x0 x1 x2 => some (row h 0x0c2 (Dst.ve x0) x1.src .zero .zero (x1.enc ||| bit x2 1))
  | .callx h x0 x1 x2 x3 => some (row h 0x0c3 (Dst.ve x0) x1 .zero .zero (bit x2 3 ||| bit x3 1))
  | .ret h x0 x1 => some (row h 0x0c4 (Dst.none) x0 .zero .zero (bit x1 1))
  | .exit h x0 => some (row h 0x0c5 (Dst.none) .zero .zero .zero (bit x0 1))
  | .yield h => some (row h 0x0c6 (Dst.none) .zero .zero .zero (0))
  | .nop h => some (row h 0x0c7 (Dst.none) .zero .zero .zero (0))
  | .sleep h x0 => some (row h 0x0c8 (Dst.none) x0 .zero .zero (0))
  | .syncst h => some (row h 0x0c9 (Dst.none) .zero .zero .zero (0))
  | .cjoin h x0 x1 => some (row h 0x0e0 (Dst.sc x0) x1 .zero .zero (0))
  | .cleave h => some (row h 0x0e1 (Dst.none) .zero .zero .zero (0))
  | .csync h x0 => some (row h 0x0e4 (Dst.opt x0) .zero .zero .zero (bit x0.isSome 1))
  | .cstat h x0 x1 => some (row h 0x0e5 (Dst.sc x0) x1 .zero .zero (0))
  | .ld h x0 x1 x2 x3 x4 x5 => some (row h 0x100 (x0.enc) x1.base .zero x1.off (fld (MSize.code x2) 6 ||| bit x3 9
      ||| bit x4 10 ||| encScope x5))
  | .st h x0 x1 x2 x3 x4 => some (row h 0x101 (Dst.none) x0.base x1 x0.off (fld (MSize.code x2) 6 ||| bit x3 10 |||
      encScope x4))
  | .ldl h x0 x1 x2 x3 x4 x5 => some (row h 0x102 (x0.enc) x1.base .zero x1.off (fld (MSize.code x2) 6 ||| bit x3 9
      ||| bit x4 10 ||| encScope x5))
  | .stl h x0 x1 x2 x3 x4 => some (row h 0x103 (Dst.none) x0.base x1 x0.off (fld (MSize.code x2) 6 ||| bit x3 10
      ||| encScope x4))
  | .ldfe h x0 x1 x2 x3 x4 x5 x6 => some (row h 0x104 (x0.enc) x1.base .zero x1.off (fld (MSize.code x2) 6 ||| bit
      x3 9 ||| bit x4 11 ||| encTry x5 12 14 ||| encScope x6))
  | .stfe h x0 x1 x2 x3 => some (row h 0x105 (Dst.none) x0.base x1 x0.off (fld (MSize.code x2) 6 ||| encScope x3))
  | .feset h x0 x1 x2 x3 => some (row h 0x106 (Dst.none) x0.base x1 x0.off (bit x2 11 ||| encScope x3))
  | .ldu h x0 x1 x2 x3 x4 x5 => some (row h 0x107 (x0.enc) x1.base .zero x1.off (fld (MSize.code x2) 6 ||| bit x3 9
      ||| bit x4 10 ||| encScope x5))
  | .stu h x0 x1 x2 x3 x4 => some (row h 0x108 (Dst.none) x0.base x1 x0.off (fld (MSize.code x2) 6 ||| bit x3 10
      ||| encScope x4))
  | .cstore h x0 x1 x2 x3 x4 x5 x6 => some (row h 0x109 (Dst.none) x0.base x1 x0.off (fld x2 14 ||| bit x3 13 |||
      fld (MSize.code x4) 6 ||| bit x5 10 ||| encScope x6))
  | .xload h x0 x1 x2 x3 x4 x5 x6 x7 => some (row h 0x10a (x0.enc) x1.base x2 x1.off (fld (MSize.code x3) 6 ||| bit
      x4 9 ||| bit x5 11 ||| bit x6 10 ||| encScope x7))
  | .atom h x0 x1 x2 x3 x4 x5 x6 => some (row h 0x140 (x0.enc) x1.base x2 x1.off (fld (AtomOp.code x3) 11 ||| fld
      (MSize.code x4) 6 ||| fld (AOrd.code x5) 9 ||| encScope x6))
  | .atomcas h x0 x1 x2 x3 x4 x5 x6 => some (row h 0x141 (x0.enc) x1 x2 x3 (fld (MSize.code x4) 6 ||| fld
      (AOrd.code x5) 9 ||| encScope x6))
  | .atomf h x0 x1 x2 x3 x4 x5 x6 => some (row h 0x142 (x0.enc) x1.base x2 x1.off (fld (FAtomOp.code x3) 11 ||| fld
      (FAtomTy.code x4) 6 ||| fld (AOrd.code x5) 9 ||| encScope x6))
  | .red h x0 x1 x2 x3 x4 x5 => some (row h 0x143 (Dst.none) x0.base x1 x0.off (fld (RedMemOp.code x2) 11 ||| fld
      (MSize.code x3) 6 ||| bit x4 10 ||| encScope x5))
  | .atoml h x0 x1 x2 x3 x4 x5 x6 => some (row h 0x144 (x0.enc) x1.base x2 x1.off (fld (AtomOp.code x3) 11 ||| fld
      (MSize.code x4) 6 ||| fld (AOrd.code x5) 9 ||| encScope x6))
  | .atomlcas h x0 x1 x2 x3 x4 x5 x6 => some (row h 0x145 (x0.enc) x1 x2 x3 (fld (MSize.code x4) 6 ||| fld
      (AOrd.code x5) 9 ||| encScope x6))
  | .fence h x0 x1 => some (row h 0x146 (Dst.none) .zero .zero .zero (fld (FenceKind.code x0) 6 ||| encScope x1))
  | .cmaint h x0 x1 x2 x3 => some (row h 0x147 (Dst.none) x0.base x1 x0.off (fld (CmOp.code x2) 6 ||| encScope x3))
  | .icinv h x0 x1 x2 => some (row h 0x148 (Dst.none) x0.base x1 x0.off (encScope x2))
  | .tres h x0 x1 x2 x3 => some (row h 0x149 (Dst.sc x0) x1 x2 .zero (fld x3 1))
  | .trel h x0 => some (row h 0x14a (Dst.none) x0 .zero .zero (0))
  | .tevict h x0 => some (row h 0x14b (Dst.none) x0 .zero .zero (0))
  | .tdemote h x0 => some (row h 0x14c (Dst.none) x0 .zero .zero (0))
  | .barinit h x0 x1 => some (row h 0x160 (Dst.none) x0.base x1 x0.off (0))
  | .bararv h x0 x1 x2 => some (row h 0x161 (Dst.opt x0) x1.base (x2.getD .zero) x1.off (bit x0.isSome 1 ||| bit
      x2.isSome 2))
  | .barwt h x0 x1 => some (row h 0x162 (Dst.none) x0.base x1 x0.off (0))
  | .bar h x0 x1 => some (row h 0x163 (Dst.none) x0.base (x1.getD .zero) x0.off (bit x1.isSome 2))
  | .cntadd h x0 x1 x2 x3 x4 => some (row h 0x164 (Dst.none) x0.base x1 x0.off (bit x2 12 ||| bit x3 11 |||
      encScope x4))
  | .cntwt h x0 x1 x2 x3 x4 => some (row h 0x165 (Dst.none) x0.base x1 x0.off (bit x2 11 ||| encTry x3 10 14 |||
      encScope x4))
  | .qinit h x0 x1 => some (row h 0x166 (Dst.none) x0 .zero .zero (fld x1 13))
  | .qpush h x0 x1 x2 => some (row h 0x167 (Dst.none) x0.base .zero x0.off (fld x1 13 ||| encTry x2 9 10))
  | .qpop h x0 x1 x2 => some (row h 0x168 (Dst.none) x0.base .zero x0.off (fld x1 13 ||| encTry x2 9 10))
  | .qstat h x0 x1 => some (row h 0x169 (Dst.sc x0) .zero .zero .zero (fld x1 13))
  | .snext h x0 => some (row h 0x16a (Dst.none) .zero .zero .zero (bit x0 1))
  | .gset h x0 => some (row h 0x16b (Dst.sc x0) .zero .zero .zero (0))
  | .gres h x0 x1 => some (row h 0x16c (Dst.none) x0 .zero .zero (bit x1 1))
  | .jcopy h x0 x1 => some (row h 0x180 (Dst.opt x1.sd) x0 x1.ctrSrc x1.inc (x1.enc))
  | .jgen h x0 x1 => some (row h 0x181 (Dst.opt x1.sd) x0 x1.ctrSrc x1.inc (x1.enc))
  | .jfill h x0 x1 => some (row h 0x182 (Dst.opt x1.sd) x0 x1.ctrSrc x1.inc (x1.enc))
  | .jmcast h x0 x1 => some (row h 0x183 (Dst.opt x1.sd) x0 x1.ctrSrc x1.inc (x1.enc))
  | .jmma h x0 x1 x2 => some (row h 0x184 (Dst.opt x2.sd) x0 x2.ctrSrc x2.inc (fld x1 13 ||| x2.enc))
  | .jacc h x0 x1 x2 => some (row h 0x185 (Dst.opt x2.sd) x0 x2.ctrSrc x2.inc (fld x1 13 ||| x2.enc))
  | .jmv h x0 x1 x2 => some (row h 0x186 (Dst.opt x2.sd) x0 x2.ctrSrc x2.inc (fld x1 13 ||| x2.enc))
  | .jattn h x0 x1 x2 => some (row h 0x187 (Dst.opt x2.sd) x0 x2.ctrSrc x2.inc (fld x1 13 ||| x2.enc))
  | .jrot h x0 x1 x2 => some (row h 0x188 (Dst.opt x2.sd) x0 x2.ctrSrc x2.inc (fld x1 13 ||| x2.enc))
  | .jpub h x0 => some (row h 0x189 (Dst.none) x0 .zero .zero (0))
  | .jcancel h x0 x1 => some (row h 0x18a (Dst.sc x0) x1 .zero .zero (0))
  | .jstat h x0 x1 => some (row h 0x18b (Dst.sc x0) x1 .zero .zero (0))
  | .jstatRing h x0 => some (row h 0x18b (Dst.sc x0) .zero .zero .zero (bit true 1))
  | .kvapp h x0 x1 x2 x3 x4 => some (row h 0x190 (Dst.sc x0) x1 x2 x3 (encScope x4))
  | .kvref h x0 x1 x2 x3 x4 => some (row h 0x191 (Dst.sc x0) x1 x2 .zero (bit x3 6 ||| encScope x4))
  | .kvdem h x0 x1 x2 x3 x4 => some (row h 0x192 (Dst.sc x0) x1 x2 .zero (bit x3 6 ||| encScope x4))
  | .kvlook h x0 x1 x2 x3 => some (row h 0x193 (Dst.sc x0) x1 x2 .zero (encScope x3))
  | .kvfork h x0 x1 x2 x3 => some (row h 0x194 (Dst.sc x0) x1 x2 .zero (encScope x3))
  | .rsig h x0 x1 x2 x3 => some (row h 0x1b0 (Dst.none) x0.base x1 x0.off (bit x2 12 ||| encScope x3))
  | .rflush h x0 x1 x2 x3 => some (row h 0x1b1 (Dst.none) x0.base x1 x0.off (bit x2 6 ||| encScope x3))
  | .rflushAll h x0 x1 x2 => some (row h 0x1b1 (Dst.none) x0 .zero .zero (bit x1 6 ||| encScope x2 ||| bit true 7))
  | .movsr h x0 x1 => some (row h 0x1c0 (x0.enc) .zero .zero .zero (fld x1 1))
  | .movrs h x0 x1 => some (row h 0x1c1 (Dst.none) x0 .zero .zero (fld x1 1))
  | .trap h x0 => some (row h 0x1c2 (Dst.none) .zero .zero .zero (fld x0 1))
  | .rft h => some (row h 0x1c3 (Dst.none) .zero .zero .zero (0))
  | .brk h x0 => some (row h 0x1c4 (Dst.none) .zero .zero .zero (fld x0 1))
  | .stsrd h x0 x1 => some (row h 0x1c5 (x0.enc) x1 .zero .zero (0))
  | .intr h x0 x1 => some (row h 0x1c6 (Dst.sc x0) x1 .zero .zero (0))
  | .probe h x0 x1 => some (row h 0x1c7 (x0.enc) x1.base .zero x1.off (0))
  | .tlbinv h x0 x1 x2 => some (row h 0x1c8 (Dst.none) x0.base x1 x0.off (encScope x2))
  | .tlbinvAll h x0 => some (row h 0x1c8 (Dst.none) .zero .zero .zero (encScope x0 ||| bit true 6))
  | .pmrd h x0 x1 => some (row h 0x1e0 (Dst.sc x0) x1 .zero .zero (0))
  | .pmctl h x0 x1 x2 => some (row h 0x1e1 (Dst.sc x0) x1 x2 .zero (0))
  | .pmctlVal h x0 x1 x2 => some (row h 0x1e1 (Dst.sc x0) x1 x2 .zero (bit true 1))
  | .lcurd h x0 x1 x2 => some (row h 0x1e2 (Dst.sc x0) x1 .zero .zero (fld x2 1))
  | .mark h x0 x1 => some (row h 0x1e3 (Dst.none) .zero .zero .zero (fld (MarkOp.code x0) 1 ||| fld x1 3))
  | .cbr h m hint ps pn off site =>
      some (rowExt h 0x0e2 (fld m.code 1 ||| fld hint.code 2 ||| bit pn 13 ||| fld ps 14) site off)
  | .cbrw h m ps pn off site => some (rowExt h 0x0e3 (fld m.code 1 ||| bit pn 13 ||| fld ps 14) site off)
  | _ => none

/-- A P word (R83). -/
def pairBits (g : Guard) (so : PairS) (sdst : BitVec 6) (sa sb : Src) (vo : PairV) (vdst : BitVec 6) (va vb : Src) :
    BitVec 64 :=
  1#2 ++ b1 g.neg ++ g.pred ++ so.code ++ sdst ++ sa.code ++ sb.code ++ vo.code ++ vdst ++ va.code ++ vb.code

/-- The words of an instruction. An illegal X word is followed by a second word of zeros. Events and commands have no
word. -/
def encode : Instr → List (BitVec 64)
  | .pairWord g so sdst sa sb vo vdst va vb => [pairBits g so sdst sa sb vo vdst va vb]
  | .illegalWord w => if slice w 62 2 = 2#2 then [w, 0xC000000000000000] else [w]
  | i => match i.fields with
    | some f => f.words
    | none => []

/-! ## The decoder -/

/-- The header of the fields. -/
def Fields.hdr (f : Fields) : Hdr := ⟨⟨f.gneg, f.gpred⟩, f.yh⟩
/-- The literal, in an X word. -/
def Fields.lit (f : Fields) : Option (BitVec 32) := f.x.map Prod.snd
/-- The operand of SA. -/
def Fields.a (f : Fields) : Option Src := Src.ofCode f.sa f.lit
/-- The operand of SB. -/
def Fields.b (f : Fields) : Option Src := Src.ofCode f.sb f.lit
/-- The operand of SC. -/
def Fields.c (f : Fields) : Option Src := Src.ofCode f.sc f.lit
/-- The memory operand: base in SA, offset in SC (R213). -/
def Fields.m (f : Fields) : Option MemRef := do return ⟨← f.a, ← f.c⟩
/-- The destination of an ALU-class instruction (R79). -/
def Fields.d (f : Fields) : Option Dst :=
  if f.nwb then
    if f.dst = 0#7 then some .latchV else if f.dst = 0x40#7 then some .latchS else none
  else if f.dst.getLsbD 6 then some (.s (slice f.dst 0 6)) else some (.v (slice f.dst 0 6))
/-- A destination register. -/
def Fields.rd (f : Fields) : RegDst :=
  if f.dst.getLsbD 6 then .s (slice f.dst 0 6) else .v (slice f.dst 0 6)
/-- A destination that must be scalar. -/
def Fields.sd (f : Fields) : Option (BitVec 6) := if f.dst.getLsbD 6 then some (slice f.dst 0 6) else none
/-- A link register pair, which must be a vector register. -/
def Fields.vl (f : Fields) : Option (BitVec 6) := if f.dst.getLsbD 6 then none else some (slice f.dst 0 6)
/-- A flag at a word bit. -/
def Fields.bit (f : Fields) (k : Nat) : Bool := f.mod.getLsbD (k - 1)
/-- A field of n bits with its lowest word bit. -/
def Fields.fld (f : Fields) (k n : Nat) : BitVec n := f.mod.extractLsb' (k - 1) n
/-- An optional scalar destination that a flag announces. -/
def Fields.osd (f : Fields) (k : Nat) : Option (Option (BitVec 6)) := if f.bit k then f.sd.map some else some none
/-- The optional destination of ELECT. -/
def Fields.od (f : Fields) (k : Nat) : Option (Option Dst) := if f.bit k then f.d.map some else some none
/-- The optional count of BAR and BARARV. -/
def Fields.ob (f : Fields) (k : Nat) : Option (Option Src) := if f.bit k then f.b.map some else some none
/-- The target of BRA and CALL (R188). -/
def Fields.target (f : Fields) : BTarget :=
  match f.lit with
  | some x => .lit x
  | none => .off (f.fld 3 14)
/-- The modifiers of one source. -/
def Fields.smod (f : Fields) (k : Nat) : SMod := ⟨f.bit (k + 1), f.bit k⟩
/-- The rounding mode; RM without RX is reserved (R166). -/
def Fields.rm (f : Fields) : Option (Option RMode) :=
  if f.bit 10 then (RMode.ofCode (f.fld 7 3)).map some else some none
/-- The modifiers of CF. -/
def Fields.fmod (f : Fields) : Option FMod := do return ⟨← f.rm, f.bit 11, f.bit 12⟩
/-- The scope; codes 11–15 are reserved (R94). -/
def Fields.scope (f : Fields) : Option (Option Scope) :=
  if f.bit 1 then (Scope.ofCode (f.fld 2 4)).map some else some none
/-- The predicate of a TRY form. -/
def Fields.tryPd (f : Fields) (p q : Nat) : Option (BitVec 3) := if f.bit p then some (f.fld q 3) else none
/-- The operands of a job instruction. -/
def Fields.job (f : Fields) : Option JobOps := do
  let ctr ← match ← f.b with
    | .s k => some (some k)
    | .iconst n => if n = 32 then some none else none
    | _ => none
  return ⟨← f.osd 12, ctr, ← f.c, ← CtrMode.ofCode (f.fld 6 2), f.fld 8 4, ← f.scope⟩

/-- The rows 0x000 to 0x03f of the opcode map (R108). -/
def Fields.buildInt (f : Fields) (h : Hdr) : Option Instr :=
  match f.opc.toNat with
  | 0x000 => (do return .iadd h (← f.d) (← f.a) (← f.b) (f.bit 1) (f.bit 2))
  | 0x001 => (do return .isub h (← f.d) (← f.a) (← f.b) (f.bit 1) (f.bit 2))
  | 0x002 => (do return .iadd3 h (← f.d) (← f.a) (← f.b) (← f.c) (f.bit 1) (f.bit 2))
  | 0x003 => (do return .iaddw h (← f.d) (← f.a) (← f.b) (f.bit 1) (f.bit 2))
  | 0x004 => (do return .isubw h (← f.d) (← f.a) (← f.b) (f.bit 1) (f.bit 2))
  | 0x005 => (do return .imul h (← f.d) (← f.a) (← f.b) (f.bit 1) (f.bit 2))
  | 0x006 => (do return .imulhi h (← f.d) (← f.a) (← f.b) (f.bit 1))
  | 0x007 => (do return .imad h (← f.d) (← f.a) (← f.b) (← f.c) (f.bit 1) (f.bit 2))
  | 0x008 => (do return .imadw h (← f.d) (← f.a) (← f.b) (← f.c) (f.bit 1) (f.bit 2))
  | 0x009 => (do return .imin h (← f.d) (← f.a) (← f.b) (f.bit 1) (f.bit 3))
  | 0x00a => (do return .imax h (← f.d) (← f.a) (← f.b) (f.bit 1) (f.bit 3))
  | 0x00b => (do return .iabs h (← f.d) (← f.a) (f.bit 2))
  | 0x00c => (do return .idiff h (← f.d) (← f.a) (← f.b) (f.bit 1))
  | 0x00d => (do return .iclamp h (← f.d) (← f.a) (← f.b) (← f.c) (f.bit 1))
  | 0x00e => (do
      return .icmp h (f.fld 14 3) (← f.a) (← f.b) (← Cmp.ofCode (f.fld 4 3)) (f.bit 1) (← Comb.ofCode (f.fld 12 2)))
  | 0x00f => (do
      return .icmpw h (f.fld 14 3) (← f.a) (← f.b) (← Cmp.ofCode (f.fld 4 3)) (f.bit 1) (← Comb.ofCode (f.fld 12 2)))
  | 0x010 => (do return .isel h (← f.d) (← f.a) (← f.b) (f.fld 14 3) (f.bit 13) (f.bit 3))
  | 0x011 => (do return .mov h (← f.d) (← f.a))
  | 0x012 => (do return .movw h (← f.d) (← f.a))
  | 0x013 => (do return .movhi h (← f.d) (← f.a) (← f.b))
  | 0x014 => (do return .iext h (← f.d) (← f.a) (← ExtMode.ofCode (f.fld 1 3)))
  | 0x015 => (do return .idiv h (← f.d) (← f.a) (← f.b) (f.bit 1) (f.bit 2) (f.bit 3))
  | 0x016 => (do return .irem h (← f.d) (← f.a) (← f.b) (f.bit 1) (f.bit 3))
  | 0x017 => (do return .lea h (← f.d) (← f.a) (← f.b) (← f.c) (f.bit 1) (f.fld 4 3))
  | 0x018 => (do return .and h (← f.d) (← f.a) (← f.b) (f.bit 3))
  | 0x019 => (do return .or h (← f.d) (← f.a) (← f.b) (f.bit 3))
  | 0x01a => (do return .xor h (← f.d) (← f.a) (← f.b) (f.bit 3))
  | 0x01b => (do return .andn h (← f.d) (← f.a) (← f.b) (f.bit 3))
  | 0x01c => (do return .lop3 h (← f.d) (← f.a) (← f.b) (← f.c) (f.bit 3) (f.fld 4 8))
  | 0x01d => (do return .shl h (← f.d) (← f.a) (← f.b) (f.bit 4))
  | 0x01e => (do return .shr h (← f.d) (← f.a) (← f.b) (f.bit 4))
  | 0x01f => (do return .sar h (← f.d) (← f.a) (← f.b) (f.bit 4))
  | 0x020 => (do return .shf h (← f.d) (← f.a) (← f.b) (← f.c) (← ShfDir.ofCode (f.fld 1 1)) (f.bit 4))
  | 0x021 => (do return .shlw h (← f.d) (← f.a) (← f.b) (f.bit 4))
  | 0x022 => (do return .shrw h (← f.d) (← f.a) (← f.b) (f.bit 4))
  | 0x023 => (do return .sarw h (← f.d) (← f.a) (← f.b) (f.bit 4))
  | 0x024 => (do return .bfe h (← f.d) (← f.a) (← f.b) (f.bit 1) (f.bit 3))
  | 0x025 => (do return .bfi h (← f.d) (← f.a) (← f.b) (← f.c) (f.bit 3))
  | 0x026 => (do return .popc h (← f.d) (← f.a) (f.bit 3))
  | 0x027 => (do return .clz h (← f.d) (← f.a) (f.bit 3))
  | 0x028 => (do return .ctz h (← f.d) (← f.a) (f.bit 3))
  | 0x029 => (do return .brev h (← f.d) (← f.a) (f.bit 3))
  | 0x02a => (do return .bperm h (← f.d) (← f.a) (← f.b) (← f.c))
  | _ => none

/-- The rows 0x040 to 0x05f of the opcode map (R122). -/
def Fields.buildLane (f : Fields) (h : Hdr) : Option Instr :=
  match f.opc.toNat with
  | 0x040 => (do return .ballot h (← f.d) (f.fld 14 3) (f.bit 13))
  | 0x041 => (do return .vote h (← VoteMode.ofCode (f.fld 1 2)) (f.fld 14 3) (f.fld 10 3) (f.bit 13))
  | 0x042 => (do return .ppopc h (← f.d) (f.fld 14 3) (f.bit 13))
  | 0x043 => (do return .mrank h (← f.d) (f.fld 14 3) (f.bit 13))
  | 0x044 => (do
      return .shfl h (← f.d) (← f.a) (← f.b) (← ShflMode.ofCode (f.fld 1 2)) (← ShflSeg.ofCode (f.fld 4 3)) (f.bit 3))
  | 0x045 => (do return .rdlane h (← f.d) (f.fld 11 6) (← f.b) (f.bit 1))
  | 0x046 => (do return .wrlane h (← f.d) (← f.a) (← f.b) (f.bit 1))
  | 0x047 => (do return .wred h (← f.d) (f.fld 11 6) (← RedOp.ofCode (f.fld 1 4)) (f.bit 5))
  | 0x048 => (do return .wscan h (← f.d) (← f.a) (← RedOp.ofCode (f.fld 1 4)) (f.bit 5) (f.bit 6))
  | 0x049 => (do return .matchLane h (← f.d) (← f.a) (f.bit 3))
  | 0x04a => (do return .elect h (f.fld 14 3) (← f.od 12))
  | 0x04b => (do return .plop h (f.fld 14 3) (f.fld 11 3) (f.fld 8 3) (f.fld 1 4))
  | 0x04c => (do return .s2p h (f.fld 14 3) (← f.a) (f.bit 1))
  | _ => none

/-- The rows 0x060 to 0x0bf of the opcode map (R170). -/
def Fields.buildFloat (f : Fields) (h : Hdr) : Option Instr :=
  match f.opc.toNat with
  | 0x060 => (do return .fadd h (← f.d) (← f.a) (← f.b) (f.smod 1) (f.smod 3) (← f.fmod))
  | 0x061 => (do return .fsub h (← f.d) (← f.a) (← f.b) (f.smod 1) (f.smod 3) (← f.fmod))
  | 0x062 => (do return .fmul h (← f.d) (← f.a) (← f.b) (f.smod 1) (f.smod 3) (← f.fmod))
  | 0x063 => (do return .ffma h (← f.d) (← f.a) (← f.b) (← f.c) (f.smod 1) (f.smod 3) (f.smod 5) (← f.fmod))
  | 0x064 => (do return .fmin h (← f.d) (← f.a) (← f.b) (f.smod 1) (f.smod 3) (f.bit 12))
  | 0x065 => (do return .fmax h (← f.d) (← f.a) (← f.b) (f.smod 1) (f.smod 3) (f.bit 12))
  | 0x066 => (do
      return .fcmp h (f.fld 14 3) (← f.a) (← f.b) (f.smod 1) (f.smod 3) (← FCmp.ofCode (f.fld 5 3)) (← Comb.ofCode
        (f.fld 12 2)))
  | 0x067 => (do return .fclass h (← f.d) (← f.a))
  | 0x068 => (do return .frnd h (← f.d) (← f.a) (f.smod 1) (← f.rm) (f.bit 12))
  | 0x069 => (do return .fscale h (← f.d) (← f.a) (← f.b) (f.smod 1) (← f.fmod))
  | 0x06a => (do return .fdiv h (← f.d) (← f.a) (← f.b) (f.smod 1) (f.smod 3) (← f.fmod))
  | 0x06b => (do return .frcp h (← f.d) (← f.a) (f.smod 1) (f.bit 12))
  | 0x06c => (do return .frsq h (← f.d) (← f.a) (f.smod 1) (f.bit 12))
  | 0x06d => (do return .fsqrt h (← f.d) (← f.a) (f.smod 1) (← f.rm) (f.bit 12))
  | 0x06e => (do return .fexp2 h (← f.d) (← f.a) (f.smod 1) (f.bit 12))
  | 0x06f => (do return .flog2 h (← f.d) (← f.a) (f.smod 1) (f.bit 12))
  | 0x070 => (do return .fsin h (← f.d) (← f.a) (f.smod 1) (f.bit 12))
  | 0x071 => (do return .fcos h (← f.d) (← f.a) (f.smod 1) (f.bit 12))
  | 0x072 => (do return .ftanh h (← f.d) (← f.a) (f.smod 1) (f.bit 12))
  | 0x078 => (do
      return .hadd2 h (← f.d) (← f.a) (← f.b) (f.smod 1) (f.smod 3) (← f.fmod) (← Fmt16.ofCode (f.fld 13 2)))
  | 0x079 => (do
      return .hmul2 h (← f.d) (← f.a) (← f.b) (f.smod 1) (f.smod 3) (← f.fmod) (← Fmt16.ofCode (f.fld 13 2)))
  | 0x07a => (do
      return .hfma2 h (← f.d) (← f.a) (← f.b) (← f.c) (f.smod 1) (f.smod 3) (f.smod 5) (← f.fmod) (← Fmt16.ofCode
        (f.fld 13 2)))
  | 0x07b => (do
      return .hmin2 h (← f.d) (← f.a) (← f.b) (f.smod 1) (f.smod 3) (f.bit 12) (← Fmt16.ofCode (f.fld 13 2)))
  | 0x07c => (do
      return .hmax2 h (← f.d) (← f.a) (← f.b) (f.smod 1) (f.smod 3) (f.bit 12) (← Fmt16.ofCode (f.fld 13 2)))
  | 0x07d => (do
      return .hdot2 h (← f.d) (← f.a) (← f.b) (← f.c) (f.smod 1) (f.smod 3) (f.smod 5) (← f.fmod) (← Fmt16.ofCode
        (f.fld 13 2)))
  | 0x07e => (do return .qdot4 h (← f.d) (← f.a) (← f.b) (← f.c) (f.fld 1 6) (f.bit 13) (← f.rm) (f.bit 11))
  | 0x080 => (do return .cvt h (← f.d) (← f.a) (← FFmt.ofCode (f.fld 1 3)) (← FFmt.ofCode (f.fld 4 3)) (← f.fmod))
  | 0x081 => (do
      return .f2i h (← f.d) (← f.a) (← FFmt.ofCode (f.fld 1 3)) (← IType.ofCode (f.fld 4 3)) (← f.rm) (f.bit 12))
  | 0x082 => (do return .i2f h (← f.d) (← f.a) (← FFmt.ofCode (f.fld 1 3)) (← IType.ofCode (f.fld 4 3)) (← f.fmod))
  | 0x083 => (do return .hpack h (← f.d) (← f.a) (← f.b) (← f.fmod) (← Fmt16.ofCode (f.fld 13 2)))
  | 0x084 => (do return .hunpk h (← f.d) (← f.a) (f.bit 1) (f.bit 12) (← Fmt16.ofCode (f.fld 13 2)))
  | 0x085 => (do return .qpack h (← f.d) (← f.a) (← f.b) (← f.c) (f.bit 1))
  | 0x086 => (do return .qunpk h (← f.d) (← f.a) (← f.b) (← f.c) (f.bit 1))
  | 0x087 => (do return .q4pack h (← f.d) (← f.a) (← f.b) (← f.c) (f.fld 1 2))
  | 0x088 => (do return .q4unpk h (← f.d) (← f.a) (← f.b) (← f.c) (f.fld 1 2))
  | 0x089 => (do return .bscale h (← f.d) (← f.a) (← f.b) (f.bit 1))
  | _ => none

/-- The rows 0x0c0 to 0x0ff of the opcode map (R188, R365). -/
def Fields.buildControl (f : Fields) (h : Hdr) : Option Instr :=
  match f.opc.toNat with
  | 0x0c0 => (do return .bra h f.target (f.bit 1) (f.bit 2))
  | 0x0c1 => (do return .brx h (← f.a) (f.bit 3) (f.bit 1))
  | 0x0c2 => (do return .call h (← f.vl) f.target (f.bit 1))
  | 0x0c3 => (do return .callx h (← f.vl) (← f.a) (f.bit 3) (f.bit 1))
  | 0x0c4 => (do return .ret h (← f.a) (f.bit 1))
  | 0x0c5 => (do return .exit h (f.bit 1))
  | 0x0c6 => (do return .yield h)
  | 0x0c7 => (do return .nop h)
  | 0x0c8 => (do return .sleep h (← f.a))
  | 0x0c9 => (do return .syncst h)
  | 0x0e0 => (do return .cjoin h (← f.sd) (← f.a))
  | 0x0e1 => (do return .cleave h)
  | 0x0e4 => (do return .csync h (← f.osd 1))
  | 0x0e5 => (do return .cstat h (← f.sd) (← f.a))
  | 0x0e2 => (do
      let x ← f.x
      return .cbr h (← CMode.ofCode (f.fld 1 1)) (← CHint.ofCode (f.fld 2 2)) (f.fld 14 3) (f.bit 13) (slice x.1 0
      14) (slice x.1 14 16))
  | 0x0e3 => (do
      let x ← f.x
      return .cbrw h (← CMode.ofCode (f.fld 1 1)) (f.fld 14 3) (f.bit 13) (slice x.1 0 14) (slice x.1 14 16))
  | _ => none

/-- The rows 0x100 to 0x15f of the opcode map (R213, R250, R231). -/
def Fields.buildMemory (f : Fields) (h : Hdr) : Option Instr :=
  match f.opc.toNat with
  | 0x100 => (do return .ld h f.rd (← f.m) (← MSize.ofCode (f.fld 6 3)) (f.bit 9) (f.bit 10) (← f.scope))
  | 0x101 => (do return .st h (← f.m) (← f.b) (← MSize.ofCode (f.fld 6 3)) (f.bit 10) (← f.scope))
  | 0x102 => (do return .ldl h f.rd (← f.m) (← MSize.ofCode (f.fld 6 3)) (f.bit 9) (f.bit 10) (← f.scope))
  | 0x103 => (do return .stl h (← f.m) (← f.b) (← MSize.ofCode (f.fld 6 3)) (f.bit 10) (← f.scope))
  | 0x104 => (do
      return .ldfe h f.rd (← f.m) (← MSize.ofCode (f.fld 6 3)) (f.bit 9) (f.bit 11) (f.tryPd 12 14) (← f.scope))
  | 0x105 => (do return .stfe h (← f.m) (← f.b) (← MSize.ofCode (f.fld 6 3)) (← f.scope))
  | 0x106 => (do return .feset h (← f.m) (← f.b) (f.bit 11) (← f.scope))
  | 0x107 => (do return .ldu h f.rd (← f.m) (← MSize.ofCode (f.fld 6 3)) (f.bit 9) (f.bit 10) (← f.scope))
  | 0x108 => (do return .stu h (← f.m) (← f.b) (← MSize.ofCode (f.fld 6 3)) (f.bit 10) (← f.scope))
  | 0x109 => (do
      return .cstore h (← f.m) (← f.b) (f.fld 14 3) (f.bit 13) (← MSize.ofCode (f.fld 6 3)) (f.bit 10) (← f.scope))
  | 0x10a => (do
      return .xload h f.rd (← f.m) (← f.b) (← MSize.ofCode (f.fld 6 3)) (f.bit 9) (f.bit 11) (f.bit 10) (← f.scope))
  | 0x140 => (do
      return .atom h f.rd (← f.m) (← f.b) (← AtomOp.ofCode (f.fld 11 4)) (← MSize.ofCode (f.fld 6 3))
        (← AOrd.ofCode (f.fld 9 2)) (← f.scope))
  | 0x141 => (do
      return .atomcas h f.rd (← f.a) (← f.b) (← f.c) (← MSize.ofCode (f.fld 6 3)) (← AOrd.ofCode (f.fld 9 2))
        (← f.scope))
  | 0x142 => (do
      return .atomf h f.rd (← f.m) (← f.b) (← FAtomOp.ofCode (f.fld 11 4)) (← FAtomTy.ofCode (f.fld 6 3))
        (← AOrd.ofCode (f.fld 9 2)) (← f.scope))
  | 0x143 => (do
      return .red h (← f.m) (← f.b) (← RedMemOp.ofCode (f.fld 11 4)) (← MSize.ofCode (f.fld 6 3)) (f.bit 10)
        (← f.scope))
  | 0x144 => (do
      return .atoml h f.rd (← f.m) (← f.b) (← AtomOp.ofCode (f.fld 11 4)) (← MSize.ofCode (f.fld 6 3))
        (← AOrd.ofCode (f.fld 9 2)) (← f.scope))
  | 0x145 => (do
      return .atomlcas h f.rd (← f.a) (← f.b) (← f.c) (← MSize.ofCode (f.fld 6 3)) (← AOrd.ofCode (f.fld 9 2))
        (← f.scope))
  | 0x146 => (do return .fence h (← FenceKind.ofCode (f.fld 6 2)) (← f.scope))
  | 0x147 => (do return .cmaint h (← f.m) (← f.b) (← CmOp.ofCode (f.fld 6 2)) (← f.scope))
  | 0x148 => (do return .icinv h (← f.m) (← f.b) (← f.scope))
  | 0x149 => (do return .tres h (← f.sd) (← f.a) (← f.b) (f.fld 1 3))
  | 0x14a => (do return .trel h (← f.a))
  | 0x14b => (do return .tevict h (← f.a))
  | 0x14c => (do return .tdemote h (← f.a))
  | _ => none

/-- The rows 0x160 to 0x17f of the opcode map (R261). -/
def Fields.buildSync (f : Fields) (h : Hdr) : Option Instr :=
  match f.opc.toNat with
  | 0x160 => (do return .barinit h (← f.m) (← f.b))
  | 0x161 => (do return .bararv h (← f.osd 1) (← f.m) (← f.ob 2))
  | 0x162 => (do return .barwt h (← f.m) (← f.b))
  | 0x163 => (do return .bar h (← f.m) (← f.ob 2))
  | 0x164 => (do return .cntadd h (← f.m) (← f.b) (f.bit 12) (f.bit 11) (← f.scope))
  | 0x165 => (do return .cntwt h (← f.m) (← f.b) (f.bit 11) (f.tryPd 10 14) (← f.scope))
  | 0x166 => (do return .qinit h (← f.a) (f.fld 13 4))
  | 0x167 => (do return .qpush h (← f.m) (f.fld 13 4) (f.tryPd 9 10))
  | 0x168 => (do return .qpop h (← f.m) (f.fld 13 4) (f.tryPd 9 10))
  | 0x169 => (do return .qstat h (← f.sd) (f.fld 13 4))
  | 0x16a => (do return .snext h (f.bit 1))
  | 0x16b => (do return .gset h (← f.sd))
  | 0x16c => (do return .gres h (← f.a) (f.bit 1))
  | _ => none

/-- The rows 0x180 to 0x1af of the opcode map (R294, R316, R401). -/
def Fields.buildJob (f : Fields) (h : Hdr) : Option Instr :=
  match f.opc.toNat with
  | 0x180 => (do return .jcopy h (← f.a) (← f.job))
  | 0x181 => (do return .jgen h (← f.a) (← f.job))
  | 0x182 => (do return .jfill h (← f.a) (← f.job))
  | 0x183 => (do return .jmcast h (← f.a) (← f.job))
  | 0x184 => (do return .jmma h (← f.a) (f.fld 13 4) (← f.job))
  | 0x185 => (do return .jacc h (← f.a) (f.fld 13 4) (← f.job))
  | 0x186 => (do return .jmv h (← f.a) (f.fld 13 4) (← f.job))
  | 0x187 => (do return .jattn h (← f.a) (f.fld 13 4) (← f.job))
  | 0x188 => (do return .jrot h (← f.a) (f.fld 13 4) (← f.job))
  | 0x189 => (do return .jpub h (← f.a))
  | 0x18a => (do return .jcancel h (← f.sd) (← f.a))
  | 0x18b => if f.bit 1 then (do return .jstatRing h (← f.sd)) else (do return .jstat h (← f.sd) (← f.a))
  | 0x190 => (do return .kvapp h (← f.sd) (← f.a) (← f.b) (← f.c) (← f.scope))
  | 0x191 => (do return .kvref h (← f.sd) (← f.a) (← f.b) (f.bit 6) (← f.scope))
  | 0x192 => (do return .kvdem h (← f.sd) (← f.a) (← f.b) (f.bit 6) (← f.scope))
  | 0x193 => (do return .kvlook h (← f.sd) (← f.a) (← f.b) (← f.scope))
  | 0x194 => (do return .kvfork h (← f.sd) (← f.a) (← f.b) (← f.scope))
  | _ => none

/-- The rows 0x1b0 to 0x1ff of the opcode map (R350, R433, R499). -/
def Fields.buildSystem (f : Fields) (h : Hdr) : Option Instr :=
  match f.opc.toNat with
  | 0x1b0 => (do return .rsig h (← f.m) (← f.b) (f.bit 12) (← f.scope))
  | 0x1b1 => if f.bit 7 then
      (do return .rflushAll h (← f.a) (f.bit 6) (← f.scope))
    else
      (do return .rflush h (← f.m) (← f.b) (f.bit 6) (← f.scope))
  | 0x1c0 => (do return .movsr h f.rd (f.fld 1 10))
  | 0x1c1 => (do return .movrs h (← f.a) (f.fld 1 10))
  | 0x1c2 => (do return .trap h (f.fld 1 8))
  | 0x1c3 => (do return .rft h)
  | 0x1c4 => (do return .brk h (f.fld 1 8))
  | 0x1c5 => (do return .stsrd h f.rd (← f.a))
  | 0x1c6 => (do return .intr h (← f.sd) (← f.a))
  | 0x1c7 => (do return .probe h f.rd (← f.m))
  | 0x1c8 => if f.bit 6 then
      (do return .tlbinvAll h (← f.scope))
    else
      (do return .tlbinv h (← f.m) (← f.b) (← f.scope))
  | 0x1e0 => (do return .pmrd h (← f.sd) (← f.a))
  | 0x1e1 => if f.bit 1 then
      (do return .pmctlVal h (← f.sd) (← f.a) (← f.b))
    else
      (do return .pmctl h (← f.sd) (← f.a) (← f.b))
  | 0x1e2 => (do return .lcurd h (← f.sd) (← f.a) (f.fld 1 5))
  | 0x1e3 => (do return .mark h (← MarkOp.ofCode (f.fld 1 2)) (f.fld 3 8))
  | _ => none

/-- The instruction that the fields name, before its field checks. -/
def Fields.build (f : Fields) : Option Instr :=
  let h := f.hdr
  let n := f.opc.toNat
  if n < 0x40 then f.buildInt h
  else if n < 0x60 then f.buildLane h
  else if n < 0xC0 then f.buildFloat h
  else if n < 0x100 then f.buildControl h
  else if n < 0x160 then f.buildMemory h
  else if n < 0x180 then f.buildSync h
  else if n < 0x1B0 then f.buildJob h
  else f.buildSystem h

/-- The instruction of a P word, before its field checks (R83, R86). -/
def buildPair (w : BitVec 64) : Option Instr := do
  return .pairWord ⟨w.getLsbD 61, slice w 58 3⟩ (← PairS.ofCode (slice w 51 7)) (slice w 45 6)
    (← Src.ofCode (slice w 37 8) none) (← Src.ofCode (slice w 29 8) none) (← PairV.ofCode (slice w 22 7))
    (slice w 16 6) (← Src.ofCode (slice w 8 8) none) (← Src.ofCode (slice w 0 8) none)

/-- The second word of an X instruction, where it carries the tag 0b11 (R70). -/
def secondWord (w2 : Option (BitVec 64)) : Option (BitVec 64) := w2.filter (fun x => slice x 62 2 == 3#2)

/-- The instruction of a first word and the word behind it, or none where R71 gives ILLENC. A word that raises ILLOP
decodes to `illegalWord`. A field that an instruction does not read holds zero exactly when encoding the instruction
gives the fields back (R72, R74, R82). -/
def decode (w : BitVec 64) (w2 : Option (BitVec 64)) : Option Instr :=
  if slice w 62 2 = 3#2 then some (.illegalWord w)
  else if slice w 62 2 = 1#2 then
    match buildPair w with
    | some i => if i.wellFormed then some i else none
    | none => none
  else
    let x := if slice w 62 2 = 2#2 then secondWord w2 else none
    if slice w 62 2 = 2#2 ∧ x = none then none
    else if !assigned (slice w 49 9).toNat then some (.illegalWord w)
    else
      let f := Fields.ofWords w x
      match f.build with
      | some i => if i.fields = some f ∧ i.wellFormed then some i else none
      | none => none

/-- Bytes that an instruction occupies, by the tag of its first word (R69). -/
def wordLen (w : BitVec 64) : Nat := if slice w 62 2 = 2#2 then 16 else 8

/-! ## Bytes -/

/-- The value of bytes in little-endian order (R5). -/
def leNat : List Byte → Nat
  | [] => 0
  | b :: r => b.toNat + 256 * leNat r

/-- The n bytes of a value in little-endian order (R5). -/
def leBytes (x : Nat) : Nat → List Byte
  | 0 => []
  | n + 1 => BitVec.ofNat 8 x :: leBytes (x / 256) n

/-- The instruction at the front of a byte string: words are little-endian in memory (R69). -/
def decodeBytes (l : List Byte) : Option Instr :=
  decode (BitVec.ofNat 64 (leNat (l.take 8)))
    (if 16 ≤ l.length then some (BitVec.ofNat 64 (leNat ((l.drop 8).take 8))) else none)

/-- The instruction whose bits are w: bit 0 is the least significant bit of the first word, and the bits of a second
word count on from 64. -/
def decodeTableWord (_nbits w : Nat) : Option Instr := decodeBytes (leBytes w 16)

end Sys2Proof
end

