-- ==== Sys2Proof/Config.lean ====
section
/-! DEFINITION. Config.lean: what the manual leaves open. Every constant here is opaque: nothing proves a value of
it, so a statement about the machine holds whatever the hardware does at these points. -/

namespace Sys2Proof.Config

open Sys2Proof

/-- A fresh value that the manual leaves open, by the counter `State.free`. -/
opaque freeWord : Nat → BitVec 64
/-- A choice that the manual leaves open, by the counter `State.free`. -/
opaque freeBool : Nat → Bool
/-- The share of issue slots that a package throttle leaves to one unit of weight, in 1/256, by the millisecond (R26, R473):
the manual gives the proportion between the virtual devices and no amount. -/
opaque throttleLevel : Nat → Nat
/-- What FRCP, FRSQ, FEXP2, FLOG2, FSIN, FCOS and FTANH return for an input and a flush setting (R176), by the number
of the function; the machine uses it only where it lies within the bound of the table. -/
opaque transcendental : Nat → BitVec 32 → Bool → BitVec 32
/-- What an endpoint knows of the C bit of a window on a peer, by device, virtual device and window (R344, R347): the
manual does not say how it knows. -/
opaque windowCached : Nat → Nat → Nat → Bool
/-- Byte i of the body of a context image where it lies in a workgroup block or a wave block, by the draw at its save (R443): the
coding of these blocks is the device's own. -/
opaque imageByte : Nat → Nat → Byte
/-- The device that the rotor of a port connects a device to, by device, port and matching (R20): the rotors are outside this
device. -/
opaque matchedTo : Nat → Nat → Nat → Nat
/-- The flits of a class that a device still allows a virtual device of this one to send, by device, VDID, class and a fresh
count (R340): what the receivers have free. -/
opaque allowanceLeft : Nat → Nat → Nat → Nat → Nat
/-- The halo slots that an intermediate still allows a virtual device of this one, by device, VDID, fabric group + 1 of a
rotation packet (else 0) and a fresh count (R335, R429). -/
opaque haloLeft : Nat → Nat → Nat → Nat → Nat
/-- The energy in µJ that a part of the device draws in a cycle, or a packet at a port, by the part and a fresh count (R473): the
manual gives no energy of any operation. -/
opaque energy : Nat → Nat → Nat
/-- Whether the host's IOMMU fails the translation of a host page from a moment on, by a fresh count and the page (R450): the
host's to say. -/
opaque atsFails : Nat → Nat → Bool
/-- The first frame of the bounce buffer of a compute die (R305): the manual gives its size and not its place. -/
opaque bounceFrame : Nat → Nat
/-- AES-256-GCM tags without plaintext and GMAC tags, over a key, a nonce and bytes (R359, R469, R487). -/
opaque gmac : BitVec 256 → BitVec 96 → List Byte → BitVec 128
/-- Byte i of the key stream with which AES-256-GCM encrypts, over a key and a nonce (R446). -/
opaque gcmStream : BitVec 256 → BitVec 96 → Nat → Byte
/-- The tag of AES-256-GCM, over a key, a nonce, additional data and the encrypted bytes (R446). -/
opaque gcmTag : BitVec 256 → BitVec 96 → List Byte → List Byte → BitVec 128
/-- HKDF-SHA-256 with a salt of 32 zero bytes: 256 bits derived from a key and an info string (R446, R487, R508). -/
opaque hkdf {n : Nat} : BitVec n → List Byte → BitVec 256
/-- AES key unwrap under a key: what was wrapped, or none where the wrapped bytes do not verify (R464). -/
opaque unwrap : BitVec 256 → List Byte → Option (BitVec 256)
/-- The certificate chain of the device identity key, in SPDM slot 0 (R508). -/
opaque certChain : List Byte
/-- SHA-256 (R508). -/
opaque sha256 : List Byte → List Byte
/-- SLH-DSA signature over a digest (R508). -/
opaque sign : List Byte → List Byte
/-- The measured digest of firmware and configuration block i (R508). -/
opaque measurement : Nat → List Byte

end Sys2Proof.Config
end

