-- ==== Sys2Proof/Machine/Num.lean ====
section
/-! DEFINITION. Num.lean: the number formats, exact values, rounding and the sticky flags that a conversion sets
(R132 to R147, R155). -/

namespace Sys2Proof.Machine

open Sys2Proof

/-! ## Exact values -/

/-- A value: NaN, an infinity, or (−1)^neg × m × 2^e. Zeros carry a sign. The result of a division or of a square
root is held with more bits than any format has and a last bit that is set when bits were dropped, so that rounding it
equals rounding the exact value. -/
inductive Num where
  | nan
  | inf (neg : Bool)
  | fin (neg : Bool) (m : Nat) (e : Int)
  deriving DecidableEq, Repr

/-- A zero. -/
def Num.zero (neg : Bool) : Num := .fin neg 0 0
/-- The sign. -/
def Num.neg : Num → Bool
  | .nan => false
  | .inf n => n
  | .fin n _ _ => n
/-- An integer. -/
def Num.ofInt (i : Int) : Num := .fin (i < 0) i.natAbs 0
/-- Whether the value is a NaN. -/
def Num.isNan : Num → Bool
  | .nan => true
  | _ => false
/-- Whether the value is a zero. -/
def Num.isZero : Num → Bool
  | .fin _ 0 _ => true
  | _ => false
/-- Whether the value is an infinity. -/
def Num.isInf : Num → Bool
  | .inf _ => true
  | _ => false
/-- The magnitude. -/
def Num.abs : Num → Num
  | .nan => .nan
  | .inf _ => .inf false
  | .fin _ m e => .fin false m e
/-- The value with its sign changed. -/
def Num.negate : Num → Num
  | .nan => .nan
  | .inf n => .inf (!n)
  | .fin n m e => .fin (!n) m e
/-- The value times 2^k. -/
def Num.scale (x : Num) (k : Int) : Num :=
  match x with
  | .fin n m e => .fin n m (e + k)
  | y => y

/-- floor(log2 x) of x = m × 2^e, m > 0. -/
def log2Floor (m : Nat) (e : Int) : Int := (Nat.log2 m : Int) + e

/-- m × 2^e in units of 2^u, for u ≤ e. -/
def mantAt (m : Nat) (e u : Int) : Nat := m * 2 ^ (e - u).toNat

/-- m × 2^e as a signed mantissa in units of 2^u. -/
def signedAt (neg : Bool) (m : Nat) (e u : Int) : Int := if neg then -(mantAt m e u : Int) else mantAt m e u

/-- −1, 0 or 1 as x is below, equal to or above y, for values that are not NaN; zeros compare equal. -/
def Num.cmp (x y : Num) : Int :=
  match x, y with
  | .inf a, .inf b => if a = b then 0 else if a then -1 else 1
  | .inf a, _ => if a then -1 else 1
  | _, .inf b => if b then 1 else -1
  | .fin a m e, .fin b k f =>
    let u := min e f
    let d := signedAt a m e u - signedAt b k f u
    if d < 0 then -1 else if d = 0 then 0 else 1
  | _, _ => 0

/-- The exact product; 0 × ∞ is a NaN. -/
def Num.mul (x y : Num) : Num :=
  match x, y with
  | .nan, _ | _, .nan => .nan
  | .inf a, .inf b => .inf (a != b)
  | .inf a, .fin b m _ => if m = 0 then .nan else .inf (a != b)
  | .fin a m _, .inf b => if m = 0 then .nan else .inf (a != b)
  | .fin a m e, .fin b k f => .fin (a != b) (m * k) (e + f)

/-- The exact sum of values that are finite; an exact zero has the sign `zneg` (R167), but a sum of zeros of one
sign keeps that sign. Zeros of both signs among the terms count as an exact zero too (DEDUCED, log entry 74). -/
def sumFin (l : List (Bool × Nat × Int)) (zneg : Bool) : Num :=
  let u : Int := match l with
    | [] => 0
    | t :: r => (r.map (fun t => t.2.2)).foldl min t.2.2
  let s : Int := (l.map (fun t => signedAt t.1 t.2.1 t.2.2 u)).foldl (· + ·) 0
  if s = 0 then
    if l.all (fun t => t.2.1 == 0 && t.1) then .zero true
    else if l.all (fun t => t.2.1 == 0 && !t.1) then .zero false
    else .zero zneg
  else .fin (s < 0) s.natAbs u

/-- The finite terms of a list, if every term is finite. -/
def finTerms : List Num → Option (List (Bool × Nat × Int))
  | [] => some []
  | .fin n m e :: r => (finTerms r).map (fun t => (n, m, e) :: t)
  | _ => none

/-- The exact sum of values, and whether it is invalid: infinities of both signs (R167). -/
def Num.sum (l : List Num) (zneg : Bool) : Num × Bool :=
  if l.any Num.isNan then (.nan, false)
  else if l.any (fun x => x == .inf false) && l.any (fun x => x == .inf true) then (.nan, true)
  else if l.any (fun x => x == .inf false) then (.inf false, false)
  else if l.any (fun x => x == .inf true) then (.inf true, false)
  else match finTerms l with
    | some t => (sumFin t zneg, false)
    | none => (.nan, false)

/-- The quotient of positive m × 2^e by k × 2^f, to 96 bits and a last bit for what was dropped. -/
def quotient (m : Nat) (e : Int) (k : Nat) (f : Int) : Nat × Int :=
  let sh := 96 + Nat.log2 k
  let n := m * 2 ^ sh
  (2 * (n / k) + (if n % k = 0 then 0 else 1), e - f - sh - 1)

/-- The integer square root, by bits from the top. -/
def isqrtGo (x : Nat) : Nat → Nat → Nat
  | 0, r => if (r + 1) * (r + 1) ≤ x then r + 1 else r
  | n + 1, r =>
    let t := r + 2 ^ (n + 1)
    isqrtGo x n (if t * t ≤ x then t else r)

/-- floor(√x). -/
def isqrt (x : Nat) : Nat := isqrtGo x (Nat.log2 x / 2 + 1) 0

/-- The square root of positive m × 2^e, to 96 bits and a last bit for what was dropped. -/
def sqrtParts (m : Nat) (e : Int) : Nat × Int :=
  let sh : Nat := if e % 2 = 0 then 192 else 193
  let n := m * 2 ^ sh
  let r := isqrt n
  (2 * r + (if r * r = n then 0 else 1), (e - sh) / 2 - 1)

/-! ## Floating formats (R132 to R135, R137, R142) -/

/-- A floating format. Magnitude codes rise with the value; `maxc` is that of the largest finite value and `infc`
that of infinity. `sgn` says whether the format has a sign bit above the magnitude, `zs` whether zero has a sign. -/
structure Fmt where
  mag  : Nat
  t    : Nat
  bias : Int
  sgn  : Bool
  zs   : Bool
  maxc : Nat
  infc : Option Nat
  nan  : Nat
  deriving DecidableEq, Repr

/-- binary32 (R137). -/
def Fmt.f32 : Fmt := ⟨31, 23, 127, true, true, 0x7F7FFFFF, some 0x7F800000, 0x7FC00000⟩
/-- binary16 (R137). -/
def Fmt.f16 : Fmt := ⟨15, 10, 15, true, true, 0x7BFF, some 0x7C00, 0x7E00⟩
/-- bf16 (R137). -/
def Fmt.bf16 : Fmt := ⟨15, 7, 127, true, true, 0x7F7F, some 0x7F80, 0x7FC0⟩
/-- acc48 (R142). -/
def Fmt.acc : Fmt := ⟨47, 38, 255, true, true, 511 * 2 ^ 38 - 1, some (511 * 2 ^ 38), 0x7FE000000000⟩
/-- binary8pP signed (R132, R133); `inf` selects the extended format. -/
def Fmt.p8s (p : Nat) (inf : Bool) : Fmt :=
  ⟨7, p - 1, 2 ^ (7 - p), true, false, if inf then 0x7E else 0x7F, if inf then some 0x7F else none, 0x80⟩
/-- binary8pP unsigned (R134). -/
def Fmt.p8u (p : Nat) (inf : Bool) : Fmt :=
  ⟨8, p - 1, 2 ^ (8 - p), false, false, if inf then 0xFD else 0xFE, if inf then some 0xFE else none, 0xFF⟩
/-- binary4pP (R135). -/
def Fmt.p4 (p : Nat) (inf : Bool) : Fmt :=
  ⟨3, p - 1, 2 ^ (3 - p), true, false, if inf then 6 else 7, if inf then some 7 else none, 8⟩

/-- The 16-bit formats of the packed instructions (R166). -/
def fmt16 : Fmt16 → Fmt
  | .f16 => .f16
  | .bf16 => .bf16
/-- The formats of the conversions (R170). -/
def ffmt : FFmt → Fmt
  | .f32 => .f32
  | .f16 => .f16
  | .bf16 => .bf16

/-- The exponent of the smallest normal value. -/
def Fmt.emin (f : Fmt) : Int := 1 - f.bias

/-- The value of a magnitude code that is finite. -/
def Fmt.magVal (f : Fmt) (neg : Bool) (c : Nat) : Num :=
  let e := c / 2 ^ f.t
  let t := c % 2 ^ f.t
  if e = 0 then .fin neg t (f.emin - f.t) else .fin neg (2 ^ f.t + t) (e - f.bias - f.t)

/-- The value of a code. -/
def Fmt.val (f : Fmt) (code : Nat) : Num :=
  let m := code % 2 ^ f.mag
  let s := f.sgn && code / 2 ^ f.mag % 2 == 1
  if !f.zs && code % 2 ^ (f.mag + 1) == f.nan then .nan
  else if f.infc = some m then .inf s
  else if m > f.maxc then .nan
  else f.magVal s m

/-- The code of a magnitude with a sign. -/
def Fmt.code (f : Fmt) (neg : Bool) (m : Nat) : Nat := if neg && f.sgn then 2 ^ f.mag + m else m

/-- The code of zero: formats without a signed zero have one (R145). -/
def Fmt.zeroCode (f : Fmt) (neg : Bool) : Nat := f.code (neg && f.zs) 0

/-- Whether a code is a subnormal value. -/
def Fmt.isSub (f : Fmt) (code : Nat) : Bool :=
  let m := code % 2 ^ f.mag
  m != 0 && m / 2 ^ f.t == 0 && !(!f.zs && code % 2 ^ (f.mag + 1) == f.nan)

/-! ## Sticky flags as a word (R161) -/

/-- The flag word with one flag. -/
def flagNV : BitVec 7 := 0x01
/-- Floating division by zero. -/
def flagDZ : BitVec 7 := 0x02
/-- Overflow. -/
def flagOF : BitVec 7 := 0x04
/-- Underflow. -/
def flagUF : BitVec 7 := 0x08
/-- Saturation. -/
def flagSAT : BitVec 7 := 0x10
/-- Integer division by zero. -/
def flagIDZ : BitVec 7 := 0x20
/-- Scale out of range. -/
def flagSOR : BitVec 7 := 0x40

/-! ## Rounding (R144 to R147) -/

/-- Whether a magnitude of lo + num/den spacings rounds up (R144). `draw` is the 16-bit draw of SR. -/
def roundUp (mode : RMode) (neg : Bool) (draw lo num den : Nat) : Bool :=
  match mode with
  | .rne => decide (2 * num > den) || (decide (2 * num = den) && lo % 2 == 1)
  | .rna => decide (2 * num ≥ den)
  | .rz => false
  | .ru => decide (num > 0) && !neg
  | .rd => decide (num > 0) && neg
  | .sr => decide (num * 65536 / den + draw ≥ 65536)

/-- |x| of m × 2^e in units of 2^q, rounded (R144): the multiple, and whether it is exact. -/
def roundAt (mode : RMode) (neg : Bool) (draw m : Nat) (e q : Int) : Nat × Bool :=
  if q ≤ e then (m * 2 ^ (e - q).toNat, true)
  else
    let den := 2 ^ (q - e).toNat
    let lo := m / den
    let num := m % den
    (if roundUp mode neg draw lo num den then lo + 1 else lo, num == 0)

/-- The result for an infinite input (R146). -/
def Fmt.roundInf (f : Fmt) (sat neg : Bool) : Nat × BitVec 7 :=
  if neg && !f.sgn then if sat then (0, flagSAT) else (f.nan, flagNV)
  else if sat then (f.code neg f.maxc, flagSAT)
  else match f.infc with
    | some i => (f.code neg i, 0)
    | none => (f.nan, flagNV)

/-- The result of a finite overflow (R146). -/
def Fmt.overflow (f : Fmt) (mode : RMode) (sat neg : Bool) : Nat × BitVec 7 :=
  if sat then (f.code neg f.maxc, flagSAT)
  else match f.infc with
    | none => (f.nan, flagOF)
    | some i =>
      let m := match mode with
        | .rne | .rna | .sr => i
        | .rz => f.maxc
        | .ru => if neg then f.maxc else i
        | .rd => if neg then i else f.maxc
      (f.code neg m, flagOF)

/-- `round_to` with the cases of R146 and the underflow flag of R147: a code and its flags. -/
def Fmt.round (f : Fmt) (mode : RMode) (sat : Bool) (draw : Nat) (x : Num) : Nat × BitVec 7 :=
  match x with
  | .nan => (f.nan, 0)
  | .inf n => f.roundInf sat n
  | .fin n m e =>
    if m = 0 then (f.zeroCode n, 0)
    else
      let l := log2Floor m e
      let ex := max l f.emin
      let r := roundAt mode n draw m e (ex - f.t)
      let c := (ex - f.emin).toNat * 2 ^ f.t + r.1
      let uf := if l < f.emin && !r.2 then flagUF else 0
      if r.1 = 0 then (f.zeroCode n, uf)
      else if n && !f.sgn then if sat then (0, flagSAT ||| uf) else (f.nan, flagNV ||| uf)
      else if c > f.maxc then f.overflow mode sat n
      else (f.code n c, uf)

/-- Rounding of a finite value to an integer, with q = 1 (R144). -/
def roundInt (mode : RMode) (draw : Nat) (neg : Bool) (m : Nat) (e : Int) : Int :=
  let r := (roundAt mode neg draw m e 0).1
  if neg then -(r : Int) else r

/-- An integer format: its bits, whether it is signed, and its range (R138). -/
structure IFmt where
  bits : Nat
  sgn  : Bool
  lo   : Int
  hi   : Int
  deriving DecidableEq, Repr

/-- A two's-complement or unsigned integer format of full range. -/
def IFmt.full (bits : Nat) (sgn : Bool) : IFmt :=
  if sgn then ⟨bits, true, -(2 ^ (bits - 1) : Int), 2 ^ (bits - 1) - 1⟩ else ⟨bits, false, 0, 2 ^ bits - 1⟩
/-- An integer format whose most negative code is reserved. -/
def IFmt.symm (bits : Nat) : IFmt := ⟨bits, true, -(2 ^ (bits - 1) - 1 : Int), 2 ^ (bits - 1) - 1⟩

/-- The integer value of a code; the reserved code reads as its substitute (R138). -/
def IFmt.val (f : IFmt) (code : Nat) : Int :=
  let c : Int := code % 2 ^ f.bits
  let v := if f.sgn && c ≥ 2 ^ (f.bits - 1) then c - 2 ^ f.bits else c
  max v f.lo

/-- Conversion of a value to an integer format (R144, R146): the integer and the flags. -/
def IFmt.round (f : IFmt) (mode : RMode) (draw : Nat) (x : Num) : Int × BitVec 7 :=
  match x with
  | .nan => (0, flagNV)
  | .inf n => (if n then f.lo else f.hi, flagSAT)
  | .fin n m e =>
    let y := roundInt mode draw n m e
    if y < f.lo then (f.lo, flagSAT) else if y > f.hi then (f.hi, flagSAT) else (y, 0)

/-- An integer as a code of n bits. -/
def intCode (n : Nat) (i : Int) : Nat := (i % 2 ^ n).toNat

/-- An element format: floating or integer (R155). -/
inductive EFmt where
  | fl (f : Fmt)
  | int (f : IFmt)
  deriving DecidableEq, Repr

/-- The format of a code of R155; `inf` selects the extended form. -/
def EFmt.ofCode (c : Nat) (inf : Bool) : Option EFmt :=
  if 1 ≤ c ∧ c ≤ 7 then some (.fl (.p8s c inf))
  else if 9 ≤ c ∧ c ≤ 0xF then some (.fl (.p8u (c - 8) inf))
  else if 0x11 ≤ c ∧ c ≤ 0x13 then some (.fl (.p4 (c - 0x10) inf))
  else if c = 0x18 then some (.int (.full 8 true))
  else if c = 0x19 then some (.int (.full 8 false))
  else if c = 0x1A then some (.int (.full 4 true))
  else if c = 0x1B then some (.int (.full 4 false))
  else if c = 0x1C then some (.int (.symm 8))
  else if c = 0x1D then some (.int (.symm 4))
  else if c = 0x20 then some (.fl .f16)
  else if c = 0x21 then some (.fl .bf16)
  else if c = 0x22 then some (.fl .f32)
  else none

/-- The value of an element. -/
def EFmt.val (f : EFmt) (code : Nat) : Num :=
  match f with
  | .fl g => g.val code
  | .int g => .ofInt (g.val code)

/-- Bits of an element. -/
def EFmt.bits : EFmt → Nat
  | .fl f => if f.sgn then f.mag + 1 else f.mag
  | .int f => f.bits

/-- Whether the format is an integer format. -/
def EFmt.isInt : EFmt → Bool
  | .int _ => true
  | .fl _ => false

/-- Conversion of a value into an element: a code and its flags. -/
def EFmt.round (f : EFmt) (mode : RMode) (sat : Bool) (draw : Nat) (x : Num) : Nat × BitVec 7 :=
  match f with
  | .fl g => g.round mode sat draw x
  | .int g => let r := g.round mode draw x; (intCode g.bits r.1, r.2)

/-- The code of NaN; an integer format has none, and a NaN becomes 0 in it (R146). -/
def EFmt.nanCode : EFmt → Nat
  | .fl f => f.nan
  | .int _ => 0

/-- The largest finite value. -/
def Fmt.maxNum (f : Fmt) : Num := f.magVal false f.maxc

/-! ## The stochastic generator (R149, R150) -/

/-- One step of a generator. -/
def nextSeed (z : Word) : Word :=
  let z := z ^^^ (z <<< 13)
  let z := z ^^^ (z >>> 17)
  z ^^^ (z <<< 5)

/-- The 16 bits that a draw reads from the state after it. -/
def drawOf (z : Word) : Nat := (z >>> 16).toNat

/-- A state that would be zero becomes 0x6D2B79F5. -/
def fixSeed (z : Word) : Word := if z = 0 then 0x6D2B79F5 else z

/-- n × 0x9E3779B9, modulo 2^32. -/
def goldenTimes : Nat → Word
  | 0 => 0
  | n + 1 => 0x9E3779B9#32 + goldenTimes n

/-- The state of lane l after a scalar seed X. -/
def laneSeed (x : Word) (l : Nat) : Word := fixSeed (x ^^^ goldenTimes (l + 1))

/-! ## Format words (R154 to R156) -/

/-- The fields of a format word. -/
structure FWord where
  acc  : Bool
  sat  : Bool
  rnd  : Nat
  out  : Nat
  bsc  : Nat
  asc  : Nat
  binf : Bool
  ainf : Bool
  bfmt : Nat
  afmt : Nat
  top  : Nat
  deriving DecidableEq, Repr

/-- The fields of a word. -/
def FWord.of (w : Word) : FWord :=
  let n := w.toNat
  ⟨bitsOf n 24 1 == 1, bitsOf n 23 1 == 1, bitsOf n 20 3, bitsOf n 18 2, bitsOf n 16 2, bitsOf n 14 2,
    bitsOf n 13 1 == 1, bitsOf n 12 1 == 1, bitsOf n 6 6, bitsOf n 0 6, bitsOf n 25 7⟩

/-- The rounding mode of a format word. -/
def FWord.mode (w : FWord) : RMode := [RMode.rne, .rz, .ru, .rd, .rna, .sr].getD w.rnd .rne

/-- A format code with its infinity and scale selections (R154, R155, R156). -/
def fmtOk (c : Nat) (inf : Bool) (sc : Nat) : Bool :=
  (EFmt.ofCode c inf).isSome && (!inf || (1 ≤ c && c ≤ 0x13)) && sc ≤ 2 && (sc == 0 || (1 ≤ c && c ≤ 0x13))

/-- The checks of R156 for a word of two operands. -/
def FWord.ok (w : FWord) : Bool :=
  w.top == 0 && w.rnd ≤ 5 && fmtOk w.afmt w.ainf w.asc && fmtOk w.bfmt w.binf w.bsc && w.afmt != 0x22 &&
    w.bfmt != 0x22 &&
    ((EFmt.ofCode w.afmt w.ainf).map EFmt.isInt == (EFmt.ofCode w.bfmt w.binf).map EFmt.isInt)

/-- The value of an E8 scale byte as a power of two; 0xFF is the zero scale (R139). -/
def e8 (b : Nat) : Option Int := if b = 0xFF then none else some ((b : Int) - 127)

/-- A value under a block scale and a sub-shift (R139, R140). -/
def scaled (x : Num) (sc : Option Int) (shift : Nat) : Num :=
  match sc with
  | some k => x.scale (k - shift)
  | none => if x.isNan then .nan else .zero false

end Sys2Proof.Machine
end

