-- ==== Sys2Proof/Machine/Tab.lean ====
section
/-! DEFINITION. Tab.lean: tables kept as lists of (key, value) pairs in one canonical form: keys strictly
rising. All sparse state of the machine (memories, registers, queues by number) is held this way. -/

namespace Sys2Proof.Machine

/-- A table from numbers to values, as a list of pairs with strictly rising keys. -/
abbrev Tab (α : Type) := List (Nat × α)

/-- The value at a key, if the table lists one. -/
def Tab.get? {α : Type} (t : Tab α) (k : Nat) : Option α :=
  match t with
  | [] => none
  | (j, v) :: r => if j = k then some v else Tab.get? r k

/-- The value at a key, or the default of an unlisted key. -/
def Tab.getD {α : Type} (t : Tab α) (k : Nat) (d : α) : α := (Tab.get? t k).getD d

/-- The table without a key. -/
def Tab.del {α : Type} (t : Tab α) (k : Nat) : Tab α := t.filter (fun e => e.1 != k)

/-- An entry put before the first larger key. -/
def Tab.insertSorted {α : Type} (t : Tab α) (k : Nat) (v : α) : Tab α :=
  match t with
  | [] => [(k, v)]
  | (j, w) :: r => if k < j then (k, v) :: (j, w) :: r else (j, w) :: Tab.insertSorted r k v

/-- The table with a key set to a value. -/
def Tab.put {α : Type} (t : Tab α) (k : Nat) (v : α) : Tab α := Tab.insertSorted (Tab.del t k) k v

/-- The table with a key set to a value, where an entry equal to the default is not listed. -/
def Tab.set {α : Type} [DecidableEq α] (d : α) (t : Tab α) (k : Nat) (v : α) : Tab α :=
  if v = d then Tab.del t k else Tab.put t k v

/-- The table with one entry changed by a function, where it is listed. -/
def Tab.modify {α : Type} (t : Tab α) (k : Nat) (f : α → α) : Tab α :=
  match Tab.get? t k with
  | some v => Tab.put t k (f v)
  | none => t

/-- The canonical form: keys strictly rising and no entry equal to the default. -/
def Tab.wf {α : Type} [DecidableEq α] (d : α) (t : Tab α) : Bool :=
  decide (t.Pairwise (fun a b => a.1 < b.1)) && t.all (fun e => decide (e.2 ≠ d))

/-- Keys strictly rising: the canonical form of a table without a default. -/
def Tab.sorted {α : Type} (t : Tab α) : Bool := decide (t.Pairwise (fun a b => a.1 < b.1))

end Sys2Proof.Machine
end

