-- ==== Sys2Proof/Machine/State.lean ====
section
/-! DEFINITION. State.lean: the state of one H960 device as plain data, the reasons a step can stop, and the
state right after reset. A docstring names the rule of spec/ that gives the machine each piece of state. -/

namespace Sys2Proof.Machine

open Sys2Proof

/-! ## Why a step can stop -/

/-- The reasons a step stops with a fault. -/
inductive Fault where
  /-- Raised by a meaning of a wave instruction that is executed while no wave issues (`State.cur = none`).
  `step` selects the wave first; only an agenda that names a wave's instruction as an act of the environment meets
  this stop. Safe: no program reaches it. -/
  | noIssuingWave
  /-- Raised by `step` when the package is stopped (R515) or no start has completed, and the environment does nothing:
  nothing runs until the next start. Safe. -/
  | packageStopped
  deriving DecidableEq, Repr

/-- The reasons a step refuses an instruction. -/
inductive Refusal where
  /-- Raised by an arm of `exec` whose instruction has no meaning yet. Safe. -/
  | notModelled (mnemonic : String)
  deriving DecidableEq, Repr

/-! ## Waves and threads (R28 to R30, R41) -/

/-- The tag of a bypass latch: the producer's destination code, whether its result was wide, and whether it
suppressed write-back (R90). -/
structure LatchTag where
  code : BitVec 7
  wide : Bool
  nwb  : Bool
  deriving DecidableEq, Repr

/-- One latch position: 64 bits a lane, a valid bit and a tag, which may be cleared (R80, R90). -/
structure Latch where
  val   : Tab DWord
  valid : Bool
  tag   : Option LatchTag
  deriving DecidableEq, Repr

/-- A latch at wave start: no value, tag cleared (R90). -/
def Latch.clear : Latch := ⟨[], false, none⟩

/-- What a parked thread waits for, by its reason code (R51). -/
inductive ParkArg where
  /-- Reason 1: the page of the missing address; `write` when a write needs it. -/
  | page (va : Nat) (write : Bool)
  /-- Reason 2: a full/empty bit, numbered over the device. -/
  | granule (g : Nat)
  /-- Reason 3: a counter below its target; `local` for a scratchpad word of workgroup `wg`. -/
  | counter (loc : Bool) (addr : Nat) (target : Nat)
  /-- Reasons 4 and 5: a queue of the workgroup. -/
  | queue (q : Nat)
  /-- Reason 6: a barrier object at a scratchpad offset, the awaited phase, and the instruction after the barrier
  instruction (R266). -/
  | barrier (off : Nat) (ph : Bool) (next : BitVec 64)
  deriving DecidableEq, Repr

/-- The wait of a wave for a consensus round (R370 to R372, R367). -/
inductive RoundWait where
  /-- CBRW, or a CBR with a small journal: its target and fall-through addresses and its instruction PC. -/
  | branch (pc target fall : BitVec 64)
  /-- CSYNC with its result register, if it has one, the lanes that execute it and the address after it. -/
  | sync (sd : Option Nat) (lanes : Mask) (next : BitVec 64)
  /-- CLEAVE, likewise. -/
  | leave (lanes : Mask) (next : BitVec 64)
  deriving DecidableEq, Repr

/-- Why a whole wave is not ready though none of its threads is parked. -/
inductive Busy where
  | no
  /-- SLEEP until a cycle (R197). -/
  | sleep (till : Nat)
  /-- In SNEXT for an eligible stage (R45). -/
  | stage
  /-- For a consensus round (R371, R372, R367). -/
  | round (w : RoundWait)
  /-- Stalled in a speculation until its round resolves (R376). -/
  | spec
  /-- For the result of a home KV engine (R401). -/
  | kv
  /-- For fabric responses (R346). -/
  | remote
  /-- For space in the job ring (R290). -/
  | ring (n : Nat)
  /-- For the page of its trap frame, at entry or at RFT (R437, R438). -/
  | frame (va : Nat)
  /-- For its trap frame on a page of a peer, at entry or at RFT: whether the accesses have gone out (R437, R438). -/
  | away (asked : Bool)
  /-- Inside an open latch chain, for the page of its next instruction (R57, R89). -/
  | fetch (va : Nat)
  /-- In TLBINV, until the accesses of its context that used translations of [a, a + n) are performed (R454). -/
  | inv (a n : Nat)
  deriving DecidableEq, Repr

/-- A trap that is being taken: what R432 records, per-lane addresses and reason codes (R436), and the PC
that the frame gives each lane where it is not the lane's own. -/
structure TrapRec where
  cause  : BitVec 8
  detail : BitVec 8
  mask   : Mask
  pc     : BitVec 64
  addr   : BitVec 64
  addrs  : Tab DWord
  codes  : Tab Nat
  deriving DecidableEq, Repr

/-- A store held by a speculation (R233), one record a lane and granule piece, at the place where its translation at
issue put it: space 0 scratchpad (by physical byte), 1 device memory, 2 host memory. `setFe` is an STFE; `va` is the
virtual address, with which its line is written. -/
structure HeldStore where
  space : Nat
  addr  : Nat
  va    : Nat
  bytes : List Byte
  setFe : Bool
  deriving DecidableEq, Repr

/-- An open collective-branch speculation (R374, R375): the checkpoint, the journal in use, the held stores,
the automatic guard slot and a deferred trap (R377). -/
structure Spec where
  pc     : BitVec 64
  taken  : Bool
  target : BitVec 64
  fall   : BitVec 64
  v      : Tab Word
  s      : Tab Word
  p      : Tab Mask
  tags   : List (Option LatchTag)
  dscope : BitVec 32
  flags  : Tab (BitVec 7)
  seed   : Tab Word
  vset   : List Nat
  sset   : List Nat
  gen    : Bool
  used   : Nat
  guard  : Option Nat
  stores : List HeldStore
  trap   : Option TrapRec
  deriving DecidableEq, Repr

/-- Membership of a consensus group (R361): the group, the local position, and the round the wave votes in
first, while it has not voted (R366). -/
structure CMember where
  grp   : Nat
  pos   : Nat
  first : Option (BitVec 16)
  deriving DecidableEq, Repr

/-- A vote on its way to the consensus unit (R368). -/
structure Vote where
  round : BitVec 16
  site  : BitVec 16
  mode  : Bool
  val   : Bool
  deriving DecidableEq, Repr

/-- A vote on its way to the consensus unit, or waiting there for the round before it to resolve (R368, R369): the wave that
sent it, its group and its position. It stands whatever happens to the wave. -/
structure Ballot where
  wave : Nat
  grp  : Nat
  pos  : Nat
  vote : Vote
  deriving DecidableEq, Repr

/-- A wave: the 32 threads of one wave slot (R29), with every register that belongs to it. Per-lane state is
held in tables by lane; vector register r of lane l has key 32 r + l. -/
structure Wave where
  /-- The workgroup, by its number in `State.wgs`, and `%waveid` (R33). -/
  wg       : Nat
  waveid   : Nat
  /-- Vector, scalar and predicate registers (R29, R41). -/
  v        : Tab Word
  s        : Tab Word
  p        : Tab Mask
  /-- Bypass latches b0 to b3 (R88, R90) and the NWB producers of the open chain, 0 when none is open (R89). -/
  latches  : List Latch
  chain    : Nat
  /-- Program counters (R28) and thread states: exited, parked, holding under R52, waiting under R48. -/
  pc       : Tab (BitVec 64)
  exited   : Mask
  parked   : Mask
  held     : Mask
  waiting  : Mask
  /-- Park reasons (R51), what each parked lane waits for, and the park group that resumes together (R30). -/
  reason   : Tab Nat
  parkArg  : Tab ParkArg
  group    : Tab Nat
  /-- `CSTORE` pending indices (R226). -/
  pend     : Tab Nat
  /-- Sticky flags (R161) and stochastic generator states (R149). A lane that is not listed holds the state a
  scalar seed of zero gives (R150). -/
  flags    : Tab (BitVec 7)
  seed     : Tab Word
  /-- The lanes that gather at BAR or BARARV (R264), the arrival that is counted, and the awaited phase (R266). -/
  gather   : Mask
  arrived  : Bool
  phase    : Bool
  /-- Per-wave special registers of R49, R148, R162 and R237. -/
  fair     : BitVec 32
  dscope   : BitVec 32
  trapen   : BitVec 32
  rmode    : BitVec 32
  /-- The fairness counter and the rover PC (R59). -/
  fairCnt  : Nat
  rover    : BitVec 64
  /-- The frontier group that a fairness event chose for the run in progress or the next one (R59). -/
  pick     : Option (BitVec 64)
  /-- The trap range of R431. -/
  tcause   : BitVec 32
  tmask    : BitVec 32
  tpc      : BitVec 64
  taddr    : BitVec 64
  tcount   : BitVec 32
  tframe   : BitVec 64
  /-- The open `MARK` interval: its first cycle and its tag (R503). -/
  mark     : Option (Nat × BitVec 8)
  /-- Consensus state (R361, R364): membership, LAST, SM, SENT, ROUND. -/
  member   : Option CMember
  last     : BitVec 2
  sm       : Bool
  sent     : Bool
  round    : BitVec 16
  /-- A refused vote that the wave has still to learn of at its instruction (R369). -/
  sited    : Bool
  /-- Open speculation (R374). -/
  spec     : Option Spec
  /-- Current pipeline stage (R33) and whether the wave belongs to it (R45). -/
  stage    : Nat
  inStage  : Bool
  /-- The served bit of R55. -/
  served   : Bool
  /-- The wave-level wait. -/
  busy     : Busy
  /-- A trap still to be entered: asynchronous, deferred, or waiting for its frame page (R377, R437). -/
  trap     : Option TrapRec
  /-- The frame of an RFT still to be read, where its page was absent (R438). -/
  rft      : Bool
  /-- Pre-emption: requested, halted, and the cycle of the forced stop (R62 to R64). -/
  preempt  : Option Nat
  halted   : Bool
  forced   : Bool
  /-- The last thread to exit used `.tail` (R195). -/
  tail     : Bool
  /-- Instructions decoded ahead of the issue PC: at most two, as (address, word, second word) (R200). -/
  ahead    : List (BitVec 64 × BitVec 64 × Option (BitVec 64))
  /-- Stores and adds that a peer refused and that are still to be reported, the earliest first: cycle of issue, lane,
  address, reason (R346). -/
  refused  : List (Nat × Nat × Nat × Nat)
  /-- Lanes of the instruction in progress whose fabric access was refused, with address and reason (R346). -/
  rejected : List (Nat × Nat × Nat)
  /-- Bytes that the lanes' loads in progress have received: lane, position in the access, byte (R346). -/
  inbuf    : List (Nat × Nat × Byte)
  /-- The cycle at which a lane parked at CNTWT (R497). -/
  parkAt   : Tab Nat
  /-- The PC of an instruction that waits and whose issue has been counted (R492). -/
  paid     : Option (BitVec 64)
  deriving DecidableEq, Repr

/-! ## Workgroups, launches, cards (R31 to R46, R272, R278, R284) -/

/-- The state of a queue of a workgroup (R272): control word, head, committed and reserved tails, elements
popped whose copy has not ended, and the pushes in progress as (reservation, slot bytes). -/
structure Queue where
  ctl       : BitVec 64
  head      : Nat
  committed : Nat
  reserved  : Nat
  popping   : Nat
  copies    : List (Nat × List Byte)
  deriving DecidableEq, Repr

/-- States of a guard slot (R279). -/
inductive GState where
  | free | opened | yes | no
  deriving DecidableEq, Repr

/-- A guard slot: its state and the cards that name it (R278). -/
structure GuardSlot where
  st    : GState
  count : Nat
  deriving DecidableEq, Repr

/-- States of a card (R302). -/
inductive CardState where
  | published | admitted | queued | running | parked | done | failed | discarded | cancelled
  deriving DecidableEq, Repr

/-- A range of a footprint entry (R287): space 1 global, 2 scratchpad, 3 accumulator. -/
structure Range where
  space : Nat
  base  : Nat
  len   : Nat
  w     : Bool
  deriving DecidableEq, Repr

/-- What a running JMV card keeps of its start: the machine address of each page of W and its scales by virtual address
(R328), and the bytes of x and its scales by scratchpad offset (R329). -/
structure MvRun where
  pins : List (Nat × Nat)
  xs   : List (Nat × List Byte)
  deriving DecidableEq, Repr

/-- A reader of a pool that a kill or a fault of its context discarded, and whose withdrawal the home engine has still to
make: the virtual device, context and core of its translations, the pool descriptor, and the parity it counts in (R408). -/
structure Leaver where
  vd   : Nat
  ctx  : Nat
  core : Nat
  pool : Nat
  odd  : Bool
  deriving DecidableEq, Repr

/-- A published card: its sequence number, its entries' bytes, its status (R302), its progress (R304), the
guard slot that holds it (0 none), its scope after demotion, the implied range of a JGEN card (R288), the engine
that has it, whether a cancel waits for its next boundary (R307), whether a multicast write was dropped (R300), whether
only its counter add is left (R303), the page that it waits for when parked, with `true` for a write, the nibbles
written of each destination granule (R303), the pool and parity under which it is registered as a reader (R408), whether
its failure has been reported (R306), what a running JMV keeps of its start, whether its counter add has gone out to a peer,
after which it ends as done or refused (R303), and the cycle of its publication (R497). -/
structure Card where
  seq      : Nat
  bytes    : List Byte
  st       : CardState
  code     : Nat
  xflags   : BitVec 7
  prog     : Nat
  guard    : Nat
  scope    : Nat
  implied  : Option Range
  eng      : Option Engine
  cancel   : Bool
  mdrop    : Bool
  atAdd    : Bool
  page     : Option (Nat × Bool)
  wrote    : Tab (BitVec 32)
  reader   : Option (Nat × Bool)
  reported : Bool
  mv       : Option MvRun
  adding   : Bool
  pubAt    : Nat
  deriving DecidableEq, Repr

/-- A workgroup that is resident, saved or waiting in its core's retirement tracker. -/
structure Workgroup where
  vd      : Nat
  ctx     : Nat
  launch  : Nat
  gang    : Nat
  wgid    : Nat
  tag     : Nat
  core    : Nat
  nthr    : Nat
  nwaves  : Nat
  gangsz  : Nat
  /-- The set H of R35, as indices within the core. -/
  h       : List Nat
  /-- The physical 4 KiB unit (quarter × 32 + unit) of each unit of the range (R37, R208), and its size. -/
  units   : List Nat
  salloc  : Nat
  /-- The placement's fields of R37 and R282. -/
  jbase   : Nat
  jlog    : Nat
  jnotify : Nat
  journal : Nat
  jrnSize : Nat
  queues  : Tab Queue
  guards  : Tab GuardSlot
  closed  : List Nat
  /-- The cards published and not yet overwritten in the ring, oldest first, and the admitted ones (R292). -/
  cards   : List Card
  /-- Accumulator slots bound to halves (R313) and the first slots of fused pairs (R314). -/
  slots   : Tab Nat
  fused   : List Nat
  /-- In the retirement tracker: the last wave has exited (R67). -/
  tracked : Bool
  /-- The waves that have not exited. -/
  live    : Nat
  /-- The offsets of barrier objects on which waves have arrived; an image's header counts those with arrivals (R444). -/
  bars    : List Nat
  /-- Placement order, for the age of R55. -/
  age     : Nat
  /-- The cycle at which a pre-emption was requested (R62). -/
  preempt : Option Nat
  deriving DecidableEq, Repr

/-- A stage entry of a stage table (R43). -/
structure StageEnt where
  entry : BitVec 64
  initw : Nat
  maxw  : Nat
  deriving DecidableEq, Repr

/-- A launch record as read (R39), with its stage table (R43). -/
structure LaunchRec where
  entry    : BitVec 64
  param    : BitVec 64
  ngangs   : Nat
  wgthr    : Nat
  gangsz   : Nat
  fuse     : Bool
  nstage   : Nat
  prio     : Nat
  stagetbl : Nat
  scratch  : Nat
  journal  : Nat
  nqueue   : Nat
  ringlog  : Nat
  cscope   : Nat
  incr     : Nat
  cntaddr  : Nat
  stages   : List StageEnt
  qwords   : List (BitVec 64)
  deriving DecidableEq, Repr

/-- A launch taken from a queue and not retired. -/
structure Launch where
  vd      : Nat
  ctx     : Nat
  rcd     : LaunchRec
  placed  : Nat
  retired : Nat
  /-- A card failure was left unreported: no completion add (R306). -/
  spoiled : Bool
  /-- The completion add waits for the page of CNTADDR (R42). -/
  waiting : Bool
  deriving DecidableEq, Repr

/-! ## Engines (R292, R293, R311, R326, R385, R417) -/

/-- A card, by workgroup and sequence number. -/
structure CardRef where
  wg  : Nat
  seq : Nat
  deriving DecidableEq, Repr

/-- A pool descriptor (R397). -/
structure Pool where
  zero   : Bool
  rcnt1  : Nat
  rcnt0  : Nat
  epoch  : Nat
  bsz    : Nat
  bpb    : Nat
  dftail : Nat
  dfhead : Nat
  dfcap  : Nat
  top1   : Nat
  top0   : Nat
  nblk1  : Nat
  nblk0  : Nat
  dfbase : Nat
  rc1    : Nat
  rc0    : Nat
  fl1    : Nat
  fl0    : Nat
  tb1    : Nat
  tb0    : Nat
  deriving DecidableEq, Repr

/-- A row of a running attention card (R393). -/
structure AttnRow where
  m   : Word
  l   : Word
  o   : List Word
  bad : Bool
  deriving DecidableEq, Repr

/-- A running attention card: its rows, the stream tokens visited, and of a pool source the descriptor and the number of blocks
as read at start (R391). -/
structure AttnRun where
  rows   : List AttnRow
  tdone  : Nat
  pool   : Option (Pool × Nat)
  deriving DecidableEq, Repr

/-- States of a slot of a rotation (R419). -/
inductive SlotState where
  | free
  | granted (k : Nat)
  | landing (k : Nat)
  | held (k : Nat)
  deriving DecidableEq, Repr

/-- A slot of a running rotation: its state, the pieces that have landed, the pieces that a gather or a reduction has
consumed, and whether the successor has acknowledged the block. -/
structure RotSlot where
  st     : SlotState
  landed : List Nat
  used   : List Nat
  acked  : Bool
  deriving DecidableEq, Repr

/-- A running rotation (R418 to R420): member index, group size, slots, the consumption counter at start
and as last seen, the successor's grants as (block at the successor, slot), the pieces already sent as (block, piece), and
the cycle of the last progress (R427). -/
structure RotRun where
  me     : Nat
  g      : Nat
  slots  : List RotSlot
  c0     : Nat
  seen   : Nat
  grants : List (Nat × Nat)
  sent   : List (Nat × Nat)
  since  : Nat
  deriving DecidableEq, Repr

/-- The card that an engine runs. `prog` counts elements or chunks done, `done` says that every access has been made,
`desc` holds the descriptor as read at start (R297), `out` granule writes still to be made as (scratchpad offset, bytes),
and `got` the bytes of a fabric read that the next element uses. -/
structure Run where
  card  : CardRef
  prog  : Nat
  done  : Bool
  desc  : List Byte
  out   : List (Nat × List Byte)
  got   : Option (List Byte)
  attn  : Option AttnRun
  rot   : Option RotRun
  deriving DecidableEq, Repr

/-- One engine: its queue of cards, the card it runs, the cycle at which STOP asked it to drain (R478), and the core
whose queue an ISMV served last (R326). -/
structure EngineSt where
  queue  : List CardRef
  run    : Option Run
  stopAt : Option Nat
  last   : Nat
  deriving DecidableEq, Repr

/-- A counter bank: values and control words by counter (R489, R491). -/
structure Bank where
  val : Tab (BitVec 48)
  ctl : Tab (BitVec 32)
  deriving DecidableEq, Repr

/-- A latency capture unit (R497, R498) and its claim. -/
structure Lcu where
  ctl   : BitVec 32
  min   : BitVec 32
  max   : BitVec 32
  count : BitVec 48
  sum   : BitVec 64
  bins  : Tab (BitVec 32)
  owner : Nat
  deriving DecidableEq, Repr

/-- A captured loop (R199): its owner, its address range and its words by address. -/
structure LoopBuf where
  vd    : Nat
  ctx   : Nat
  lo    : Nat
  hi    : Nat
  words : Tab (BitVec 64)
  deriving DecidableEq, Repr

/-- The run in progress of a sub-partition (R56): its wave, its issues so far, whether a switch event waits for the
close of a latch chain (R57), whether that event is a fairness event (R60), and the cycle of the sub-partition's pipelines
from which each latch can be read (R92). -/
structure RunSt where
  wave    : Nat
  issues  : Nat
  ending  : Bool
  fair    : Bool
  latches : List Nat
  deriving DecidableEq, Repr

/-- The pipelines of a sub-partition (R92, R186): its cycle (one for each issue slot that passes), the results on their way
as (cycle from which they can be read, wave by workgroup × 32 + `%waveid`, registers and predicates), and the units that
are busy as (cycle, unit). -/
structure Pipe where
  now    : Nat
  writes : List (Nat × Nat × List Nat)
  units  : List (Nat × Nat)
  deriving DecidableEq, Repr

/-- Pipelines with nothing in them. -/
def Pipe.idle : Pipe := ⟨0, [], []⟩

/-- A sub-partition: its holder (0 none) and the cycle its grant ends (R470), the VDID tag of its quarter (R210),
its loop buffer (R199), the deficits of R54 by VDID × 64 + context, the context last served, the run in
progress (R56), its counters (R489), its pipelines, and the next holder while a world switch is under way (0: nobody). -/
structure SubPart where
  holder  : Nat
  till    : Nat
  next    : Option Nat
  tag     : Nat
  loop    : Option LoopBuf
  deficit : Tab Int
  last    : Nat
  run     : Option RunSt
  bank    : Bank
  pipe    : Pipe
  deriving DecidableEq, Repr

/-- A core: the ring its job scheduler visits next and the ring it releases from next (R292), the halves bound
to workgroups (R313), the workgroup that holds the attention engine (R385), its tracker entries (R67), its
counters and whether its cluster runs fused (kept per core 8c; R36). -/
structure CoreSt where
  nextRing : Nat
  nextRel  : Nat
  halves   : Tab Nat
  attn     : Option Nat
  tracker  : List Nat
  fused    : Bool
  bank     : Bank
  deriving DecidableEq, Repr

/-! ## Caches and translation (R203 to R207, R230, R347, R448) -/

/-- How this device holds a peer line (R347). -/
inductive Hold where
  | device | shared | owned
  deriving DecidableEq, Repr

/-- A line in the last-level cache: the VDID of its owner (R17), the context that filled it and the virtual address by
which it did, its priority (R230), its last use, whether it is dirty and then the bytes that the memory behind it still holds, of
a peer line the bytes that were written here, and how a peer line is held. The memory lists of the state hold the CURRENT bytes;
a dirty line that is discarded puts `stale` back. -/
structure Line where
  vd    : Nat
  ctx   : Nat
  va    : Nat
  prio  : Nat
  used  : Nat
  dirty : Bool
  stale : List Byte
  wrote : BitVec 64
  hold  : Hold
  deriving DecidableEq, Repr

/-- A line of an L1: the VDID of its owner (R17) and its last use. -/
structure L1Line where
  vd   : Nat
  used : Nat
  deriving DecidableEq, Repr

/-- A word of an instruction cache: the VDID for which its line was fetched (R17), and the word. -/
structure IcWord where
  vd   : Nat
  word : BitVec 64
  deriving DecidableEq, Repr

/-- A final translation (R448, R450): page base and size, frame base, kind (0 host, 1 device, 2 fabric),
writable, and whether the accessed and dirty bits are already set. -/
structure TlbEntry where
  die   : Bool
  unit  : Nat
  vd    : Nat
  pasid : Nat
  base  : Nat
  size  : Nat
  frame : Nat
  kind  : Nat
  w     : Bool
  dirty : Bool
  deriving DecidableEq, Repr

/-- A residency handle (R229). -/
structure Handle where
  ctx  : Nat
  base : Nat
  size : Nat
  prio : Nat
  deriving DecidableEq, Repr

/-! ## Virtual devices (R458, R459, R464 to R472) -/

/-- States of a virtual device (R458). -/
inductive VdState where
  | free | creating | ready | running | killing | draining | scrubbing | resetting
  deriving DecidableEq, Repr

/-- Which command or event a kill in progress serves (R459, R484). -/
inductive KillFor where
  | kill | reset | destroy | watchdog
  deriving DecidableEq, Repr

/-- TDI states (R509). -/
inductive Tdi where
  | unlocked | locked | run | error
  deriving DecidableEq, Repr

/-- A partition-map entry (R343); `set` says that sub-command 5 set it (R465). -/
structure PMap where
  v   : Bool
  pvd : BitVec 9
  inc : BitVec 16
  deriving DecidableEq, Repr

/-- The stream to and from one device (R357 to R359): the counter and EPOCH of what is sent and the installation of keys under
which it is sent; likewise EPOCH and installation of what the device was last seen to send. -/
structure Stream where
  ctr     : Nat
  epoch   : Bool
  gen     : Nat
  rx      : Bool
  rgen    : Nat
  fault   : Bool
  asked   : Bool
  stallAt : Option Nat
  oldTill : Option Nat
  deriving DecidableEq, Repr

/-- A page with an entry awaiting an answer, or awaiting room in the ring (R451). An entry of SRC 7 holds the failed
card's sequence number and CODE instead. -/
structure PageFault where
  va     : Nat
  src    : Nat
  code   : Nat
  rd     : Bool
  wr     : Bool
  ex     : Bool
  count  : Nat
  time   : Nat
  posted : Bool
  deriving DecidableEq, Repr

/-- Where a saved image stands (R447). -/
inductive Saved where
  | no
  /-- Saved by a pre-emption, or refused as SHORT: tried at each grant. -/
  | retry (reported : Bool)
  /-- Saved by VD_STOP or VD_MIG_FINAL, or refused as STALE: tried at VD_START. -/
  | hold
  deriving DecidableEq, Repr

/-- A page that the pager declared unresolvable, with what waited for it and has still to learn of it (R452): threads by
wave, lane and PC, cards, waves whose trap frame lies there, and whether the VCC waited. -/
structure Barred where
  page    : Nat
  threads : List (Nat × Nat × BitVec 64)
  cards   : List CardRef
  frames  : List Nat
  vcc     : Bool
  deriving DecidableEq, Repr

/-- A context of a virtual device: its configuration (R465), `%trapvec` (R431), its save counter and CONSUMED
bit (R445), its run state, its fault queue (R451) and its placement deficit (R471). -/
structure Context where
  pasid   : Nat
  weight  : Nat
  prot    : Bool
  hlock   : Bool
  enable  : Bool
  save    : Nat
  fqBase  : Nat
  fqSize  : Nat
  fqHead  : Nat
  fqTail  : Nat
  fqSeq   : Nat
  format  : BitVec 128
  trapvec : BitVec 64
  savectr : BitVec 64
  used    : Bool
  running : Bool
  faulted : Bool
  saved   : Saved
  stopping : Bool
  deficit : Int
  faults  : List PageFault
  refused : List Barred
  /-- The report of its last fault: cause with DETAIL, PC and address (R439), or the outcome of a refusal (R447). -/
  report  : Option (Nat × BitVec 64 × BitVec 64)
  deriving DecidableEq, Repr

/-- Halt reasons of a launch queue (R468). -/
inductive Halt where
  | none | recbad | seqerr | tagerr | seqend | ctxfault | killed | stopped
  deriving DecidableEq, Repr

/-- A launch queue (R468, R469). -/
structure LaunchQ where
  base    : Nat
  size    : Nat
  auth    : Bool
  enable  : Bool
  on      : Bool
  active  : Bool
  halt    : Halt
  head    : BitVec 32
  tail    : BitVec 32
  rej     : Nat
  last    : BitVec 64
  key     : Option (BitVec 256)
  since   : Nat
  checked : Bool
  page    : Option Nat
  deriving DecidableEq, Repr

/-- A virtual device: the fields of its table entry (R458), then its fabric endpoint, its scheduler state, its
monitors and its kill in progress. -/
structure VDev where
  st       : VdState
  inc      : BitVec 16
  csave    : Nat
  energy   : BitVec 64
  quota    : Nat
  fpart    : Nat
  mkey     : Nat
  fkey     : Nat
  fkeyn    : Nat
  /-- The epoch of the newest partition key on a stream that nothing has used, how many pending keys have been installed
  (R358), and the incarnations since a partition key was last installed (R356). -/
  epoch    : Bool
  gen      : Nat
  incs     : Nat
  maxscope : BitVec 4
  wdog     : Nat
  wmode    : Bool
  scrubk   : Bool
  pto      : Nat
  slice    : Nat
  maxsp    : Nat
  minsp    : Nat
  weight   : Nat
  pcap     : Nat
  logovf   : Bool
  dlog     : Bool
  bmap     : Bool
  fstep    : Nat
  fcode    : Nat
  logtail  : BitVec 32
  mlog     : Nat
  mlogl    : Nat
  /-- Host's log head (R486) and the pages among the last 256 entries (R485). -/
  loghead  : BitVec 32
  recent   : List Nat
  /-- Fabric endpoint: windows (R344), partition map (R343), devices set by sub-command 5, streams (R357),
  reservations (R339), retired (R355). -/
  windows  : Tab (BitVec 128)
  pmap     : Tab PMap
  members  : List Nat
  streams  : Tab Stream
  resv     : List Nat
  retired  : Bool
  /-- Residency handles (R229). -/
  handles  : Tab Handle
  /-- Slice scheduler: virtual time (R470), as units of SLICE over WEIGHT, and whether it was ready. -/
  vtime    : Rat
  wasReady : Bool
  /-- Placement round robin over contexts (R471). -/
  lastCtx  : Nat
  /-- Watchdog: the cycle of the last progress (R482). -/
  progress : Nat
  /-- Kick page: CSEL and the cause of the last VDEV event (R467). -/
  csel     : Nat
  cause    : Nat
  /-- `%pmovf` (R495), the counter set (R494), the ports granted (R464). -/
  pmovf    : BitVec 32
  pmset    : Option Nat
  ports    : BitVec 16
  /-- Remap drops for STATUS (R483). -/
  drops    : Nat
  /-- Kill in progress (R478) and the members whose RACK is awaited, with the cycle it began (R356). -/
  killFor  : Option KillFor
  racks    : List Nat
  rackAt   : Nat
  /-- TDISP state of its TDI (R509). -/
  tdi      : Tdi
  /-- Withheld by its power cap (R473). -/
  capped   : Bool
  /-- The energy at the last full millisecond, and the mean power in W of the millisecond that ended there (R473). -/
  mark     : BitVec 64
  power    : Nat
  deriving DecidableEq, Repr

/-! ## Groups (R360, R410, R465) -/

/-- A fabric group of a virtual device: members by index as (device, VDID), share, timeout, halo slots, and the
grants held for rotations not yet started as (RID, block, slot, NSTEP, BLK256, cycle) (R420). -/
structure FGroup where
  members : Tab (Nat × Nat)
  share   : Nat
  timeout : Nat
  halo    : Nat
  held    : List (Nat × Nat × Nat × Nat × Nat × Nat)
  deriving DecidableEq, Repr

/-- States of a consensus round (R369). -/
inductive RState where
  | idle | collect | reduce
  deriving DecidableEq, Repr

/-- One step of a reduction schedule for this device (R362): port, send up, send down, peer. -/
structure SchedStep where
  phase : Nat
  step  : Nat
  port  : Nat
  up    : Bool
  peer  : Nat
  deriving DecidableEq, Repr

/-- A consensus group record (R360). `results` holds, by round, the result (0 false, 1 true, 2 ABANDONED, 3 SITE mismatch)
and the local votes that have not consumed it: the last round's, and those of earlier rounds that a member still has to
consume (R370). `left` are the positions and rounds of votes that stand whose waves have left: nobody consumes their results (R367). `step` is the
phase in which the local value entered the schedule and whether it has been sent up. -/
structure CGroup where
  owner    : Nat
  scope    : Nat
  lpos     : Nat
  total    : Nat
  fgrp     : Nat
  joined   : List Nat
  devices  : List Nat
  sched    : List SchedStep
  round    : BitVec 16
  st       : RState
  site     : BitVec 16
  mode     : Bool
  expected : List Nat
  votes    : Tab Bool
  value    : Bool
  upgot    : List (Nat × Bool)
  kept     : List CFlit
  openAt   : Nat
  results  : Tab (Nat × Nat)
  lost     : Bool
  timeout  : Nat
  deleted  : Bool
  step     : Option (Nat × Bool)
  left     : List (Nat × BitVec 16)
  deriving DecidableEq, Repr

/-! ## KV engines (R400) -/

/-- A KV operation on its way to its home engine: the wave, its result register and what it asks. -/
inductive KvAsk where
  | app (table n src : Nat)
  | ref (pool : Nat) (entry : BitVec 64) (rel : Bool)
  | dem (table i : Nat) (pro : Bool)
  | look (table i : Nat)
  | fork (dst src : Nat)
  deriving DecidableEq, Repr

/-- A KV operation with its issuing wave (R400, R401): participating lanes, PC and length, result register; the workgroup as
it stood when a kill or a context fault discarded it, which the operation outlives (R409). -/
structure KvOp where
  wave  : Nat
  wg    : Nat
  sd    : Nat
  mask  : Mask
  pc    : BitVec 64
  next  : BitVec 64
  pool  : Nat
  ask   : KvAsk
  gone  : Option Workgroup
  deriving DecidableEq, Repr

/-- A demotion or promotion copy in progress (R407): the entry's address, the new block and tier. -/
structure KvCopy where
  op    : KvOp
  entry : Nat
  block : Nat
  tier  : Nat
  deriving DecidableEq, Repr

/-! ## The fabric endpoint of the device (R333 to R349) -/

/-- What a fabric request of this device asks for, and who waits for it. -/
inductive FabWho where
  /-- A lane of a wave that loads into a register: code of the destination, size, sign extension, whether it streams
  (LDU, R221). -/
  | load (wave lane : Nat) (d : BitVec 7) (size : Nat) (sx low : Bool)
  /-- A lane of a wave whose atomic returns its old value. -/
  | atomic (wave lane : Nat) (d : BitVec 7) (size : Nat)
  /-- A store or RSIG, whose refusal is reported later: the cycle of its issue and the address that it stores to. -/
  | store (wave lane since addr : Nat)
  /-- A line fetched to be owned, for a store that is then performed: as above, the bytes, and whether it streams (STU,
  R221). -/
  | own (wave lane since addr : Nat) (bytes : List Byte) (low : Bool)
  /-- A flush or maintenance line of a wave. -/
  | flush (wave : Nat)
  /-- An access of a card. -/
  | card (c : CardRef)
  /-- The write-back of an evicted line (R346). -/
  | evict (vd ctx : Nat)
  deriving DecidableEq, Repr

/-- An outstanding request: who waits, the address of the instruction behind it, the position of its bytes within the
lane's access, the operation code, its attributes and data, the address, the source VD and the target device. A request
that its stream or its reply reservation holds back is not yet sent (R340, R359). -/
structure FabReq where
  who  : FabWho
  next : BitVec 64
  off  : Nat
  len  : Nat
  op   : Nat
  opnd : BitVec 192
  data : List Byte
  ifa  : Nat
  va   : Nat
  vd   : Nat
  dev  : Nat
  sent : Bool
  deriving DecidableEq, Repr

/-- A directory entry of a line homed here (R348): the owner device, the sharers as (device, VDID), whether the whole
tenant may hold it, the request that waits for IACKs with the devices still to answer, and the requests that arrived
after it. -/
structure DirEntry where
  owner   : Option (Nat × Nat)
  sharers : List (Nat × Nat)
  tenant  : Option Nat
  pending : Option (Packet × List Nat)
  waiting : List Packet
  deriving DecidableEq, Repr

/-- A fabric port (R19, R336, R362): link up, mapped out at boot, error counter, flits waiting for a link
acknowledgement (R341), counters and control words (R489); the dwells so far, the flits of the current one and the cycle it
began (R333), its management flits and its rotation flits by VDID × 64 + group (R334); and the deficit round robin of each
class: deficits by place in the precedence × 512 + VDID, and the VDID served last by place. -/
structure Port where
  up      : Bool
  err     : Nat
  replay  : Nat
  bank    : Bank
  dwell   : Nat
  sent    : Nat
  since   : Nat
  mgmt    : Nat
  rot     : Nat
  deficit : Tab Nat
  last    : Tab Nat
  /-- Consensus flits sent in the current dwell (R333). -/
  cons    : Nat
  deriving DecidableEq, Repr

/-- A packet whose stream cannot send it yet (R359): the virtual device, the target device with its VDID and incarnation, the
operation, the class, OPND, the address and the data. -/
structure Unsent where
  vd   : Nat
  dev  : Nat
  tvd  : Nat
  tinc : Nat
  op   : Nat
  cls  : Nat
  opnd : BitVec 192
  ifa  : Nat
  data : List Byte
  deriving DecidableEq, Repr

/-! ## Host-facing state (R460, R474, R483, R505 to R515) -/

/-- A command taken and not yet completed (R462): its place in the ring, if it came from there, and whether it has
begun. -/
structure CmdRun where
  idx   : Option Nat
  cmd   : BitVec 512
  begun : Bool
  deriving DecidableEq, Repr

/-- The root of trust and the start (R508, R511 to R515): the two flash copies of the record, whether the device is up or
in recovery, this start's step statuses, the record as of the last step 12, the capability fields (populated clusters,
stacks, ISMVs, ports and LPDDR 6 present), the secure session, the IDE keys, the power registers, and whether the package
throttles for its power limit and whether for its temperature. -/
structure Boot where
  copyA    : BitVec 256
  copyB    : BitVec 256
  up       : Bool
  recovery : Bool
  steps    : BitVec 48
  rcd      : BitVec 256
  clpop    : BitVec 20
  stk      : BitVec 8
  ismv     : BitVec 8
  ports    : BitVec 16
  lp       : Bool
  session  : Option (BitVec 384)
  ide      : Tab (BitVec 256)
  plimit   : Nat
  pnow     : Nat
  penergy  : BitVec 64
  temp     : Nat
  throttle : Bool
  hot      : Bool
  /-- Whether the auxiliary rail is there without the main input, so that the device stays at step 1 (R515), and the start that
  waits for the kills of a PF FLR (R510). -/
  atOne    : Bool
  flr      : Option BootTests
  deriving DecidableEq, Repr

/-- The command-ring registers (R460) and the commands taken (R462). -/
structure Mgmt where
  base  : Nat
  size  : Nat
  tail  : BitVec 32
  head  : BitVec 32
  vec   : BitVec 6
  taken : BitVec 32
  runs  : List CmdRun
  done  : List Nat
  deriving DecidableEq, Repr

/-- Bytes of an engine write to a page that is not resident (R305), with the bits of each byte that it writes. -/
structure Bounce where
  die   : Nat
  vd    : Nat
  ctx   : Nat
  va    : Nat
  mask  : Byte
  bytes : List Byte
  deriving DecidableEq, Repr

/-- One workgroup of a saved image: the workgroup, its scratchpad bytes and full bits by offset, its tiles by
slot, and its waves by `%waveid` (R443). -/
structure SavedWg where
  id    : Nat
  wg    : Workgroup
  bytes : List (Nat × Byte)
  fe    : List Nat
  tiles : Tab (BitVec 48)
  tags  : List Nat
  waves : List (Nat × Wave)
  deriving DecidableEq, Repr

/-- What the device knows of a context image that it has written (R443): whose it is, its save counter, and what its workgroup
and wave blocks say. Their coding is fixed by FMT and read only by the device: their bytes are free values, drawn under `seed`. -/
structure Image where
  vd      : Nat
  ctx     : Nat
  savectr : BitVec 64
  seed    : Nat
  wgs     : List SavedWg
  deriving DecidableEq, Repr

/-! ## The state -/

/-- The state of one H960 device. -/
structure State where
  /-- The wave whose instruction is executed: sub-partition × 16 + slot (R28). -/
  cur      : Option Nat
  /-- Cycles since the device left reset (R33). -/
  clock    : Nat
  /-- The MODEL's own: how many free values have been drawn (the argument of the free functions of Config). -/
  free     : Nat
  /-- The MODEL's own: the sub-partition that issues next, and the next workgroup, launch and park-group numbers. -/
  turn     : Nat
  nextId   : Nat
  /-- The MODEL's own: events that the environment or the interleaving makes happen next, oldest first. -/
  agenda   : List Instr
  /-- Device number in the pod (R33). -/
  devid    : Nat
  waves    : Tab Wave
  wgs      : Tab Workgroup
  launches : Tab Launch
  /-- Sub-partitions by number, cores by number, engines by `Engine.key`, ISMV queues by stack × 160 + core. -/
  sps      : Tab SubPart
  cores    : Tab CoreSt
  engines  : Tab EngineSt
  ismvq    : Tab (List CardRef)
  /-- Device memory (R206), host memory, and the peer lines held here, by byte address. -/
  mem      : List Host.Cell
  host     : List Host.Cell
  peer     : List Host.Cell
  /-- Scratchpad bytes by core × 524288 + physical byte (R208) and the set full/empty bits by core × 32768 + granule
  (R211). -/
  scratch  : List Host.Cell
  fe       : Tab Bool
  /-- Accumulator elements by ((core × 4 + half) × 40 + tile) × 512 + element and integer tags by tile (R312, R143). -/
  acc      : Tab (BitVec 48)
  accInt   : Tab Bool
  /-- Lines of the LLC by `lineKey`, lines of the L1s by (L1, line), instruction-cache words (R200), TLBs (R448). -/
  llc      : Tab Line
  l1       : Tab L1Line
  icache   : Tab IcWord
  tlb      : List TlbEntry
  bounce   : List Bounce
  /-- Attention cards that a kill discarded and whose registration at their pool is still to be withdrawn (R395, R408). -/
  leaving  : List Leaver
  /-- Tables of the VCC (R457): virtual devices, contexts by VDID × 64 + context, launch queues by
  (VDID × 64 + context) × 64 + queue, the FOT by frame (R474), hold-offs by frame × 2 + origin (R455), keys, the
  remap table by (VDID × 8 + class) × 64 + index (R483). -/
  vds      : Tab VDev
  ctxs     : Tab Context
  queues   : Tab LaunchQ
  fot      : Tab (BitVec 32)
  sweep    : Tab Nat
  holdoff  : Tab Nat
  keys     : Tab (BitVec 256)
  remap    : Tab (BitVec 32)
  /-- Messages sent to the host as (function, vector) (R483). -/
  msi      : List (Nat × Nat)
  /-- Fabric groups by VDID × 64 + group, consensus groups by number. -/
  fgs      : Tab FGroup
  cgs      : Tab CGroup
  /-- KV operations by die in arrival order, and demotion copies (R400, R407). -/
  kvops    : Tab (List KvOp)
  kvcopies : Tab (List KvCopy)
  /-- Fabric: requests outstanding, packets that wait at the ports in the order in which they came, packets sent with their
  port, packets that their stream holds back, consensus flits that wait for the slot of a port and those sent, INVs whose IACK
  waits for a write-back (R348), halo buffer, directory by line, ports, receive
  slots in use by (VDID × 8 + class), allowances by ((source device × 512 + VDID) × 8 + class), pool slots in use. -/
  reqs     : List FabReq
  out      : List Packet
  wire     : List (Nat × Packet)
  unsent   : List Unsent
  cwait    : List (Nat × CFlit)
  cout     : List CFlit
  iacks    : List Packet
  /-- Votes not yet counted. -/
  ballots  : List Ballot
  halo     : List Packet
  dir      : Tab DirEntry
  ports    : Tab Port
  slots    : Tab Nat
  allow    : Tab Nat
  pool     : Nat
  phase    : Nat
  /-- The counter that gives gangs their allocation tags (R300). -/
  gangTag  : Nat
  /-- Counter sets: owner by set, LLC counters by (set × 192 + slice) × 8 + index, HBM4E counters by
  (set × 8 + stack) × 4 + index, and their control words (R489, R494). LCUs by core, 160 + die, 162 + port (R497). -/
  setOwner : Tab Nat
  llcCnt   : Bank
  hbmCnt   : Bank
  lcus     : Tab Lcu
  /-- Context images written (R443). -/
  images   : List Image
  mgmt     : Mgmt
  boot     : Boot
  /-- What the device last answered to a host read or an SPDM or TDISP request (R507 to R509), and the ATS invalidation
  requests that wait for accesses to drain, as (VDID, context, first address, bytes) (R454). -/
  answer   : List Byte
  atsWait  : List (Nat × Nat × Nat × Nat)
  /-- The host pages whose translation the host's IOMMU fails (R450). -/
  atsBad   : List Nat
  /-- The MSI-X tables of the functions (R506), by function × 128 + eight-byte word. -/
  msix     : Tab (BitVec 64)
  /-- The pending bits of each function's MSI-X vectors, and the binary logarithm of each virtual function's BAR4 (R505, R506). -/
  pba      : Tab (BitVec 64)
  bar4     : Tab Nat
  deriving DecidableEq, Repr

/-! ## Reset -/

/-- A port as it is at reset: up, nothing counted. -/
def Port.init : Port := ⟨true, 0, 0, ⟨[], []⟩, 0, 0, 0, 0, 0, [], [], 0⟩

/-- The management registers at reset (R460). -/
def Mgmt.init : Mgmt := ⟨0, 0, 0, 0, 0, 0, [], []⟩

/-- The start state: the device of this model has completed a first cold start with every part working, and its record
stands in copy A (R511 to R514); PLIMIT is 3,000 W. -/
def Boot.init : Boot where
  copyA := 0xde9020e200000001000000000000000000010000111111111111000000000001
  copyB := 0
  up := true
  recovery := false
  steps := 0x111111111111
  rcd := 0xde9020e200000001000000000000000000010000111111111111000000000001
  clpop := 0xFFFFF
  stk := 0xFF
  ismv := 0xFF
  ports := 0xFFFF
  lp := true
  session := none
  ide := []
  plimit := 3000
  pnow := 0
  penergy := 0
  temp := 0
  throttle := false
  hot := false
  atOne := false
  flr := none

/-- The device right after reset: no virtual device, no work, every table empty, every frame pending-zero. -/
def State.reset : State where
  cur := none
  clock := 0
  free := 0
  turn := 0
  nextId := 0
  agenda := []
  devid := 0
  waves := []
  wgs := []
  launches := []
  sps := []
  cores := []
  engines := []
  ismvq := []
  mem := []
  host := []
  peer := []
  scratch := []
  fe := []
  acc := []
  accInt := []
  llc := []
  l1 := []
  icache := []
  tlb := []
  bounce := []
  leaving := []
  vds := []
  ctxs := []
  queues := []
  fot := []
  sweep := []
  holdoff := []
  keys := []
  remap := []
  msi := []
  fgs := []
  cgs := []
  kvops := []
  kvcopies := []
  reqs := []
  out := []
  wire := []
  unsent := []
  cwait := []
  cout := []
  iacks := []
  ballots := []
  halo := []
  dir := []
  ports := []
  slots := []
  allow := []
  pool := 0
  phase := 0
  gangTag := 0
  setOwner := []
  llcCnt := ⟨[], []⟩
  hbmCnt := ⟨[], []⟩
  lcus := []
  images := []
  mgmt := Mgmt.init
  boot := Boot.init
  answer := []
  atsWait := []
  atsBad := []
  msix := []
  pba := []
  bar4 := []

end Sys2Proof.Machine
end

