-- ==== Sys2Proof/Machine/Operands.lean ====
section
/-! DEFINITION. Operands.lean: registers, predicates and latches of a wave, the lanes of its instruction, and the value
that each operand code delivers (R28, R48, R73 to R80, R88 to R90). -/

namespace Sys2Proof.Machine

open Sys2Proof

/-! ## Lanes (R30, R48, R52) -/

/-- The PC of a lane. -/
def Wave.pcOf (w : Wave) (l : Nat) : BitVec 64 := Tab.getD w.pc l 0
/-- The lanes that have not exited. -/
def Wave.alive (w : Wave) : Mask := ~~~w.exited
/-- The lanes that are neither parked nor exited. -/
def Wave.runnable (w : Wave) : Mask := ~~~(w.exited ||| w.parked)
/-- The park reason of a lane (R51), a number of four bits (R436); 0 when it is not parked. -/
def Wave.reasonOf (w : Wave) (l : Nat) : Nat := if w.parked.has l then Tab.getD w.reason l 0 % 16 else 0
/-- Some thread is parked for a reason other than 6 (R52). -/
def Wave.blocked (w : Wave) : Bool := w.parked.lanes.any (fun l => Tab.getD w.reason l 0 != 6)
/-- Whether the lanes of a mask stand at one PC. -/
def Wave.onePc (w : Wave) (m : Mask) : Bool :=
  match m.lanes with
  | [] => true
  | a :: r => r.all (fun l => w.pcOf l == w.pcOf a)
/-- The lanes that take part in the minimum-PC choice (R48): holding lanes do so again once no thread is parked for a
reason other than 6, waiting lanes once every thread that has not exited stands with them. -/
def Wave.selectable (w : Wave) : Mask :=
  let m := w.runnable
  let m := if w.blocked then m &&& ~~~w.held else m
  if w.onePc w.alive && w.parked == 0 then m else m &&& ~~~w.waiting
/-- The lowest of the PCs of the lanes of a mask. -/
def Wave.minPc (w : Wave) (m : Mask) : Option (BitVec 64) :=
  m.lanes.foldl (fun b l =>
    match b with
    | none => some (w.pcOf l)
    | some p => if (w.pcOf l).toNat < p.toNat then some (w.pcOf l) else some p) none
/-- The issue PC (R48): the lowest PC, or the group that a fairness event chose (R59). -/
def Wave.issuePc (w : Wave) : Option (BitVec 64) :=
  let m := w.selectable
  match w.pick with
  | some p => if m.lanes.any (fun l => w.pcOf l == p) then some p else w.minPc m
  | none => w.minPc m
/-- The lanes of a mask that stand at a PC. -/
def Wave.atPc (w : Wave) (m : Mask) (p : BitVec 64) : Mask := Mask.ofFn (fun l => m.has l && w.pcOf l == p)
/-- `active()`: the lanes that stand at the issue PC (R48). -/
def Wave.active (w : Wave) : Mask :=
  match w.issuePc with
  | some p => w.atPc w.selectable p
  | none => 0

/-- The lanes of a mask moved to a PC; they hold and wait no more. -/
def Wave.goto (w : Wave) (m : Mask) (p : BitVec 64) : Wave :=
  { w with
    pc := m.lanes.foldl (fun t l => Tab.put t l p) w.pc
    held := w.held &&& ~~~m
    waiting := w.waiting &&& ~~~m }

/-! ## Registers (R29, R73) -/

/-- Register v n of lane l. -/
def Wave.getV (w : Wave) (n l : Nat) : Word := Tab.getD w.v (32 * n + l) 0
/-- Register s n. -/
def Wave.getS (w : Wave) (n : Nat) : Word := Tab.getD w.s n 0
/-- Predicate p n as a mask; p7 reads as 1 in every lane (R73). -/
def Wave.getP (w : Wave) (n : Nat) : Mask := if n = 7 then 0xFFFFFFFF else Tab.getD w.p n 0
/-- Register v n of lane l set. -/
def Wave.setV (w : Wave) (n l : Nat) (x : Word) : Wave := { w with v := Tab.set 0 w.v (32 * n + l) x }
/-- Register s n set. -/
def Wave.setS (w : Wave) (n : Nat) (x : Word) : Wave := { w with s := Tab.set 0 w.s n x }
/-- Predicate p n set; a write of p7 is discarded (R74). -/
def Wave.setP (w : Wave) (n : Nat) (m : Mask) : Wave :=
  if n = 7 then w else { w with p := Tab.set 0 w.p n m }
/-- The pair at v n (R80): the even register holds bits [31:0]. -/
def Wave.getVw (w : Wave) (n l : Nat) : DWord := w.getV (n + 1) l ++ w.getV n l
/-- The pair at s n. -/
def Wave.getSw (w : Wave) (n : Nat) : DWord := w.getS (n + 1) ++ w.getS n
/-- The pair at v n set. -/
def Wave.setVw (w : Wave) (n l : Nat) (x : DWord) : Wave :=
  (w.setV n l (slice x 0 32)).setV (n + 1) l (slice x 32 32)
/-- The pair at s n set. -/
def Wave.setSw (w : Wave) (n : Nat) (x : DWord) : Wave := (w.setS n (slice x 0 32)).setS (n + 1) (slice x 32 32)

/-- A vector destination set in one lane, as a register or as a pair. -/
def Wave.putV (w : Wave) (n l : Nat) (wide : Bool) (x : DWord) : Wave :=
  if wide then w.setVw n l x else w.setV n l (slice x 0 32)
/-- A scalar destination set, as a register or as a pair. -/
def Wave.putS (w : Wave) (n : Nat) (wide : Bool) (x : DWord) : Wave :=
  if wide then w.setSw n x else w.setS n (slice x 0 32)

/-- The guard in a lane (R73). -/
def Wave.guardAt (w : Wave) (g : Guard) (l : Nat) : Bool := (w.getP g.pred.toNat).has l != g.neg
/-- The participating lanes (R104): the lanes of `active()` whose guard is 1. -/
def Wave.part (w : Wave) (g : Guard) (act : Mask) : Mask := Mask.ofFn (fun l => act.has l && w.guardAt g l)
/-- Guard 0b1111, which never executes (R73). -/
def neverGuard (g : Guard) : Bool := g.neg && g.pred == 7

/-! ## Latches (R80, R88, R90) -/

/-- Latch position i. -/
def Wave.latch (w : Wave) (i : Nat) : Latch := w.latches.getD i Latch.clear
/-- The register of a latch tag, as the latch delivers it. -/
def Wave.tagReg (w : Wave) (t : LatchTag) (l : Nat) : DWord :=
  let n := t.code.toNat
  if n < 64 then if t.wide then w.getVw n l else (w.getV n l).setWidth 64
  else if t.wide then w.getSw (n - 64) else (w.getS (n - 64)).setWidth 64
/-- The value of latch b i in a lane; none where the read raises LATCH (R90). -/
def Wave.latchVal (w : Wave) (i l : Nat) : Option DWord :=
  let b := w.latch i
  if b.valid then some (Tab.getD b.val l 0)
  else match b.tag with
    | none => some 0
    | some t => if t.nwb then none else some (w.tagReg t l)
/-- Whether the latch holds 64 bits of a wide result, or a cleared position (zero). -/
def Wave.latchWide (w : Wave) (i : Nat) : Bool :=
  let b := w.latch i
  match b.tag with
  | some t => t.wide
  | none => true
/-- Every latch value invalid; tags stay (R90). -/
def Wave.dropLatches (w : Wave) : Wave := { w with latches := w.latches.map (fun b => { b with valid := false }) }
/-- The latches shifted, with a new b0 (R88). -/
def Wave.shiftLatches (w : Wave) (b0 : Latch) : Wave :=
  { w with latches := [b0, w.latch 0, w.latch 1, w.latch 2] }

/-! ## The value of a source operand (R75 to R78) -/

/-- The binary32 patterns of the floating inline constants (R76). -/
def fconstBits : List Word :=
  [0x00000000, 0x3F000000, 0x3F800000, 0x40000000, 0x40800000, 0xBF000000, 0xBF800000, 0xC0000000,
   0xC0800000, 0x3E22F983, 0x3F317218, 0x3FB8AA3B, 0x40490FDB, 0x3E800000, 0x41000000, 0xC1000000]

/-- How an operand reads its field (R77): 32 bits, a wide pair, packed elements of a 16-bit format, or one such
element. -/
inductive Width where
  | w32 | w64
  | packed (f : Fmt16)
  | elem (f : Fmt16)
  deriving DecidableEq, Repr

/-- A floating inline constant in a 16-bit format. -/
def fconst16 (f : Fmt16) (x : Word) : Nat := ((fmt16 f).round .rne false 0 (Fmt.f32.val x.toNat)).1

/-- The value that a constant delivers. DESIGN CHOICE (log entry 106): a literal read as the pair of binary32 values of a pack
instruction is sign-extended, as a wide integer operand is. -/
def constVal (x : Src) (k : Width) : DWord :=
  match x with
  | .iconst n =>
    let i : Int := (n.toNat : Int) - 32
    match k with
    | .w64 => BitVec.ofInt 64 i
    | _ => (BitVec.ofInt 32 i).setWidth 64
  | .fconst n =>
    let p := fconstBits.getD n.toNat 0
    match k with
    | .packed f => BitVec.ofNat 64 (fconst16 f p * 65537)
    | .elem f => BitVec.ofNat 64 (fconst16 f p)
    | _ => p.setWidth 64
  | .lit x =>
    match k with
    | .w64 => x.signExtend 64
    | _ => x.setWidth 64
  | _ => 0

/-- What the instruction in progress reads operands with: the wave, `active()`, whether it is a scalar form, and the
fresh values that stand for the high half of a narrow latch read as a pair. -/
structure Rd where
  w      : Wave
  act    : Mask
  scalar : Bool
  fresh  : Nat → DWord

/-- The lane from which a scalar form reads a latch: the lowest of `active()` (R78). -/
def Rd.lane (r : Rd) (l : Nat) : Nat := if r.scalar then r.act.lowest.getD 0 else l

/-- The value of a source operand in lane l (R75 to R80). -/
def Rd.val (r : Rd) (x : Src) (k : Width) (l : Nat) : DWord :=
  match x with
  | .v n => if k = .w64 then r.w.getVw n.toNat l else (r.w.getV n.toNat l).setWidth 64
  | .s n => if k = .w64 then r.w.getSw n.toNat else (r.w.getS n.toNat).setWidth 64
  | .b i =>
    let d := (r.w.latchVal i.toNat (r.lane l)).getD 0
    if k = .w64 then
      if r.w.latchWide i.toNat then d else slice (r.fresh (4 * l + i.toNat)) 32 32 ++ slice d 0 32
    else (slice d 0 32).setWidth 64
  | x => constVal x k

/-- The 32-bit value of a source operand. -/
def Rd.w32 (r : Rd) (x : Src) (l : Nat) : Word := slice (r.val x .w32 l) 0 32

/-- Whether reading a source raises LATCH (R71, check 8; R90). -/
def Rd.latchTrap (r : Rd) (x : Src) : Bool :=
  match x with
  | .b i => (r.w.latchVal i.toNat 0).isNone
  | _ => false

/-- Bytes from the start of an instruction to the next, by whether an operand is the literal (R69, R82). -/
def instrLen (l : List Src) : Nat := if l.any Src.isLit then 16 else 8

end Sys2Proof.Machine
end

