-- ==== Sys2Proof/Machine/Flags.lean ====
section
/-! DEFINITION. Flags.lean: what a floating operation yields in one lane: its result bits, the sticky flags that it sets
and the generator state that it leaves (R144 to R151, R161, R166 to R173). -/

namespace Sys2Proof.Machine

open Sys2Proof

/-- The result of an operation in one lane: the value, the flags that it sets and the generator state after it. -/
structure LaneOut where
  val   : DWord
  flags : BitVec 7
  seed  : Word
  deriving DecidableEq, Repr

/-- The rounding of an instruction: its mode, `.sat`, and whether it flushes (R166, R168). -/
structure FEnv where
  mode  : RMode
  sat   : Bool
  flush : Bool
  deriving DecidableEq, Repr

/-- The rounding mode codes of R144. -/
def rmodeList : List RMode := [.rne, .rz, .ru, .rd, .rna, .sr]
/-- The rounding mode of `%rmode` (R148). -/
def Wave.rm (w : Wave) : RMode := rmodeList.getD (slice w.rmode 0 3).toNat .rne
/-- `%rmode`.FTZ (R148). -/
def Wave.ftz (w : Wave) : Bool := w.rmode.getLsbD 3
/-- The rounding of an instruction with the modifiers of CF. -/
def fenv (m : FMod) (w : Wave) : FEnv := ⟨m.rm.getD w.rm, m.sat, m.ftz || w.ftz⟩

/-- The draw of a rounding: under SR the generator advances, exact or not (R151, R169). -/
def drawFor (mode : RMode) (seed : Word) : Nat × Word :=
  if mode = .sr then (drawOf (nextSeed seed), nextSeed seed) else (0, seed)

/-! ## Inputs (R166, R168) -/

/-- The bits of a source after its modifiers and the input flush. -/
def modBits (f : Fmt) (flush : Bool) (m : SMod) (bits : Nat) : Nat :=
  let b := bits % 2 ^ (f.mag + 1)
  let b := if m.abs then b % 2 ^ f.mag else b
  let b := if m.neg then (if b / 2 ^ f.mag = 1 then b - 2 ^ f.mag else b + 2 ^ f.mag) else b
  if flush && f.isSub b then b / 2 ^ f.mag * 2 ^ f.mag else b

/-- No modifier. -/
def noMod : SMod := ⟨false, false⟩

/-! ## Results -/

/-- One exact value, with the flags of its operation, rounded once (R168, R171). -/
def finish (f : Fmt) (e : FEnv) (seed : Word) (r : Num × BitVec 7) : LaneOut :=
  let d := drawFor e.mode seed
  match r.1 with
  | .fin n m x =>
    if e.flush && m != 0 && decide (log2Floor m x < f.emin) then
      ⟨BitVec.ofNat 64 (f.zeroCode n), r.2 ||| flagUF, d.2⟩
    else
      let c := f.round e.mode e.sat d.1 r.1
      ⟨BitVec.ofNat 64 c.1, r.2 ||| c.2, d.2⟩
  | v =>
    let c := f.round e.mode e.sat d.1 v
    ⟨BitVec.ofNat 64 c.1, r.2 ||| c.2, d.2⟩

/-- A + B with the invalid flag of R167. -/
def addNum (rd : Bool) (a b : Num) : Num × BitVec 7 :=
  let r := Num.sum [a, b] rd
  (r.1, if r.2 then flagNV else 0)

/-- A × B: 0 × ∞ is invalid. -/
def mulNum (a b : Num) : Num × BitVec 7 :=
  let r := a.mul b
  (r, if r.isNan && !a.isNan && !b.isNan then flagNV else 0)

/-- A × B + C: 0 × ∞ is invalid even when C is a NaN (R171). -/
def fmaNum (rd : Bool) (a b c : Num) : Num × BitVec 7 :=
  let p := mulNum a b
  let r := Num.sum [p.1, c] rd
  (r.1, p.2 ||| (if r.2 then flagNV else 0))

/-- A / B (R167, R171). -/
def divNum (a b : Num) : Num × BitVec 7 :=
  let s := a.neg != b.neg
  match a, b with
  | .nan, _ | _, .nan => (.nan, 0)
  | .inf _, .inf _ => (.nan, flagNV)
  | .inf _, _ => (.inf s, 0)
  | .fin _ _ _, .inf _ => (.zero s, 0)
  | .fin _ m e, .fin _ k f =>
    if k = 0 then if m = 0 then (.nan, flagNV) else (.inf s, flagDZ)
    else if m = 0 then (.zero s, 0)
    else let q := quotient m e k f; (.fin s q.1 q.2, 0)

/-- √A: negative values are invalid (R176). -/
def sqrtNum (a : Num) : Num × BitVec 7 :=
  match a with
  | .nan => (.nan, 0)
  | .inf n => if n then (.nan, flagNV) else (.inf false, 0)
  | .fin n m e =>
    if m = 0 then (.zero n, 0)
    else if n then (.nan, flagNV)
    else let q := sqrtParts m e; (.fin false q.1 q.2, 0)

/-- FMIN and FMAX on bits (R172): −0 below +0, a NaN gives way to a number. -/
def minMaxBits (f : Fmt) (max : Bool) (a b : Nat) : Nat :=
  let x := f.val a
  let y := f.val b
  if x.isNan && y.isNan then f.nan
  else if x.isNan then b
  else if y.isNan then a
  else
    let c := x.cmp y
    let lt := c < 0 || (c == 0 && x.neg && !y.neg)
    if lt != max then a else b

/-- A relation of FCMP (R173). -/
def fcmpRel (c : FCmp) (x y : Num) : Bool :=
  if x.isNan || y.isNan then c == .ne || c == .un
  else
    let d := x.cmp y
    match c with
    | .eq => d == 0
    | .ne => d != 0
    | .lt => d < 0
    | .le => d ≤ 0
    | .gt => d > 0
    | .ge => d ≥ 0
    | .un => false
    | .ord => true

/-- The class of binary32 bits (R174). -/
def fclassBits (b : Nat) : Nat :=
  let n := b / 2 ^ 31 % 2 == 1
  let m := b % 2 ^ 31
  if m > 0x7F800000 then 0x100
  else if m = 0x7F800000 then if n then 1 else 0x80
  else if m = 0 then if n then 8 else 0x10
  else if m < 0x800000 then if n then 4 else 0x20
  else if n then 2 else 0x40

/-- FRND (R175): no flag is set. -/
def frndBits (mode : RMode) (seed : Word) (b : Nat) : LaneOut :=
  let d := drawFor mode seed
  match Fmt.f32.val b with
  | .nan => ⟨BitVec.ofNat 64 Fmt.f32.nan, 0, d.2⟩
  | .inf _ => ⟨BitVec.ofNat 64 b, 0, d.2⟩
  | .fin n m e =>
    if m = 0 || decide (log2Floor m e ≥ 23) then ⟨BitVec.ofNat 64 b, 0, d.2⟩
    else ⟨BitVec.ofNat 64 (Fmt.f32.round .rne false 0 (.fin n (roundAt mode n d.1 m e 0).1 0)).1, 0, d.2⟩

/-! ## Sums of products (R178) -/

/-- The exact sum of products and of an addend, with the NaN and infinity rules of HDOT2. -/
def dotNum (rd : Bool) (l : List (Num × Num)) (c : Num) : Num × BitVec 7 :=
  let ps := l.map (fun t => mulNum t.1 t.2)
  let r := Num.sum (ps.map Prod.fst ++ [c]) rd
  (r.1, ps.foldl (fun f p => f ||| p.2) (if r.2 then flagNV else 0))

/-! ## Sticky flags of a wave (R161) -/

/-- The flags of a lane. -/
def Wave.flagsOf (w : Wave) (l : Nat) : BitVec 7 := Tab.getD w.flags l 0
/-- Flags set in a lane; an instruction never clears one. -/
def Wave.addFlags (w : Wave) (l : Nat) (f : BitVec 7) : Wave :=
  { w with flags := Tab.set 0 w.flags l (w.flagsOf l ||| f) }
/-- The generator state of a lane; a lane that is not listed holds the state of wave start (R150). -/
def Wave.seedOf (w : Wave) (l : Nat) : Word := Tab.getD w.seed l (laneSeed 0 l)
/-- A generator state set. -/
def Wave.setSeed (w : Wave) (l : Nat) (z : Word) : Wave :=
  { w with seed := if z = laneSeed 0 l then Tab.del w.seed l else Tab.put w.seed l z }
/-- The participating lanes whose flags are enabled in `%trapen` (R163). -/
def Wave.arith (w : Wave) (m : Mask) : Mask :=
  Mask.ofFn (fun l => m.has l && (w.flagsOf l &&& slice w.trapen 0 7) != 0)

end Sys2Proof.Machine
end

