-- ==== Sys2Proof/Machine/Ops.lean ====
section
/-! DEFINITION. Ops.lean: the named operations over the machine's state: memory, translation and its faults, the
scratchpad, interrupts, discarding work, taking a trap and returning from one, and the frame that every instruction of a
wave shares. -/

namespace Sys2Proof.Machine

open Sys2Proof

/-- What a meaning answers. -/
abbrev Res := Host.Outcome State Fault Refusal

/-! ## Places (R9, R10, R28) -/

/-- The sub-partition of a wave. -/
def spOf (k : Nat) : Nat := k / 16
/-- The core of a wave. -/
def coreOf (k : Nat) : Nat := k / 64
/-- The die of a core. -/
def dieOf (core : Nat) : Nat := core / 80
/-- The cluster of a core. -/
def clusterOf (core : Nat) : Nat := core / 8

/-! ## Deficit rounds (R54, R471) -/

/-- The deficit rounds that begin while none of some contexts has a positive deficit, from their deficits and quanta. -/
def roundsUntil (l : List (Int × Int)) : Nat :=
  if l.any (fun e => decide (0 < e.1)) then 0
  else match l.map (fun e => (-e.1 / e.2).toNat + 1) with
    | [] => 0
    | n :: r => r.foldl Nat.min n

/-- A deficit after n rounds: in each it rises by its quantum, and up to it. -/
def afterRounds (n : Nat) (d quantum : Int) : Int := if n = 0 then d else min (d + n * quantum) quantum

/-! ## Tables of the state -/

/-- A wave set. -/
def State.setWave (s : State) (k : Nat) (w : Wave) : State := { s with waves := Tab.put s.waves k w }
/-- A wave changed. -/
def State.modWave (s : State) (k : Nat) (f : Wave → Wave) : State := { s with waves := Tab.modify s.waves k f }
/-- A workgroup changed. -/
def State.modWg (s : State) (g : Nat) (f : Workgroup → Workgroup) : State := { s with wgs := Tab.modify s.wgs g f }
/-- A launch changed. -/
def State.modLaunch (s : State) (l : Nat) (f : Launch → Launch) : State :=
  { s with launches := Tab.modify s.launches l f }
/-- A virtual device changed. -/
def State.modVd (s : State) (vd : Nat) (f : VDev → VDev) : State := { s with vds := Tab.modify s.vds vd f }
/-- The key of a context. -/
def ctxKey (vd ctx : Nat) : Nat := vd * 64 + ctx
/-- The key of a launch queue. -/
def queueKey (vd ctx q : Nat) : Nat := (vd * 64 + ctx) * 64 + q
/-- A context. -/
def State.ctx? (s : State) (vd ctx : Nat) : Option Context := Tab.get? s.ctxs (ctxKey vd ctx)
/-- A context changed. -/
def State.modCtx (s : State) (vd ctx : Nat) (f : Context → Context) : State :=
  { s with ctxs := Tab.modify s.ctxs (ctxKey vd ctx) f }
/-- A counter bank with nothing counted. -/
def Bank.zero : Bank := ⟨[], []⟩
/-- A sub-partition that nothing holds. -/
def SubPart.free : SubPart := ⟨0, 0, none, 0, none, [], 0, none, Bank.zero, Pipe.idle⟩
/-- A sub-partition. -/
def State.sp (s : State) (n : Nat) : SubPart := Tab.getD s.sps n SubPart.free
/-- A sub-partition changed. -/
def State.modSp (s : State) (n : Nat) (f : SubPart → SubPart) : State :=
  { s with sps := Tab.put s.sps n (f (s.sp n)) }
/-- A core with nothing bound. -/
def CoreSt.free : CoreSt := ⟨0, 0, [], none, [], false, Bank.zero⟩
/-- A core. -/
def State.core (s : State) (c : Nat) : CoreSt := Tab.getD s.cores c CoreSt.free
/-- A core changed. -/
def State.modCore (s : State) (c : Nat) (f : CoreSt → CoreSt) : State :=
  { s with cores := Tab.put s.cores c (f (s.core c)) }
/-- The number of an engine: 16 numbers to a core, those of the ISMV of each stack among them. -/
def Engine.key : Engine → Nat
  | .copy c k => 16 * c + k
  | .half c h => 16 * c + 4 + h
  | .attn c => 16 * c + 8
  | .rot c => 16 * c + 9
  | .ismv st => 16 * st + 10
/-- An engine that runs nothing. -/
def EngineSt.idle : EngineSt := ⟨[], none, none, 0⟩
/-- An engine. -/
def State.engine (s : State) (e : Engine) : EngineSt := Tab.getD s.engines (Engine.key e) EngineSt.idle
/-- An engine set. -/
def State.setEngine (s : State) (e : Engine) (x : EngineSt) : State :=
  { s with engines := Tab.set EngineSt.idle s.engines (Engine.key e) x }
/-- A fresh value that the manual leaves open; every step counts `free` up. -/
def State.fresh (s : State) (i : Nat) : DWord := Config.freeWord (256 * s.free + i)
/-- The workgroup of a wave. -/
def State.wgOf (s : State) (w : Wave) : Option Workgroup := Tab.get? s.wgs w.wg

/-- The run of a wave ends: its latch values become invalid (R56, R90). The run of another wave goes on. -/
def State.endRun (s : State) (k : Nat) : State :=
  let s := s.modWave k Wave.dropLatches
  s.modSp (spOf k) (fun p => { p with run := p.run.filter (fun r => r.wave != k) })

/-! ## Memory by bytes (R5) -/

/-- A byte of a memory; an unlisted address reads as zero. -/
def cellGet (m : List Host.Cell) (a : Nat) : Byte := Tab.getD m a 0
/-- A byte written; the canonical form is kept. -/
def cellSet (m : List Host.Cell) (a : Nat) (b : Byte) : List Host.Cell := Tab.set 0 m a b
/-- Consecutive bytes read. -/
def cellsGet (m : List Host.Cell) (a : Nat) : Nat → List Byte
  | 0 => []
  | n + 1 => cellGet m a :: cellsGet m (a + 1) n
/-- Consecutive bytes written. -/
def cellsSet (m : List Host.Cell) (a : Nat) : List Byte → List Host.Cell
  | [] => m
  | b :: r => cellsSet (cellSet m a b) (a + 1) r
/-- The canonical form of a memory: addresses strictly rising, no zero byte listed. -/
abbrev Memory.wf (m : List Host.Cell) : Prop := Tab.wf (0 : Byte) m = true

/-- A 64-bit value from a memory. -/
def cells64 (m : List Host.Cell) (a : Nat) : Nat := leNat (cellsGet m a 8)

/-! ## Frames of device memory (R206, R474 to R476) -/

/-- The FOT entry of a frame: pending-zero and unowned at reset. -/
def State.fotOf (s : State) (f : Nat) : BitVec 32 := Tab.getD s.fot f 0x80000000
/-- A FOT entry set. -/
def State.setFot (s : State) (f : Nat) (e : BitVec 32) : State := { s with fot := Tab.set 0x80000000 s.fot f e }
/-- The owner of a frame. -/
def fotOwner (e : BitVec 32) : Nat := (slice e 0 9).toNat
/-- Whether a page of a frame is pending-zero and not yet filled. -/
def fotPending (e : BitVec 32) (page : Nat) : Bool := e.getLsbD 31 && !e.getLsbD (10 + page)
/-- Whether the page of a machine address is pending-zero and not yet filled. -/
def State.pendingAt (s : State) (ma : Nat) : Bool := fotPending (s.fotOf (ma / 65536)) (ma / 4096 % 16)
/-- A byte of device memory as an access reads it (R476). -/
def State.devByte (s : State) (ma : Nat) : Byte := if s.pendingAt ma then 0 else cellGet s.mem ma
/-- The first write to a pending-zero page fills it with zeros (R476). -/
def State.zeroFill (s : State) (ma : Nat) : State :=
  if s.pendingAt ma then
    let p := ma / 4096
    let e := s.fotOf (ma / 65536)
    State.setFot { s with mem := s.mem.filter (fun c => c.1 / 4096 != p) } (ma / 65536)
      (e ||| (1#32 <<< (10 + p % 16)))
  else s

/-! ## Interrupts (R483) -/

/-- The words of an MSI-X table at reset: every vector masked in its vector control (PRESUMED, the PCI Express layout and its reset
values; log entry 65). -/
def msixReset (k : Nat) : DWord := if k % 2 = 1 then 0x100000000 else 0
/-- Word i of the MSI-X table of a function: two words for each vector. -/
def State.msixWord (s : State) (fn i : Nat) : DWord := Tab.getD s.msix (fn * 128 + i) (msixReset i)
/-- Whether a vector of a function is masked in its table. -/
def State.msixMasked (s : State) (fn vec : Nat) : Bool := (s.msixWord fn (2 * vec + 1)).getLsbD 32
/-- The pending bits of a function. -/
def State.pbaOf (s : State) (fn : Nat) : BitVec 64 := Tab.getD s.pba fn 0

/-- A message of a vector: it leaves, or where the function's table masks the vector its pending bit is set (R505, R506). -/
def State.sendMsi (s : State) (fn vec : Nat) : State :=
  if s.msixMasked fn vec then { s with pba := Tab.set 0 s.pba fn (s.pbaOf fn ||| (1#64 <<< vec)) }
  else { s with msi := s.msi ++ [(fn, vec)] }

/-- A word of an MSI-X table written: a pending message leaves where its vector is masked no longer. -/
def State.msixWrite (s : State) (fn i : Nat) (val : DWord) : State :=
  let s := { s with msix := Tab.set (msixReset i) s.msix (fn * 128 + i) val }
  if i % 2 = 1 ∧ val.getLsbD 32 = false ∧ (s.pbaOf fn).getLsbD (i / 2) = true then
    { s with pba := Tab.set 0 s.pba fn (s.pbaOf fn &&& ~~~(1#64 <<< (i / 2))), msi := s.msi ++ [(fn, i / 2)] }
  else s

/-- What a message met: sent, merged, without a mapping. -/
inductive IrqOut where
  | sent | merged | unmapped
  deriving DecidableEq, Repr

/-- A message of class `cls`, index `idx` of a virtual device through the remap table (R442, R483). -/
def State.irqOut (s : State) (vd cls idx : Nat) : IrqOut × State :=
  let k := (vd * 8 + cls) * 64 + idx
  let e := Tab.getD s.remap k (0 : BitVec 32)
  if !e.getLsbD 31 then (.unmapped, s.modVd vd (fun v => { v with drops := v.drops + 1 }))
  else if e.getLsbD 29 then (.merged, s)
  else if e.getLsbD 30 then (.sent, { s with remap := Tab.put s.remap k (e ||| 0x20000000) })
  else (.sent, s.sendMsi (slice e 6 10).toNat (slice e 0 6).toNat)
/-- The same, where nothing reads the outcome. -/
def State.irq (s : State) (vd cls idx : Nat) : State := (s.irqOut vd cls idx).2

/-! ## Event counters (R489 to R495) -/

/-- The events of code `ev` counted in the counters `base` to `base + n − 1` of a bank: the bank after, and the counters
that wrapped with their OVI bits (R491, R493). -/
def Bank.count (b : Bank) (base n ev k : Nat) : Bank × List (Nat × Bool) :=
  (List.range n).foldl (fun (r : Bank × List (Nat × Bool)) i =>
    let c : BitVec 32 := Tab.getD r.1.ctl (base + i) 0
    if c.getLsbD 31 && (slice c 0 8).toNat == ev then
      let x := (Tab.getD r.1.val (base + i) (0 : BitVec 48)).toNat + k
      ({ r.1 with val := Tab.set 0 r.1.val (base + i) (BitVec.ofNat 48 x) },
        if x ≥ 2 ^ 48 then r.2 ++ [(i, c.getLsbD 30)] else r.2)
    else r) (b, [])

/-- A counter overflowed: its bit in `%pmovf`, and class COUNTER where its control asks (R493). -/
def State.overflow (s : State) (vd idx : Nat) (ovi : Bool) : State :=
  let s := s.modVd vd (fun v => { v with pmovf := v.pmovf ||| (1#32 <<< idx) })
  if ovi then s.irq vd 3 idx else s

/-- The overflows of a bank whose indices start at `off`. -/
def State.overflows (s : State) (vd off : Nat) (l : List (Nat × Bool)) : State :=
  l.foldl (fun s e => s.overflow vd (off + e.1) e.2) s

/-- Events of a sub-partition. -/
def State.countSp (s : State) (n ev k : Nat) : State :=
  let r := (s.sp n).bank.count 0 8 ev k
  if r.1 = (s.sp n).bank then s else (s.modSp n (fun p => { p with bank := r.1 })).overflows (s.sp n).holder 0 r.2

/-- Events of a core that are attributable to a virtual device. -/
def State.countCore (s : State) (c vd ev k : Nat) : State :=
  let h := (s.sp (4 * c)).holder
  let r := (s.core c).bank.count 0 8 ev k
  if h != vd || r.1 = (s.core c).bank then s else (s.modCore c (fun p => { p with bank := r.1 })).overflows h 8 r.2

/-- The counter set of a virtual device. -/
def State.setOf (s : State) (vd : Nat) : Option Nat := (Tab.get? s.vds vd).bind VDev.pmset

/-- Events at a slice on lines of a virtual device. -/
def State.countLlc (s : State) (vd slice ev k : Nat) : State :=
  match s.setOf vd with
  | none => s
  | some t =>
    let r := s.llcCnt.count ((t * 192 + slice) * 8) 8 ev k
    State.overflows { s with llcCnt := r.1 } vd 16 r.2

/-- Requests of a virtual device at the stack of a machine address. -/
def State.countHbm (s : State) (vd ma ev k : Nat) : State :=
  match s.setOf vd with
  | none => s
  | some t =>
    if ma ≥ 2 ^ 39 then s
    else
      let r := s.hbmCnt.count ((t * 8 + ma / 2 ^ 36) * 4) 4 ev k
      State.overflows { s with hbmCnt := r.1 } vd 24 r.2

/-- Events of a port; every virtual device that holds a grant for it is a holder (R493). -/
def State.countPort (s : State) (n ev k : Nat) : State :=
  match Tab.get? s.ports n with
  | none => s
  | some p =>
    let r := p.bank.count 0 4 ev k
    let s := { s with ports := Tab.put s.ports n { p with bank := r.1 } }
    r.2.foldl (fun s e =>
      (s.vds.filter (fun v => v.2.ports.getLsbD n)).foldl (fun s v => s.overflow v.1 (28 + e.1) e.2) s) s

/-! ## Latency capture units (R497, R498) -/

/-- A latency capture unit that has captured nothing. -/
def Lcu.init : Lcu := ⟨0, 0xFFFFFFFF, 0, 0, 0, [], 0⟩

/-- One sample captured. -/
def Lcu.take (u : Lcu) (x : Nat) : Lcu :=
  let x := Nat.min x (2 ^ 32 - 1)
  let i := if x < 2 then 0 else Nat.min (Nat.log2 x) 15
  let n : BitVec 32 := Tab.getD u.bins i 0
  { u with
    min := BitVec.ofNat 32 (Nat.min u.min.toNat x)
    max := BitVec.ofNat 32 (Nat.max u.max.toNat x)
    count := u.count + 1
    sum := u.sum + BitVec.ofNat 64 x
    bins := Tab.put u.bins i (if n = 0xFFFFFFFF then n else n + 1) }

/-- A sample of a source for a virtual device at the unit of a core (its number), of a die (160 and 161) or of a port
(from 162): captured where the unit is enabled for the source and held by the virtual device. `tag` is the interval's tag
of a `MARK` sample. -/
def State.sample (s : State) (unit vd src x : Nat) (tag : BitVec 8) : State :=
  match Tab.get? s.lcus unit with
  | none => s
  | some u =>
    let owner := if unit < 160 then (s.sp (4 * unit)).holder else u.owner
    let mine := owner == vd || (unit ≥ 162 && src == 2)
    if u.ctl.getLsbD 31 && (slice u.ctl 0 4).toNat == src && mine &&
        (!(unit < 160 && src == 3 && u.ctl.getLsbD 29) || slice u.ctl 8 8 == tag) then
      { s with lcus := Tab.put s.lcus unit (u.take x) }
    else s

/-- A sample of a time that the manual does not fix (R24): a free number of cycles. -/
def State.sampleFree (s : State) (unit vd src i : Nat) : State := s.sample unit vd src (s.fresh i).toNat 0

/-- `%time` in nanoseconds of a count of cycles at 1.3 GHz (R3, R33). -/
def timeNs (clock : Nat) : Nat := clock * 10 / 13

/-! ## Dirty logging (R485, R486) -/

/-- The frames of a virtual device in increasing address. -/
def State.framesOf (s : State) (vd : Nat) : List Nat :=
  (s.fot.filter (fun e => fotOwner e.2 == vd)).map Prod.fst

/-- A performed write to a frame logs its page while DLOG is set; LOGOVF is set once the log is full (R485, R486). -/
def State.logWrite (s : State) (ma : Nat) : State :=
  let vd := fotOwner (s.fotOf (ma / 65536))
  match Tab.get? s.vds vd with
  | none => s
  | some v =>
    let page := ma / 4096
    if !v.dlog then s
    else if v.bmap then
      let j := (s.framesOf vd).idxOf (ma / 65536)
      let bit := 16 * j + page % 16
      let a := v.mlog + bit / 8
      { s with host := cellSet s.host a (cellGet s.host a ||| (1#8 <<< (bit % 8))) }
    else if v.recent.contains page || v.logovf then s
    else if (v.logtail - v.loghead).toNat ≥ 2 ^ v.mlogl then s.modVd vd (fun v => { v with logovf := true })
    else
      let a := v.mlog + 8 * (v.logtail.toNat % 2 ^ v.mlogl)
      let s := { s with host := cellsSet s.host a (leBytes (page * 4096 + 1) 8) }
      let n := (v.logtail + 1 - v.loghead).toNat
      let s := s.modVd vd (fun v => { v with
        logtail := v.logtail + 1, recent := (page :: v.recent).take 256, logovf := decide (n ≥ 2 ^ v.mlogl) })
      if n * 4 ≥ 3 * 2 ^ v.mlogl && (n - 1) * 4 < 3 * 2 ^ v.mlogl then s.irq vd 6 0 else s

/-! ## Places of global memory -/

/-- What a final translation leads to (R207): device memory, host memory, or the fabric. -/
inductive Space where
  | dev | host | fab
  deriving DecidableEq, Repr

/-- A byte place: its space and its machine, host or intermediate fabric address. -/
structure Loc where
  space : Space
  addr  : Nat
  deriving DecidableEq, Repr

/-- The number of a space. -/
def Space.code : Space → Nat
  | .dev => 1
  | .host => 2
  | .fab => 3

/-- The key of a line (R203). -/
def lineKey (sp : Space) (addr : Nat) : Nat := Space.code sp * 2 ^ 60 + addr / 64

/-- The home slice of an address (R205). -/
def homeSlice (a : Nat) : Nat :=
  let b := BitVec.ofNat 64 (a / 4096)
  let die := if (b.getLsbD 0 != b.getLsbD 12) != b.getLsbD 24 then 1 else 0
  96 * die + ((b >>> 1) ^^^ (b >>> 13) ^^^ (b >>> 25)).toNat % 96

/-- A byte of a place as an access on this device reads it. A peer line that is held here is read from its copy. -/
def State.readLoc (s : State) (l : Loc) : Byte :=
  match l.space with
  | .dev => s.devByte l.addr
  | .host => cellGet s.host l.addr
  | .fab => cellGet s.peer l.addr

/-- n bytes from a place. -/
def State.readBytes (s : State) (l : Loc) (n : Nat) : List Byte :=
  (List.range n).map (fun i => s.readLoc ⟨l.space, l.addr + i⟩)

/-- The highest priority among the handles of a context that cover an address, 3 if none does (R230). -/
def State.prioOf (s : State) (vd ctx va : Nat) : Nat :=
  match Tab.get? s.vds vd with
  | none => 3
  | some v =>
    let hs := v.handles.filter (fun h => h.2.ctx == ctx && h.2.base ≤ va && va < h.2.base + h.2.size)
    match hs with
    | [] => 3
    | h :: r => r.foldl (fun m x => max m x.2.prio) h.2.prio

/-- Whether a residency handle covers an address. -/
def State.covered (s : State) (vd ctx va : Nat) : Bool :=
  match Tab.get? s.vds vd with
  | none => false
  | some v => v.handles.any (fun h => h.2.ctx == ctx && h.2.base ≤ va && va < h.2.base + h.2.size)

/-- The line to give up in a full slice: the least recently used of the lowest priority (R230). The geometry of the sets
is not given; a slice is one set of 32,768 lines here. -/
def victim (t : Tab Line) : Option Nat :=
  match t with
  | [] => none
  | e :: r => some (r.foldl (fun (b : Nat × Line) x =>
      if x.2.prio < b.2.prio || (x.2.prio == b.2.prio && x.2.used < b.2.used) then x else b) e).1

/-- A dirty line that leaves the cache is written back: to this device's memory or the host's it already stands in the
memory lists; to a peer it goes as a WB, sent when its stream allows (R346). -/
def State.sendBack (s : State) (k : Nat) (ln : Line) : State :=
  let a := k % 2 ^ 60 * 64
  let s := s.countLlc ln.vd (homeSlice a) 0x43 1
  if k / 2 ^ 60 = 3 then
    { s with reqs := s.reqs ++ [⟨.evict ln.vd ln.ctx, 0, 0, 64, 2, BitVec.ofNat 192 (0x4000 + ln.wrote.toNat * 2 ^ 64),
      cellsGet s.peer a 64, a, ln.va, ln.vd, a / 2 ^ 56, false⟩] }
  else if k / 2 ^ 60 = 1 then s.countHbm ln.vd a 0x61 1
  else s

/-- The bytes of a peer line that is no longer held are gone. -/
def State.forgetPeer (s : State) (k : Nat) : State :=
  if k / 2 ^ 60 = 3 then { s with peer := s.peer.filter (fun c => c.1 / 64 != k % 2 ^ 60) } else s

/-- A line evicted: written back where it is dirty, and gone. -/
def State.evictLine (s : State) (k : Nat) : State :=
  match Tab.get? s.llc k with
  | none => s
  | some ln =>
    let s := s.countLlc ln.vd (homeSlice (k % 2 ^ 60 * 64)) 0x42 1
    let s := if ln.dirty then s.sendBack k ln else s
    (State.forgetPeer { s with llc := Tab.del s.llc k } k)

/-- A fill reads its line from the memory behind the cache, unless its page is pending-zero (R207, R476). -/
def State.countFill (s : State) (vd : Nat) (l : Loc) : State :=
  match l.space with
  | .dev => s.countHbm vd l.addr (if s.pendingAt l.addr then 0x63 else 0x60) 1
  | .fab => s.countLlc vd (homeSlice l.addr) 0x44 1
  | .host => s

/-- An access finds or fills its line in the last-level cache (R203, R221, R230). `low` fills at priority 0 where no
handle covers the address; DESIGN CHOICE (log entry 108): such an access that finds the line leaves its priority. A hit counts
for the owner of the line (R489). A store makes the line dirty, and the line then keeps what the memory behind it still
holds. -/
def State.touch (s : State) (vd ctx va : Nat) (l : Loc) (store low : Bool) : State :=
  let k := lineKey l.space l.addr
  let pr := if low && !s.covered vd ctx va then 0 else s.prioOf vd ctx va
  let old := (List.range 64).map (fun i => s.readLoc ⟨l.space, l.addr / 64 * 64 + i⟩)
  match Tab.get? s.llc k with
  | some ln =>
    let ln := { ln with
      prio := if low && !s.covered vd ctx va then ln.prio else pr, used := s.clock, dirty := ln.dirty || store
      stale := if store && !ln.dirty then old else ln.stale }
    State.countLlc { s with llc := Tab.put s.llc k ln } ln.vd (homeSlice l.addr) 0x40 1
  | none =>
    let sl := s.llc.filter (fun e => homeSlice (e.1 % 2 ^ 60 * 64) == homeSlice l.addr)
    let s := if sl.length < 32768 then s else
      match victim sl with
      | some v => s.evictLine v
      | none => s
    let s := (s.countLlc vd (homeSlice l.addr) 0x41 1).countFill vd l
    let s := if l.space = .fab then s else s.sampleFree (160 + homeSlice l.addr / 96) vd 1 243
    { s with llc := Tab.put s.llc k ⟨vd, ctx, va / 64 * 64, pr, s.clock, store, if store then old else [], 0, .device⟩ }

/-- A line's copy leaves the cache and its dirty bytes are lost: the memory behind it keeps what it held (R479). -/
def State.discardLine (s : State) (k : Nat) : State :=
  match Tab.get? s.llc k with
  | none => s
  | some ln =>
    let s := State.forgetPeer { s with llc := Tab.del s.llc k } k
    let a := k % 2 ^ 60 * 64
    if !ln.dirty then s
    else if k / 2 ^ 60 = 1 then { s with mem := cellsSet s.mem a ln.stale }
    else if k / 2 ^ 60 = 2 then { s with host := cellsSet s.host a ln.stale }
    else s

/-- A line written back and kept clean, or written back and removed. -/
def State.writeBack (s : State) (k : Nat) (remove : Bool) : State :=
  match Tab.get? s.llc k with
  | none => s
  | some ln =>
    let s := if ln.dirty then s.sendBack k ln else s
    if remove then State.forgetPeer { s with llc := Tab.del s.llc k } k
    else { s with llc := Tab.put s.llc k { ln with dirty := false, stale := [], wrote := 0 } }

/-! ## The first-level caches (R203, R204, R221) -/

/-- The L1 that holds a line for a core: its own, or the slice of its fused cluster. -/
def State.l1Of (s : State) (core addr : Nat) : Nat :=
  let cl := clusterOf core
  if (s.core (8 * cl)).fused then
    8 * cl + (BitVec.ofNat 3 (addr / 64) ^^^ BitVec.ofNat 3 (addr / 4096)).toNat
  else core

/-- The key of a line in an L1. -/
def l1Key (l1 k : Nat) : Nat := l1 * 2 ^ 64 + k

/-- A line leaves every L1. -/
def State.dropL1 (s : State) (k : Nat) : State := { s with l1 := s.l1.filter (fun e => e.1 % 2 ^ 64 != k) }

/-- A wave's access looks in the L1 of its core: whether the line is there, and the L1 after it. A miss allocates, the
least recently used line leaving a full L1; an access that streams does not allocate, and a streaming store invalidates
the line (R221). -/
def State.l1Access (s : State) (core vd : Nat) (l : Loc) (store low : Bool) : Bool × State :=
  let c := s.l1Of core l.addr
  let k := l1Key c (lineKey l.space l.addr)
  match Tab.get? s.l1 k with
  | some e =>
    let s := s.countCore core vd 0x21 1
    (true, { s with l1 := if low && store then Tab.del s.l1 k else Tab.put s.l1 k { e with used := s.clock } })
  | none =>
    let s := s.countCore core vd 0x22 1
    if low then (false, s)
    else
      let mine := s.l1.filter (fun e => e.1 / 2 ^ 64 == c)
      let t := if mine.length < 4096 then s.l1 else
        match mine with
        | e :: r => Tab.del s.l1 (r.foldl (fun (b : Nat × L1Line) x => if x.2.used < b.2.used then x else b) e).1
        | [] => s.l1
      (false, { s with l1 := Tab.put t k ⟨vd, s.clock⟩ })

/-- Bytes written at a place of device or host memory, with the zero fill and the dirty log of a device frame. -/
def State.writeRaw (s : State) (l : Loc) (bs : List Byte) : State :=
  match l.space with
  | .dev =>
    let s := s.zeroFill l.addr
    let s := s.zeroFill (l.addr + bs.length - 1)
    let s := { s with mem := cellsSet s.mem l.addr bs }
    s.logWrite l.addr
  | .host => { s with host := cellsSet s.host l.addr bs }
  | .fab => { s with peer := cellsSet s.peer l.addr bs }

/-- The lines that n bytes from a place touch. -/
def linesOf (a n : Nat) : List Nat :=
  if n = 0 then [] else (List.range ((a + n - 1) / 64 - a / 64 + 1)).map (fun i => (a / 64 + i) * 64)

/-- A peer line keeps which of its bytes were written here: they are the ones that go home (R348, R352). -/
def State.noteWrote (s : State) (l : Loc) (n : Nat) : State :=
  if l.space = .fab then
    { s with llc := Tab.modify s.llc (lineKey .fab l.addr) (fun x => { x with
      wrote := x.wrote ||| BitVec.ofNat 64 ((2 ^ n - 1) * 2 ^ (l.addr % 64)) }) }
  else s

/-- A store of bytes at a place, through the caches. -/
def State.storeAt (s : State) (vd ctx va : Nat) (l : Loc) (bs : List Byte) (low : Bool) : State :=
  let s := (linesOf l.addr bs.length).foldl
    (fun s a => s.touch vd ctx (va + (a - l.addr)) ⟨l.space, max a l.addr⟩ true low) s
  (s.noteWrote l bs.length).writeRaw l bs

/-- A load of n bytes at a place, through the caches. -/
def State.loadAt (s : State) (vd ctx va : Nat) (l : Loc) (n : Nat) (low : Bool) : State :=
  (linesOf l.addr n).foldl (fun s a => s.touch vd ctx (va + (a - l.addr)) ⟨l.space, max a l.addr⟩ false low) s

/-! ## The bounce buffer (R305) -/

/-- The bytes of a write under its mask. -/
def maskBytes (mask : Byte) (old new : List Byte) : List Byte :=
  List.zipWith (fun o n => (o &&& ~~~mask) ||| (n &&& mask)) old new

/-! ## Translation (R448 to R450, R206, R207, R342) -/

/-- Whose access a translation serves, as far as the pager's answers go (R452): a thread of a wave at a PC, a card, the VCC, or
something that such an answer does not reach. -/
inductive Asker where
  | thread (wave : Nat) (pc : BitVec 64)
  | card (c : CardRef)
  | vcc
  | other
  deriving DecidableEq, Repr

/-- Who makes an access: a virtual device, a context, the core (or a core of the die) whose TLBs it uses, and the
SRC that its faults carry (R451). -/
structure Agent where
  vd  : Nat
  ctx : Nat
  core : Nat
  src : Nat
  who : Asker
  deriving DecidableEq, Repr

/-- What a translation of one address finds. -/
inductive XRes where
  | at (l : Loc)
  | absent
  | prot
  | xlate
  deriving DecidableEq, Repr

/-- The fields of a format descriptor (R449). -/
structure Desc where
  root : Nat
  levels : Nat
  esz  : Nat
  iw   : Nat
  pbit : Nat
  wbit : Nat
  winv : Bool
  abit : Nat
  dbit : Nat
  ps   : Nat
  cb   : Nat
  flo  : Nat
  fw   : Nat
  klo  : Nat
  deriving DecidableEq, Repr

/-- The fields of a format descriptor's bits. -/
def Desc.of (d : BitVec 128) : Desc :=
  let n := d.toNat
  let e := bitsOf n 72 1
  ⟨bitsOf n 76 52, bitsOf n 73 3, if e = 1 then 8 else 4, if e = 1 then 9 else 10, bitsOf n 66 6, bitsOf n 60 6,
    bitsOf n 59 1 == 1, bitsOf n 53 6, bitsOf n 47 6, bitsOf n 41 6, bitsOf n 35 6, bitsOf n 29 6, bitsOf n 23 6,
    bitsOf n 17 6⟩

/-- The bit positions that a descriptor uses. -/
def Desc.positions (d : Desc) : List Nat :=
  [d.pbit, d.wbit, d.abit, d.dbit] ++ (if d.ps = 63 then [] else [d.ps]) ++ (if d.cb = 63 then [] else [d.cb]) ++
    (List.range d.fw).map (d.flo + ·) ++ (if d.klo = 63 then [] else [d.klo, d.klo + 1])

/-- A descriptor under which walks do not all raise XLATE. -/
def Desc.ok (d : Desc) : Bool :=
  2 ≤ d.levels && d.levels ≤ 5 && 20 ≤ d.fw && d.fw ≤ 52 && d.positions.all (fun p => p < 8 * d.esz) &&
    decide d.positions.Nodup

/-- What a walk finds: an absent entry, a fault, or a leaf with its page base and size, frame base, kind, writable and
the host address of its entry. -/
inductive Walk where
  | absent
  | xlate
  | leaf (base size frame kind : Nat) (w : Bool) (pte : Nat)
  deriving DecidableEq, Repr

/-- The leaf at an entry. -/
def Desc.leafOf (d : Desc) (va lvl e a : Nat) : Walk :=
  let big := 2 ^ (12 + (lvl - 1) * d.iw)
  let size := if lvl = 1 then (if d.cb ≠ 63 ∧ bitsOf e d.cb 1 = 1 then 65536 else 4096) else big
  let kind := if d.klo = 63 then 0 else bitsOf e d.klo 2
  if !(size == 4096 || size == 65536 || size == 2 ^ 21 || size == 2 ^ 30) || kind == 3 then .xlate
  else .leaf (va / size * size) size (bitsOf e d.flo d.fw * 4096 / size * size) kind
    ((bitsOf e d.wbit 1 == 1) != d.winv) a

/-- The walk from a level down (R450). -/
def Desc.walk (d : Desc) (host : List Host.Cell) (va : Nat) : Nat → Nat → Walk
  | 0, _ => .xlate
  | lvl + 1, table =>
    let a := table + d.esz * bitsOf va (12 + lvl * d.iw) d.iw
    let e := leNat (cellsGet host a d.esz)
    if bitsOf e d.pbit 1 = 0 then .absent
    else if lvl = 0 ∨ (lvl ≤ 2 ∧ d.ps ≠ 63 ∧ bitsOf e d.ps 1 = 1) then d.leafOf va (lvl + 1) e a
    else d.walk host va lvl (bitsOf e d.flo d.fw * 4096)

/-- VA bits above the levels equal VA[56] (R450). -/
def Desc.covers (d : Desc) (va : Nat) : Bool :=
  let n := 12 + d.levels * d.iw
  n ≥ 57 || bitsOf va n (57 - n) == (if bitsOf va 56 1 = 1 then 2 ^ (57 - n) - 1 else 0)

/-- The walk of a virtual address. -/
def walkVa (fmt : BitVec 128) (host : List Host.Cell) (va : Nat) : Walk :=
  let d := Desc.of fmt
  if !d.ok || !d.covers va then .xlate else d.walk host va d.levels (d.root * 4096)

/-- The walk of a virtual address with the host's own translation of a host page: where that fails, the page is as an absent
one (R450). -/
def State.walk (s : State) (fmt : BitVec 128) (va : Nat) : Walk :=
  match walkVa fmt s.host va with
  | .leaf base size frame kind w pte =>
    if kind == 0 && s.atsBad.contains ((frame + (va - base)) / 4096) then .absent else .leaf base size frame kind w pte
  | x => x

/-- The intermediate fabric address of a frame (R342): `fw` bits of frame field, then the offset within the page. -/
def ifaOf (fw frame off : Nat) : Nat :=
  bitsOf frame (fw - 8) 8 * 2 ^ 56 + bitsOf frame (fw - 18) 10 * 2 ^ 46 + bitsOf frame 0 (fw - 18) * 4096 + off

/-- The place of an address within a page (R207, R342), with the checks after the walk. -/
def State.place (s : State) (vd : Nat) (fmt : BitVec 128) (base frame kind va : Nat) : XRes :=
  let a := frame + (va - base)
  if kind = 0 then .at ⟨.host, a⟩
  else if kind = 1 then
    if a ≥ 0x14000000000 then .xlate
    else if fotOwner (s.fotOf (a / 65536)) = vd then .at ⟨.dev, a⟩ else .prot
  else .at ⟨.fab, ifaOf (Desc.of fmt).fw (a / 4096) (a % 4096)⟩

/-- Whether a TLB entry serves an access of a virtual device and PASID. -/
def TlbEntry.serves (e : TlbEntry) (vd pasid va : Nat) (write : Bool) : Bool :=
  e.vd == vd && e.pasid == pasid && e.base ≤ va && va < e.base + e.size && (!write || (e.w && e.dirty))

/-- An entry enters a TLB; the oldest entry leaves a full one (R448 gives the sizes, not the choice). -/
def tlbInsert (t : List TlbEntry) (e : TlbEntry) (cap : Nat) : List TlbEntry :=
  let t := t.filter (fun x => !(x.die == e.die && x.unit == e.unit && x.vd == e.vd && x.pasid == e.pasid &&
    x.base == e.base))
  let mine := t.filter (fun x => x.die == e.die && x.unit == e.unit)
  let t := if mine.length < cap then t else
    match mine with
    | o :: _ => t.erase o
    | [] => t
  t ++ [e]

/-- Whether an access is made again by what waited for the page when the pager declared it unresolvable: a thread at its PC, a
wave for its trap frame, a card, or the VCC. -/
def Barred.bars (b : Barred) (x : Asker) : Bool :=
  match x with
  | .thread k pc => b.threads.any (fun t => t.1 == k && t.2.2 == pc) || b.frames.contains k
  | .card c => b.cards.contains c
  | .vcc => b.vcc
  | .other => false

/-- The translation of one address for an access (R217, R448, R450): TLB, then walk, which sets the accessed and dirty
bits and fills the TLBs of the core and of the die. A host page that the host's IOMMU does not translate faults as an absent
one, its bits set by then (R450). What waited for a page that the pager declared unresolvable meets XLATE there (R452). -/
def State.xlate (s : State) (g : Agent) (va : Nat) (write : Bool) : XRes × State :=
  match s.ctx? g.vd g.ctx with
  | none => (.xlate, s)
  | some c =>
    match s.tlb.find? (fun e => !e.die && e.unit == g.core && e.serves g.vd c.pasid va write) with
    | some e => (s.place g.vd c.format e.base e.frame e.kind va, s)
    | none =>
    let s := s.countCore g.core g.vd 0x28 1
    match s.tlb.find? (fun e => e.die && e.unit == dieOf g.core && e.serves g.vd c.pasid va write) with
    | some e =>
      (s.place g.vd c.format e.base e.frame e.kind va,
        { s with tlb := tlbInsert s.tlb { e with die := false, unit := g.core } 128 })
    | none =>
      let miss : XRes := if c.refused.any (fun e => e.page == va / 4096 && e.bars g.who) then .xlate else .absent
      match walkVa c.format s.host va with
      | .absent => (miss, s)
      | .xlate => (.xlate, s)
      | .leaf base size frame kind w pte =>
        if write && !w then (miss, s)
        else
          let d := Desc.of c.format
          let old := leNat (cellsGet s.host pte d.esz)
          let set (x b : Nat) : Nat := if bitsOf x b 1 = 1 then x else x + 2 ^ b
          let new := if write then set (set old d.abit) d.dbit else set old d.abit
          let dirty := bitsOf new d.dbit 1 == 1
          let s := { s with host := cellsSet s.host pte (leBytes new d.esz) }
          if kind == 0 && s.atsBad.contains ((frame + (va - base)) / 4096) then (miss, s)
          else
            let s := { s with
              tlb := tlbInsert (tlbInsert s.tlb ⟨true, dieOf g.core, g.vd, c.pasid, base, size, frame, kind, w, dirty⟩
                16384) ⟨false, g.core, g.vd, c.pasid, base, size, frame, kind, w, dirty⟩ 128 }
            (s.place g.vd c.format base frame kind va, s)

/-- A contiguous piece of an access: its place, its virtual address and its bytes. -/
structure Piece where
  loc : Loc
  va  : Nat
  len : Nat
  deriving DecidableEq, Repr

/-- What the translation of a whole access finds (R217): its pieces, a fault, or the first page that is absent. -/
inductive Span where
  | ok (l : List Piece)
  | absent (va : Nat)
  | prot
  | xlate
  deriving DecidableEq, Repr

/-- The pieces of an access of n bytes, page by page; `fuel` bounds the pages. A fault that cannot be replayed comes
before an absent page. -/
def State.spanGo (s : State) (g : Agent) (write : Bool) : Nat → Nat → Nat → Span × State
  | 0, _, _ => (.ok [], s)
  | fuel + 1, va, n =>
    if n = 0 then (.ok [], s)
    else
      let len := min n (4096 - va % 4096)
      let r := s.xlate g va write
      let t := r.2.spanGo g write fuel ((va + len) % 2 ^ 57) (n - len)
      match r.1, t.1 with
      | .xlate, _ => (.xlate, t.2)
      | .prot, _ => (.prot, t.2)
      | _, .xlate => (.xlate, t.2)
      | _, .prot => (.prot, t.2)
      | .absent, _ => (.absent (va / 4096 * 4096), t.2)
      | .at _, .absent v => (.absent v, t.2)
      | .at l, .ok ps => (.ok (⟨l, va, len⟩ :: ps), t.2)

/-- The translation of [va, va + n) as a whole. -/
def State.span (s : State) (g : Agent) (va n : Nat) (write : Bool) : Span × State :=
  s.spanGo g write (n / 4096 + 2) va n

/-- Whether a piece lies on a fabric page. -/
def Piece.isFab (p : Piece) : Bool := p.loc.space == .fab

/-- The bytes of the pieces. -/
def State.readPieces (s : State) (l : List Piece) : List Byte := l.flatMap (fun p => s.readBytes p.loc p.len)

/-- Bytes written to the pieces in order. -/
def State.writePieces (s : State) (g : Agent) (l : List Piece) (bs : List Byte) (low : Bool) : State :=
  match l with
  | [] => s
  | p :: r => (s.storeAt g.vd g.ctx p.va p.loc (bs.take p.len) low).writePieces g r (bs.drop p.len) low

/-- The lines of the pieces brought into the cache by a load. -/
def State.touchPieces (s : State) (g : Agent) (l : List Piece) (low : Bool) : State :=
  l.foldl (fun s p => s.loadAt g.vd g.ctx p.va p.loc p.len low) s

/-- A canonical address: bits [63:57] are copies of bit 56 (R216). -/
def canonical (a : BitVec 64) : Bool := slice a 57 7 == (if a.getLsbD 56 then 0x7F#7 else 0#7)

/-- The 57 address bits that translation uses. -/
def vaOf (a : BitVec 64) : Nat := (slice a 0 57).toNat

/-! ## The fault queue (R451, R452) -/

/-- The bytes of a fault-queue entry: its page address is the canonical one. -/
def faultBytes (f : PageFault) (pasid : Nat) (seq : Nat) : List Byte :=
  let lo := if f.src = 7 then f.va else ((BitVec.ofNat 57 f.va).signExtend 64).toNat
  let m := 1 + (if f.rd then 2 else 0) + (if f.wr then 4 else 0) + (if f.ex then 8 else 0) + f.src * 16 +
    min f.count 65535 * 256 + pasid * 2 ^ 24 + f.code * 2 ^ 44
  leBytes lo 8 ++ leBytes m 8 ++ leBytes f.time 8 ++ leBytes (seq % 2 ^ 32) 4 ++ leBytes 0 4

/-- Entries that wait for room are written while the ring has some (R451). -/
def postGo (s : State) (vd ctx : Nat) : Nat → State
  | 0 => s
  | n + 1 =>
    match s.ctx? vd ctx with
    | none => s
    | some c =>
      match c.faults.find? (fun f => !f.posted) with
      | none => s
      | some f =>
        if c.fqSize = 0 ∨ c.fqTail - c.fqHead ≥ c.fqSize then s
        else
          let a := c.fqBase + 32 * (c.fqTail % c.fqSize)
          let s := { s with host := cellsSet s.host a (faultBytes f c.pasid c.fqSeq) }
          let s := s.modCtx vd ctx (fun c => { c with
            fqTail := c.fqTail + 1, fqSeq := c.fqSeq + 1
            faults := (c.faults.map (fun x => if x == f then { x with posted := true } else x)).filter (fun x => !(x.posted && x.src == 7)) })
          postGo (s.irq vd 2 ctx) vd ctx n

/-- The entries of a context that wait are written as far as the ring has room. -/
def State.postFaults (s : State) (vd ctx : Nat) : State :=
  match s.ctx? vd ctx with
  | none => s
  | some c => postGo s vd ctx c.faults.length

/-- A replayable fault on a page: one entry a page until it is answered (R451). -/
def State.pageFault (s : State) (g : Agent) (va : Nat) (rd wr ex : Bool) : State :=
  match s.ctx? g.vd g.ctx with
  | none => s
  | some c =>
    let page := va / 4096 * 4096
    let s := if c.faults.any (fun f => f.va == page && f.src != 7) then
        s.modCtx g.vd g.ctx (fun c => { c with
          faults := c.faults.map (fun f => if f.va == page && f.src != 7 && !f.posted then
            { f with count := f.count + 1, rd := f.rd || rd, wr := f.wr || wr, ex := f.ex || ex } else f) })
      else
        s.modCtx g.vd g.ctx (fun c => { c with
          faults := c.faults ++ [⟨page, g.src, 0, rd, wr, ex, 1, timeNs s.clock, false⟩] })
    s.postFaults g.vd g.ctx

/-- Whether a page still awaits its answer. -/
def State.awaits (s : State) (vd ctx va : Nat) : Bool :=
  match s.ctx? vd ctx with
  | none => false
  | some c => c.faults.any (fun f => f.va == va / 4096 * 4096 && f.src != 7)

/-! ## The scratchpad (R208, R210, R211) -/

/-- The physical byte of an offset of a workgroup's range, within the core. -/
def scratchByte (g : Workgroup) (o : Nat) : Nat :=
  let u := g.units.getD (o / 4096) 0
  let bank := 8 * (u / 32) + o / 128 % 8
  bank * 16384 + (4 * (u % 32) + o / 1024 % 4) * 128 + o % 128

/-- The physical byte over the device. -/
def scratchAddr (g : Workgroup) (o : Nat) : Nat := g.core * 524288 + scratchByte g o

/-- The granule of an offset over the device: a full/empty bit (R211). -/
def granuleOf (g : Workgroup) (o : Nat) : Nat := scratchAddr g o / 16

/-- Whether the quarter of an offset carries the workgroup's virtual device (R210). -/
def State.quarterOk (s : State) (g : Workgroup) (o : Nat) : Bool :=
  (s.sp (g.core * 4 + g.units.getD (o / 4096) 0 / 32)).tag == g.vd

/-- n bytes of a workgroup's range. -/
def State.scratchRead (s : State) (g : Workgroup) (o n : Nat) : List Byte :=
  (List.range n).map (fun i => cellGet s.scratch (scratchAddr g (o + i)))

/-- Bytes written to a workgroup's range. -/
def State.scratchWrite (s : State) (g : Workgroup) (o : Nat) (bs : List Byte) : State :=
  match bs with
  | [] => s
  | b :: r => State.scratchWrite { s with scratch := cellSet s.scratch (scratchAddr g o) b } g (o + 1) r

/-- A little-endian value of a workgroup's range. -/
def State.scratchNat (s : State) (g : Workgroup) (o n : Nat) : Nat := leNat (s.scratchRead g o n)

/-- The full/empty bit of a granule. -/
def State.feOf (s : State) (gr : Nat) : Bool := Tab.getD s.fe gr false
/-- A full/empty bit set or cleared. -/
def State.setFe (s : State) (gr : Nat) (b : Bool) : State := { s with fe := Tab.set false s.fe gr b }

/-- The scratchpad units of a range cleared: bytes zero and full/empty bits empty (R211). -/
def State.clearUnits (s : State) (core : Nat) (us : List Nat) : State :=
  { s with
    scratch := s.scratch.filter (fun c => !(c.1 / 524288 == core &&
      us.contains (c.1 % 524288 / 131072 * 32 + c.1 % 16384 / 512)))
    fe := s.fe.filter (fun c => !(c.1 / 32768 == core &&
      us.contains (c.1 % 32768 / 8192 * 32 + c.1 % 1024 / 32))) }

/-! ## Receive slots and outstanding requests (R339, R340) -/

/-- The reserved slots of a virtual device in a class: request, response, invalidate, rotation. -/
def VDev.reserved (v : VDev) (cls : Nat) : Nat :=
  match cls with
  | 0 => v.resv.getD 0 16
  | 1 => v.resv.getD 1 16
  | 2 => v.resv.getD 2 16
  | 4 => v.resv.getD 3 16
  | 5 => v.resv.getD 4 32
  | _ => 0

/-- The receive slots that are reserved for all virtual devices together. -/
def State.reservedAll (s : State) : Nat :=
  ((s.vds.filter (fun e => e.2.st != .free)).map
    (fun e => e.2.reserved 0 + e.2.reserved 1 + e.2.reserved 2 + e.2.reserved 4)).foldl (· + ·) 0

/-- The pool slots of the receive buffer that are free: those that no reservation, no flit above its reservation and no
allowance granted takes (R339, R340). -/
def State.poolFree (s : State) : Nat := 65536 - s.reservedAll - s.pool - (s.allow.map Prod.snd).foldl (· + ·) 0

/-- Slots given back: those above the reservation return to the pool. -/
def State.freeSlots (s : State) (vd cls n : Nat) : State :=
  let k := vd * 8 + cls
  let used := Tab.getD s.slots k 0
  let r := match Tab.get? s.vds vd with
    | some v => v.reserved cls
    | none => 0
  let excess := min n (used - r)
  { s with slots := Tab.set 0 s.slots k (used - n), pool := s.pool - excess }

/-- The reply slots of a request (R340) by its operation code: two for a line (RDS, RDO, RDU, ATM), one for an
acknowledgement. -/
def replySlots (op : Nat) : Nat := if op = 0 ∨ op = 1 ∨ op = 3 ∨ op = 5 then 2 else 1

/-- Outstanding requests abandoned: their reply slots are free again, and late answers find nothing. -/
def State.dropReqs (s : State) (f : FabReq → Bool) : State :=
  let gone := s.reqs.filter (fun r => f r && r.sent)
  gone.foldl (fun s r => s.freeSlots r.vd 1 (replySlots r.op)) { s with reqs := s.reqs.filter (fun r => !f r) }

/-! ## Discarding work (R439, R478, R479, R481) -/

/-- The waves of a workgroup. -/
def State.wavesOf (s : State) (g : Nat) : List (Nat × Wave) := s.waves.filter (fun e => e.2.wg == g)

/-- A result consumed by one of its voters (R370): the last round's result is kept. -/
def CGroup.consumed (c : CGroup) (r : BitVec 16) : CGroup :=
  match Tab.get? c.results r.toNat with
  | none => c
  | some (x, n) =>
    if n ≤ 1 ∧ c.round ≠ r then { c with results := Tab.del c.results r.toNat }
    else { c with results := Tab.put c.results r.toNat (x, n - 1) }

/-- A member wave that goes leaves its consensus group: its position is vacant from the next round on, and a result that
it has not consumed counts as consumed, where its round has resolved or will (R367). DESIGN CHOICE (log entry 116): a wave that a
context fault discards leaves likewise; one in a saved image that is dropped keeps its position. -/
def State.leaveGroup (s : State) (w : Wave) : State :=
  match w.member with
  | none => s
  | some m =>
    match Tab.get? s.cgs m.grp with
    | none => s
    | some c =>
      let open_ := c.st != .idle && c.round == w.round ||
        s.ballots.any (fun b => b.grp == m.grp && b.pos == m.pos && b.vote.round == w.round)
      let c := if !w.sent then c else if open_ then { c with left := (m.pos, w.round) :: c.left } else c.consumed w.round
      { s with cgs := Tab.put s.cgs m.grp { c with joined := c.joined.erase m.pos } }

/-- A card reference belongs to a workgroup. -/
def CardRef.of (g : Nat) (c : CardRef) : Bool := c.wg == g

/-- The cards of a workgroup leave every engine and every queue, and what they had buffered is lost. -/
def State.dropCards (s : State) (g : Nat) : State :=
  let s := s.dropReqs (fun r => match r.who with | .card c => CardRef.of g c | _ => false)
  { s with
    engines := (s.engines.map (fun e => (e.1, { e.2 with
      queue := e.2.queue.filter (fun c => !CardRef.of g c)
      run := e.2.run.filter (fun r => !CardRef.of g r.card) }))).filter (fun e => e.2 != EngineSt.idle)
    ismvq := (s.ismvq.map (fun e => (e.1, e.2.filter (fun c => !CardRef.of g c)))).filter (fun e => !e.2.isEmpty) }

/-- What a workgroup binds on its core is released: its halves, its attention engine, its tracker entry (R68, R313). -/
def State.releaseCore (s : State) (g : Nat) (core : Nat) : State :=
  let s := s.modCore core (fun c => { c with
    halves := c.halves.filter (fun e => e.2 != g)
    attn := if c.attn == some g then none else c.attn
    tracker := c.tracker.erase g })
  let cl := clusterOf core
  let left := s.wgs.any (fun e => clusterOf e.2.core == cl && e.1 != g)
  if left then s else s.modCore (8 * cl) (fun c => { c with fused := false })

/-- A wave and everything that waits for it are gone. -/
def State.dropWave (s : State) (k : Nat) : State :=
  let s := match Tab.get? s.waves k with
    | some w => s.leaveGroup w
    | none => s
  let who (r : FabReq) : Bool := match r.who with
    | .load w _ _ _ _ _ | .atomic w _ _ _ | .store w _ _ _ | .own w _ _ _ _ _ | .flush w => w == k
    | _ => false
  let s := s.dropReqs who
  { s with
    waves := Tab.del s.waves k
    sps := s.sps.map (fun e => (e.1, if e.1 == spOf k && (e.2.run.map (·.wave)) == some k then
      { e.2 with run := none } else e.2)) }

/-- The KV operations of a workgroup that is discarded go on without it: they have reached their home engine (R409). -/
def State.orphanKv (s : State) (g : Nat) (wg : Workgroup) : State :=
  let orphan (o : KvOp) : KvOp := if o.wg = g then { o with gone := some wg } else o
  { s with
    kvops := s.kvops.map (fun e => (e.1, e.2.map orphan))
    kvcopies := s.kvcopies.map (fun e => (e.1, e.2.map (fun c => { c with op := orphan c.op }))) }

/-- The readers among the cards of a workgroup that is discarded leave their pools (R395, R408). -/
def State.readersLeave (s : State) (g : Workgroup) : State :=
  { s with leaving := s.leaving ++ g.cards.filterMap (fun c => c.reader.map (fun r => ⟨g.vd, g.ctx, g.core, r.1, r.2⟩)) }

/-- A workgroup discarded with its waves, cards, queues and guard slots. -/
def State.discardWg (s : State) (g : Nat) : State :=
  match Tab.get? s.wgs g with
  | none => s
  | some wg =>
    let s := (s.wavesOf g).foldl (fun s e => s.dropWave e.1) s
    let s := ((s.dropCards g).readersLeave wg).orphanKv g wg
    let s := s.releaseCore g wg.core
    { s with wgs := Tab.del s.wgs g }

/-- Every workgroup and launch of a context discarded, saved ones too as far as they still count as readers of a pool; its launches add nothing to their counters (R42, R439). -/
def State.discardContext (s : State) (vd ctx : Nat) : State :=
  let gs := (s.wgs.filter (fun e => e.2.vd == vd && e.2.ctx == ctx)).map Prod.fst
  let s := gs.foldl State.discardWg s
  let s := (s.images.filter (fun i => i.vd == vd && i.ctx == ctx)).foldl (fun s i =>
    i.wgs.foldl (fun s e => s.readersLeave e.wg) s) s
  { s with launches := s.launches.filter (fun e => !(e.2.vd == vd && e.2.ctx == ctx)) }

/-- The launch queues of a context halt (R468): every halt raises class QUEUE. -/
def State.haltQueues (s : State) (vd ctx : Nat) (h : Halt) : State :=
  let qs := (s.queues.filter (fun e => e.1 / 64 == ctxKey vd ctx && e.2.on)).map Prod.fst
  qs.foldl (fun s k =>
    let s := { s with queues := Tab.modify s.queues k (fun q => { q with halt := h, active := false }) }
    s.irq vd 1 ctx) s

/-- A context faults (R439): its work is discarded, its queues halt, and its owner is interrupted with a report. A
fault that meets a kill is not reported (R480). -/
def State.contextFault (s : State) (vd ctx cause : Nat) (pc addr : BitVec 64) : State :=
  match Tab.get? s.vds vd with
  | none => s
  | some v =>
    if v.st != .running then s
    else
      let s := s.discardContext vd ctx
      let s := s.haltQueues vd ctx .ctxfault
      let s := s.modCtx vd ctx (fun c => { c with
        faulted := true, running := false, saved := .no, stopping := false, faults := [], refused := []
        report := some (cause, pc, addr) })
      let s := { s with images := s.images.filter (fun i => !(i.vd == vd && i.ctx == ctx && i.savectr == 0)) }
      let s := s.modVd vd (fun v => { v with handles := v.handles.filter (fun h => h.2.ctx != ctx) })
      s.irq vd 2 ctx

/-! ## Traps (R432, R436, R437) -/

/-- The trap causes of R432. -/
inductive Cause where
  | illop | illenc | latch | align | prot | xlate | fmtdiv | fmtbad | arith | conslost | conssite | joberr | jobfail
  | qerr | barerr | swtrap | brk | priv | kverr
  deriving DecidableEq, Repr

/-- The code of a cause. -/
def Cause.code : Cause → BitVec 8
  | .illop => 0x01
  | .illenc => 0x02
  | .latch => 0x03
  | .align => 0x04
  | .prot => 0x05
  | .xlate => 0x06
  | .fmtdiv => 0x07
  | .fmtbad => 0x08
  | .arith => 0x09
  | .conslost => 0x0A
  | .conssite => 0x0B
  | .joberr => 0x0C
  | .jobfail => 0x0D
  | .qerr => 0x0E
  | .barerr => 0x0F
  | .swtrap => 0x10
  | .brk => 0x11
  | .priv => 0x12
  | .kverr => 0x13

/-- A trap without an address. -/
def mkTrap (c : Cause) (mask : Mask) (pc : BitVec 64) : TrapRec := ⟨c.code, 0, mask, pc, 0, [], []⟩

/-- A trap with the addresses of its lanes; `%taddr` is that of the lowest lane of MASK (R431). -/
def addrTrap (c : Cause) (mask : Mask) (pc : BitVec 64) (addrs : Tab DWord) : TrapRec :=
  ⟨c.code, 0, mask, pc, match mask.lowest with | some l => Tab.getD addrs l 0 | none => 0, addrs, []⟩

/-- The bytes of the trap frame (R436): the wave as it stands, and the trap. -/
def frameBytes (w : Wave) (t : TrapRec) (cause : BitVec 32) : List Byte :=
  let per (n : Nat) (f : Nat → Nat) : List Byte := (List.range 32).flatMap (fun l => leBytes (f l) n)
  leBytes cause.toNat 4 ++ leBytes t.mask.toNat 4 ++ leBytes w.exited.toNat 4 ++ leBytes w.parked.toNat 4 ++
  leBytes t.pc.toNat 8 ++ leBytes t.addr.toNat 8 ++ leBytes w.fairCnt 4 ++ leBytes (if w.phase then 1 else 0) 4 ++
  leBytes w.rover.toNat 8 ++ leBytes 0 16 ++
  per 8 (fun l => (w.pcOf l).toNat) ++
  per 8 (fun l => if t.mask.has l then (Tab.getD t.addrs l 0).toNat else 0) ++
  (List.range 16).map (fun i => BitVec.ofNat 8 (w.reasonOf (2 * i) + 16 * w.reasonOf (2 * i + 1))) ++
  (List.range 32).map (fun l => match Tab.get? w.pend l with
    | some j => BitVec.ofNat 8 (128 + j)
    | none => 0) ++
  (List.range 32).map (fun l => BitVec.ofNat 8 (Tab.getD t.codes l 0)) ++ leBytes 0 368

/-- The wave in its handler (R437): every thread that has not exited stands at the handler's address, none parked; the
latches are invalid and the trap registers hold the trap. -/
def Wave.enterHandler (w : Wave) (t : TrapRec) (vec : BitVec 64) (cause : BitVec 32) : Wave :=
  let w := w.goto w.alive vec
  { w.dropLatches with
    tcause := cause, tmask := t.mask, tpc := t.pc, taddr := t.addr, tcount := w.tcount + 1
    parked := 0, held := 0, waiting := 0, reason := [], parkArg := [], group := [], pend := [], gather := 0
    arrived := false, fairCnt := 0, rover := 0, chain := 0, pick := none, busy := .no, trap := none, mark := none }

/-- The agent of a wave's accesses. -/
def State.agentOf (s : State) (k : Nat) (w : Wave) (src : Nat) : Agent :=
  match s.wgOf w with
  | some g => ⟨g.vd, g.ctx, coreOf k, src, .thread k (w.issuePc.getD 0)⟩
  | none => ⟨0, 0, coreOf k, src, .thread k (w.issuePc.getD 0)⟩

/-- Whether a request belongs to a wave. -/
def FabReq.ofWave (r : FabReq) (k : Nat) : Bool :=
  match r.who with
  | .load w _ _ _ _ _ | .atomic w _ _ _ | .store w _ _ _ | .own w _ _ _ _ _ | .flush w => w == k
  | _ => false

/-- Whether accesses of a wave are still on the fabric. -/
def State.outstanding (s : State) (k : Nat) : Bool := s.reqs.any (fun r => r.ofWave k)

/-- TAKING A TRAP (R437): without a handler, without a frame or inside the handler the context faults; otherwise the
frame is written and the wave enters its handler. The entry waits for the accesses of the wave that are still on the
fabric, while a page of the frame is absent for that page, and for a frame on a peer's page until it is written there. -/
def State.takeTrap (s : State) (k : Nat) (t : TrapRec) : State :=
  match Tab.get? s.waves k with
  | none => s
  | some w =>
    let g := s.agentOf k w 0
    let vec := match s.ctx? g.vd g.ctx with | some c => c.trapvec | none => 0
    let cause : BitVec 32 := 1#1 ++ 0#15 ++ t.detail ++ t.cause
    let code := t.detail.toNat * 256 + t.cause.toNat
    if w.tcause.getLsbD 31 || vec == 0 || w.tframe == 0 then s.contextFault g.vd g.ctx code t.pc t.addr
    else if s.outstanding k then s.setWave k { w with trap := some t, busy := .remote }
    else
      let r := s.span g (vaOf w.tframe) 1024 true
      let s := r.2
      match r.1 with
      | .absent va =>
        (s.pageFault g va false true false).modWave k (fun w => { w with trap := some t, busy := .frame va })
      | .prot | .xlate => s.contextFault g.vd g.ctx code t.pc w.tframe
      | .ok ps =>
        if ps.any Piece.isFab then s.setWave k { w with trap := some t, busy := .away false }
        else
          let s := s.writePieces g ps (frameBytes w t cause) false
          (s.setWave k (w.enterHandler t vec cause)).endRun k

/-- A trap that an instruction raises: taken at once, or deferred while the path is speculative (R377). -/
def State.raise (s : State) (k : Nat) (t : TrapRec) : State :=
  match Tab.get? s.waves k with
  | none => s
  | some w =>
    match w.spec with
    | some sp => (s.setWave k { w with spec := some { sp with trap := some t }, busy := .spec }).endRun k
    | none => s.takeTrap k t

/-! ## Return from a trap (R438) -/

/-- The lanes of a frame that RFT refuses: a PC that is not canonical or not aligned, or a reason 7–15. -/
def frameBad (w : Wave) (bs : List Byte) : Bool :=
  w.alive.lanes.any (fun l =>
    let pc := BitVec.ofNat 64 (leNat ((bs.drop (64 + 8 * l)).take 8))
    let r := (bs.getD (576 + l / 2) 0).toNat / (if l % 2 = 0 then 1 else 16) % 16
    !canonical pc || pc.toNat % 8 != 0 || r ≥ 7)

/-- The park reason that a frame gives a lane. -/
def frameReason (bs : List Byte) (l : Nat) : Nat :=
  (bs.getD (576 + l / 2) 0).toNat / (if l % 2 = 0 then 1 else 16) % 16

/-- The wave that a frame describes: PCs, pending indices, park reasons, fairness counter, rover, awaited phase. A
lane that parks again is checked again under R30, so it waits for nothing in particular. A wave whose threads all stand
parked at one barrier instruction had arrived there, and it does not arrive twice. -/
def Wave.fromFrame (w : Wave) (bs : List Byte) : Wave :=
  let at' (o n : Nat) : Nat := leNat ((bs.drop o).take n)
  let ls := w.alive.lanes
  let parked := Mask.ofFn (fun l => w.alive.has l && frameReason bs l != 0)
  let pcAt (l : Nat) : Nat := at' (64 + 8 * l) 8
  let arrived := ls.all (fun l => frameReason bs l == 6 && pcAt l == pcAt (ls.headD 0))
  { w.dropLatches with
    pc := ls.foldl (fun t l => Tab.put t l (BitVec.ofNat 64 (at' (64 + 8 * l) 8))) w.pc
    pend := ls.foldl (fun t l =>
      let b := (bs.getD (592 + l) 0).toNat
      if b ≥ 128 then Tab.put t l (b % 64) else Tab.del t l) w.pend
    parked := parked
    reason := parked.lanes.foldl (fun t l => Tab.put t l (frameReason bs l)) []
    parkArg := [], group := [], held := 0, waiting := 0, gather := 0, arrived := arrived
    fairCnt := at' 32 4, rover := BitVec.ofNat 64 (at' 40 8), phase := at' 36 1 % 2 == 1
    tcause := w.tcause &&& 0x7FFFFFFF, rft := false, busy := .no, pick := none, chain := 0 }

/-- RETURNING FROM A TRAP: the frame is read as the handler left it (R438); a frame that cannot be read, or that holds a
bad PC or reason, faults the context; an absent page, or one of a peer, makes the whole wave wait. -/
def State.returnFromTrap (s : State) (k : Nat) (pc : BitVec 64) : State :=
  match Tab.get? s.waves k with
  | none => s
  | some w =>
    let g := s.agentOf k w 0
    let code := 256 + Cause.priv.code.toNat
    if w.tframe == 0 then s.contextFault g.vd g.ctx code pc w.tframe
    else
      let r := s.span g (vaOf w.tframe) 1024 false
      let s := r.2
      match r.1 with
      | .absent va =>
        (s.pageFault g va true false false).modWave k (fun w => { w with rft := true, busy := .frame va })
      | .prot | .xlate => s.contextFault g.vd g.ctx code pc w.tframe
      | .ok ps =>
        let bs := s.readPieces ps
        if ps.any Piece.isFab then s.setWave k { w with rft := true, busy := .away false }
        else if frameBad w bs then s.contextFault g.vd g.ctx code pc w.tframe
        else (s.setWave k (w.fromFrame bs)).endRun k

/-! ## Parking (R51) -/

/-- Lanes parked with a reason, together. -/
def Wave.park (w : Wave) (m : Mask) (reason : Nat) (arg : ParkArg) (grp : Nat) : Wave :=
  { w with
    parked := w.parked ||| m
    reason := m.lanes.foldl (fun t l => Tab.put t l reason) w.reason
    parkArg := m.lanes.foldl (fun t l => Tab.put t l arg) w.parkArg
    group := m.lanes.foldl (fun t l => Tab.put t l grp) w.group }

/-- The cycle at which lanes parked at CNTWT noted (R497). -/
def Wave.parkedAt (w : Wave) (m : Mask) (clock : Nat) : Wave :=
  { w with parkAt := m.lanes.foldl (fun t l => Tab.put t l clock) w.parkAt }

/-- Lanes runnable again. -/
def Wave.unpark (w : Wave) (m : Mask) : Wave :=
  { w with
    parked := w.parked &&& ~~~m
    reason := m.lanes.foldl Tab.del w.reason
    parkArg := m.lanes.foldl Tab.del w.parkArg
    group := m.lanes.foldl Tab.del w.group }

/-! ## Speculation (R374, R375) -/

/-- Journal bytes of a wave. -/
def State.journalOf (s : State) (w : Wave) : Nat :=
  match s.wgOf w with
  | some g => g.jrnSize
  | none => 0

/-- The checkpoint before an instruction writes: registers that it writes first on this path, the generators before
their first draw, and its held store records (R375). None when USED would pass JOURNAL. -/
def Spec.charge (sp : Spec) (size : Nat) (vs ss : List Nat) (gen : Bool) (recs : Nat) : Option Spec :=
  let nv := (vs.eraseDups).filter (fun r => !sp.vset.contains r)
  let nb := ((ss.map (· / 8)).eraseDups).filter (fun b => !sp.sset.contains b)
  let ng := if gen && !sp.gen then 128 else 0
  let used := sp.used + 128 * nv.length + 32 * nb.length + ng + 32 * recs
  if used ≤ size then some { sp with
      vset := nv ++ sp.vset, sset := nb ++ sp.sset, gen := sp.gen || gen, used := used }
  else none

/-- A wave ready to write: with no speculation open it is as it stands. -/
def State.permit (s : State) (w : Wave) (vs ss : List Nat) (gen : Bool) (recs : Nat) : Option Wave :=
  match w.spec with
  | none => some w
  | some sp => (sp.charge (s.journalOf w) vs ss gen recs).map (fun sp => { w with spec := some sp })

/-- The wave stalls until its round resolves (R376). A stall inside an open chain holds the issue slot (R57, R89). -/
def State.stallSpec (s : State) (k : Nat) : State :=
  let t := s.modWave k (fun w => { w with busy := .spec })
  match Tab.get? s.waves k with
  | some w => if w.chain = 0 then t.endRun k else t
  | none => t

/-! ## The frame of every wave instruction (R48, R71, R73, R89) -/

/-- An instruction at issue: its wave, `active()`, its participating lanes, its PC and the next instruction's. -/
structure Iss where
  k    : Nat
  w    : Wave
  act  : Mask
  part : Mask
  pc   : BitVec 64
  next : BitVec 64
  deriving Repr

/-- The instruction that the issuing wave stands at. -/
def State.iss (s : State) (g : Guard) (len : Nat) : Option Iss :=
  match s.cur with
  | none => none
  | some k =>
    match Tab.get? s.waves k with
    | none => none
    | some w =>
      let pc := w.issuePc.getD 0
      let act := w.active
      some ⟨k, w, act, w.part g act, pc, pc + BitVec.ofNat 64 len⟩

/-- Every active lane moves to the next instruction. -/
def Iss.step (i : Iss) (w : Wave) : Wave := w.goto i.act i.next

/-- A precise trap at the instruction. -/
def Iss.trap (i : Iss) (s : State) (c : Cause) (m : Mask) : State := s.raise i.k (mkTrap c m i.pc)

/-- How an instruction meets an open speculation (R376). -/
inductive SpecRule where
  | proceeds | stalls
  deriving DecidableEq, Repr

/-- An instruction that is not ALU-class: ILLENC inside an open chain (R89), nothing under guard 0b1111 (R73), a stall
where it may not run speculatively (R376), and otherwise its effect. `ends` says that it always ends the run (R56). -/
def issue (h : Hdr) (len : Nat) (sr : SpecRule) (ends : Bool) (s : State) (f : Iss → State → State) : Res :=
  match s.iss h.guard len with
  | none => .fault .noIssuingWave
  | some i =>
    if i.w.chain ≠ 0 then .next (i.trap s .illenc i.act)
    else if neverGuard h.guard then
      let s := s.setWave i.k (i.step i.w)
      .next (if ends then s.endRun i.k else s)
    else if sr = .stalls ∧ i.w.spec.isSome then .next (s.stallSpec i.k)
    else
      let s := f i s
      .next (if ends then s.endRun i.k else s)

/-- The rules of operand reading for an instruction. -/
def Iss.rd (i : Iss) (s : State) (scalar : Bool) : Rd := ⟨i.w, i.act, scalar, s.fresh⟩

/-- A scalar result register written, every active lane moving on. -/
def Iss.setS (i : Iss) (s : State) (n : Nat) (x : Word) : State := s.setWave i.k (i.step (i.w.setS n x))

/-- The lowest participating lane of a scalar form, where it reads per-lane state. -/
def Iss.lane (i : Iss) : Nat := i.part.lowest.getD 0

/-! ## Scope (R235, R237, R238) -/

/-- The code of a scope. -/
def scopeCode (x : Scope) : Nat := (Scope.code x).toNat

/-- `%maxscope` of a wave's virtual device. -/
def State.maxScope (s : State) (w : Wave) : Nat :=
  match s.wgOf w with
  | some g => match Tab.get? s.vds g.vd with
    | some v => v.maxscope.toNat
    | none => 10
  | none => 10

/-- `scope_of()`: the scope of an operation after demotion, and the wave with DEMOTED set where it was demoted. -/
def State.scopeOf (s : State) (w : Wave) (x : Option Scope) : Nat × Wave :=
  let c := match x with
    | some y => scopeCode y
    | none => (slice w.dscope 0 4).toNat
  let m := s.maxScope w
  if c > m then (m, { w with dscope := w.dscope ||| 0x100 }) else (c, w)

end Sys2Proof.Machine
end

