-- ==== Sys2Proof/Machine/Alu.lean ====
section
/-! DEFINITION. Alu.lean: what every ALU-class instruction shares: the checks at issue, the write of its destination and
the bypass latches (R73, R74, R88 to R92, R104 to R106). -/

namespace Sys2Proof.Machine

open Sys2Proof

/-! ## Destinations -/

/-- The registers that a destination names, vector and scalar. -/
def dstRegs (d : Dst) (wide : Bool) : List Nat × List Nat :=
  match d with
  | .v n => (if wide then [n.toNat, n.toNat + 1] else [n.toNat], [])
  | .s n => ([], if wide then [n.toNat, n.toNat + 1] else [n.toNat])
  | _ => ([], [])

/-- The latch tag that a destination leaves (R90). -/
def dstTag (d : Dst) (wide : Bool) : LatchTag :=
  match d with
  | .v n => ⟨BitVec.ofNat 7 n.toNat, wide, false⟩
  | .s n => ⟨BitVec.ofNat 7 (64 + n.toNat), wide, false⟩
  | .latchV => ⟨0, wide, true⟩
  | .latchS => ⟨64, wide, true⟩

/-- A result at the width of its destination. -/
def atWidth (wide : Bool) (x : DWord) : DWord := if wide then x else (slice x 0 32).setWidth 64

/-- Values by lane, as a latch holds them. -/
def latchOf (f : Nat → DWord) : Tab DWord :=
  (List.range 32).filterMap (fun l => if f l = 0 then none else some (l, f l))

/-- The destination written in the lanes that have a result; a scalar destination takes the one result, if any. -/
def Wave.writeDst (w : Wave) (d : Dst) (wide : Bool) (rs : Tab DWord) : Wave :=
  match d with
  | .v n => rs.foldl (fun w e => w.putV n.toNat e.1 wide e.2) w
  | .s n => match rs with
    | e :: _ => w.putS n.toNat wide e.2
    | [] => w
  | _ => w

/-- What `b0` receives in a lane (R88): the result, or the destination register after the instruction, or zero. `w` is
the wave after the write. -/
def Wave.newB0 (w : Wave) (d : Dst) (wide : Bool) (rs : Tab DWord) (l : Nat) : DWord :=
  match d with
  | .v n => (Tab.get? rs l).elim (if wide then w.getVw n.toNat l else (w.getV n.toNat l).setWidth 64) (atWidth wide)
  | .s n => if wide then w.getSw n.toNat else (w.getS n.toNat).setWidth 64
  | .latchV => (Tab.get? rs l).elim 0 (atWidth wide)
  | .latchS => match rs with
    | e :: _ => atWidth wide e.2
    | [] => 0

/-- The results of an ALU-class instruction enter the wave: the destination, the latches, the chain (R88, R89). -/
def Wave.takeResult (w : Wave) (d : Dst) (wide : Bool) (rs : Tab DWord) : Wave :=
  let w := w.writeDst d wide rs
  let w := w.shiftLatches ⟨latchOf (w.newB0 d wide rs), true, some (dstTag d wide)⟩
  { w with chain := if d.nwb then w.chain + 1 else 0 }

/-! ## The driver of an ALU-class instruction with a register result -/

/-- An ALU-class instruction with a register result. `l` lists its sources, `gen` says whether it draws from the
generators, `bad` names the lanes whose format word raises FMTBAD (R156), and `f` gives its results by lane and the wave
with the flags, generators and predicates it sets. The journal is charged for what it writes (R375). -/
def aluChecked (h : Hdr) (d : Dst) (wide : Bool) (l : List Src) (gen : Iss → Rd → Bool) (s : State)
    (bad : Iss → Rd → Mask) (f : Iss → Rd → Tab DWord × Wave) : Res :=
  match s.iss h.guard (instrLen l) with
  | none => .fault .noIssuingWave
  | some i =>
    if d.nwb && i.w.chain == 4 && !neverGuard h.guard then .next (i.trap s .illenc i.act)
    else if l.any (i.rd s d.scalar).latchTrap then .next (i.trap s .latch i.act)
    else if neverGuard h.guard then .next (s.setWave i.k (i.step i.w))
    else if bad i (i.rd s d.scalar) ≠ 0 then .next (i.trap s .fmtbad (bad i (i.rd s d.scalar)))
    else
      let regs := if (f i (i.rd s d.scalar)).1.isEmpty then ([], []) else dstRegs d wide
      match s.permit i.w regs.1 regs.2 (i.part != 0 && gen i (i.rd s d.scalar)) 0 with
      | none => .next (s.stallSpec i.k)
      | some w =>
        let i := { i with w := w }
        let r := f i (i.rd s d.scalar)
        .next (s.setWave i.k (i.step (r.2.takeResult d wide r.1)))

/-- No lane raises FMTBAD. -/
def noBad (_ : Iss) (_ : Rd) : Mask := 0

/-- An ALU-class instruction that reads no format word. -/
def aluIssue (h : Hdr) (d : Dst) (wide : Bool) (l : List Src) (gen : Wave → Bool) (s : State)
    (f : Iss → Rd → Tab DWord × Wave) : Res :=
  aluChecked h d wide l (fun i _ => gen i.w) s noBad f

/-- No draw. -/
def noGen (_ : Wave) : Bool := false

/-- The results of an instruction that computes each lane for itself. A scalar form executes once, sets its flags in the
lowest participating lane (R105) and draws from the lowest lane of `active()` (R151). -/
def perLane (d : Dst) (f : Rd → Nat → Word → LaneOut) (i : Iss) (rd : Rd) : Tab DWord × Wave :=
  if d.scalar then
    match i.part.lowest with
    | none => ([], i.w)
    | some l =>
      let a := i.act.lowest.getD 0
      let o := f rd l (i.w.seedOf a)
      ([(0, o.val)], (i.w.addFlags l o.flags).setSeed a o.seed)
  else
    i.part.lanes.foldl (fun (r : Tab DWord × Wave) l =>
      let o := f rd l (i.w.seedOf l)
      (r.1 ++ [(l, o.val)], (r.2.addFlags l o.flags).setSeed l o.seed)) ([], i.w)

/-- The same for an instruction that never draws. -/
def perLaneInt (d : Dst) (f : Rd → Nat → DWord × BitVec 7) (i : Iss) (rd : Rd) : Tab DWord × Wave :=
  if d.scalar then
    match i.part.lowest with
    | none => ([], i.w)
    | some l => let o := f rd l; ([(0, o.1)], i.w.addFlags l o.2)
  else
    i.part.lanes.foldl (fun (r : Tab DWord × Wave) l =>
      let o := f rd l
      (r.1 ++ [(l, o.1)], r.2.addFlags l o.2)) ([], i.w)

/-- An integer instruction of one lane at a time. -/
def intIssue (h : Hdr) (d : Dst) (wide : Bool) (l : List Src) (s : State) (f : Rd → Nat → DWord × BitVec 7) : Res :=
  aluIssue h d wide l noGen s (perLaneInt d f)

/-- A floating instruction of one lane at a time. -/
def floatIssue (h : Hdr) (d : Dst) (wide : Bool) (l : List Src) (gen : Wave → Bool) (s : State)
    (f : Rd → Nat → Word → LaneOut) : Res :=
  aluIssue h d wide l gen s (perLane d f)

/-! ## The driver of an ALU-class instruction that writes only a predicate -/

/-- A predicate written in the participating lanes (R106). -/
def Wave.writeP (w : Wave) (pd : BitVec 3) (part bits : Mask) : Wave :=
  w.setP pd.toNat ((w.getP pd.toNat &&& ~~~part) ||| (bits &&& part))

/-- An instruction that writes only a predicate: it may read latches, closes an open chain, and shifts nothing (R89,
R106). -/
def predIssue (h : Hdr) (pd : BitVec 3) (l : List Src) (s : State) (f : Iss → Rd → Mask × Wave) : Res :=
  match s.iss h.guard (instrLen l) with
  | none => .fault .noIssuingWave
  | some i =>
    let rd := i.rd s false
    if l.any rd.latchTrap then .next (i.trap s .latch i.act)
    else if neverGuard h.guard then .next (s.setWave i.k (i.step i.w))
    else
      let r := f i rd
      .next (s.setWave i.k (i.step { r.2.writeP pd i.part r.1 with chain := 0 }))

/-- The combination of a comparison with the old predicate (R111). -/
def combine (c : Comb) (old new : Mask) : Mask :=
  match c with
  | .set => new
  | .and => old &&& new
  | .or => old ||| new
  | .xor => old ^^^ new

/-- A source predicate, negated if PN is set, over the participating lanes: the mask P of R122. -/
def Iss.pred (i : Iss) (ps : BitVec 3) (pn : Bool) : Mask :=
  i.part &&& (if pn then ~~~(i.w.getP ps.toNat) else i.w.getP ps.toNat)

end Sys2Proof.Machine
end

