-- ==== Sys2Proof/Machine/Fetch.lean ====
section
/-! DEFINITION. Fetch.lean: the words that a wave fetches: the loop buffer, the instruction caches, memory (R69, R70,
R199, R200, R217). -/

namespace Sys2Proof.Machine

open Sys2Proof

/-- What the fetch of one word finds. -/
structure Fetched where
  res  : XRes
  word : DWord
  st   : State
  deriving Repr

/-- The key of a cached instruction word: core, space, 8-byte address. -/
def icKey (core : Nat) (l : Loc) : Nat := core * 2 ^ 68 + Space.code l.space * 2 ^ 64 + l.addr / 8

/-- The word that the loop buffer of a sub-partition holds for a context at an address (R199). -/
def State.loopWord (s : State) (sp : Nat) (g : Agent) (a : Nat) : Option DWord :=
  match (s.sp sp).loop with
  | some b => if b.vd = g.vd ∧ b.ctx = g.ctx ∧ b.lo ≤ a ∧ a ≤ b.hi then Tab.get? b.words a else none
  | none => none

/-- The words of the 64-byte line of a place enter the instruction cache of a core for a virtual device (R17); words that
it holds already stay (R200). -/
def State.fillWords (s : State) (core vd : Nat) (l : Loc) : State :=
  { s with icache := (List.range 8).foldl (fun t i =>
      let x : Loc := ⟨l.space, l.addr / 64 * 64 + 8 * i⟩
      match Tab.get? t (icKey core x) with
      | some _ => t
      | none => Tab.put t (icKey core x) ⟨vd, BitVec.ofNat 64 (leNat (s.readBytes x 8))⟩) s.icache }

/-- One word fetched for a wave. A word that a cache holds with old bytes is fetched with its old or its new value
(R200). -/
def State.fetchWord (s : State) (k : Nat) (w : Wave) (a : BitVec 64) : Fetched :=
  let g := s.agentOf k w 5
  match s.loopWord (spOf k) g a.toNat with
  | some x => ⟨.at ⟨.dev, 0⟩, x, s⟩
  | none =>
    let r := s.xlate g (vaOf a) false
    match r.1 with
    | .at l =>
      let s := r.2
      let x := BitVec.ofNat 64 (leNat (s.readBytes l 8))
      let key := icKey (coreOf k) l
      let x := match Tab.get? s.icache key with
        | some y => if y.word = x then x else if Config.freeBool (256 * s.free + a.toNat / 8 % 256) then y.word else x
        | none => x
      ⟨.at l, x, State.fillWords { s with icache := Tab.put s.icache key ⟨g.vd, x⟩ } (coreOf k) g.vd l⟩
    | e => ⟨e, 0, r.2⟩

/-- An instruction fetched: its word and the word after an X word (R70). -/
structure FetchedInstr where
  res  : XRes
  addr : BitVec 64
  w    : DWord
  w2   : Option DWord
  st   : State
  deriving Repr

/-- The tag of a word (R69). -/
def wordTag (w : DWord) : Nat := w.toNat / 2 ^ 62

/-- The instruction at an address. -/
def State.fetchInstr (s : State) (k : Nat) (w : Wave) (a : BitVec 64) : FetchedInstr :=
  let f := s.fetchWord k w a
  match f.res with
  | .at _ =>
    if wordTag f.word = 2 then
      let f2 := f.st.fetchWord k w (a + 8)
      ⟨f2.res, a + 8, f.word, some f2.word, f2.st⟩
    else ⟨f.res, a, f.word, none, f.st⟩
  | e => ⟨e, a, 0, none, f.st⟩

/-- Consecutive words fetched into a loop buffer; none where one of them cannot be fetched. -/
def State.captureGo (k : Nat) (w : Wave) : Nat → BitVec 64 → Tab DWord → State → Option (Tab DWord) × State
  | 0, _, t, s => (some t, s)
  | n + 1, a, t, s =>
    let f := s.fetchWord k w a
    match f.res with
    | .at _ => State.captureGo k w n (a + 8) (Tab.put t a.toNat f.word) f.st
    | _ => (none, f.st)

/-- `BRA.lb` taken: the loop buffer of the sub-partition captures [t, e], unless it holds that range or the range does
not fit (R193, R199). -/
def State.capture (s : State) (k : Nat) (w : Wave) (t e : BitVec 64) : State :=
  let g := s.agentOf k w 5
  let same := match (s.sp (spOf k)).loop with
    | some b => b.vd == g.vd && b.ctx == g.ctx && b.lo == t.toNat && b.hi == e.toNat
    | none => false
  let n := (e.toNat - t.toNat) / 8 + 1
  if same || decide (e.toNat < t.toNat) || decide (n > 64) then s
  else
    let r := State.captureGo k w n t [] s
    match r.1 with
    | some ws => r.2.modSp (spOf k) (fun p => { p with loop := some ⟨g.vd, g.ctx, t.toNat, e.toNat, ws⟩ })
    | none => r.2

end Sys2Proof.Machine
end

