-- ==== Sys2Proof/Machine/Check.lean ====
section
/-! DEFINITION. Check.lean: what a checking instruction does before its effect (R52, R163, R306, R346), the fairness
event (R59, R60), and the addresses of memory operands (R216). -/

namespace Sys2Proof.Machine

open Sys2Proof

/-! ## Holding and waiting (R48, R52, R277) -/

/-- The lanes of `active()` hold at the instruction (R52). -/
def Iss.hold (i : Iss) (s : State) : State := s.setWave i.k { i.w with held := i.w.held ||| i.act }

/-- The lanes of `active()` wait at the instruction until every thread that has not exited stands there. -/
def Iss.wait (i : Iss) (s : State) : State := s.setWave i.k { i.w with waiting := i.w.waiting ||| i.act }

/-- Whether every thread that has not exited stands at the instruction. -/
def Iss.together (i : Iss) : Bool := i.act == i.w.alive

/-! ## The checks of a checking instruction -/

/-- The earliest failed card that has not been reported (R306). -/
def Workgroup.failedCard (g : Workgroup) : Option Card := g.cards.find? (fun c => c.st == .failed && !c.reported)

/-- A card of a workgroup changed. -/
def State.modCard (s : State) (g seq : Nat) (f : Card → Card) : State :=
  s.modWg g (fun g => { g with cards := g.cards.map (fun c => if c.seq = seq then f c else c) })

/-- The JOBFAIL trap of a card. -/
def jobfailTrap (c : Card) (m : Mask) (pc : BitVec 64) : TrapRec :=
  { mkTrap .jobfail m pc with addr := BitVec.ofNat 64 c.seq }

/-- The PROT trap that reports refused accesses: lane, address and reason each, the earliest first (R346). -/
def refusedTrap (l : List (Nat × Nat × Nat)) (pc : BitVec 64) : TrapRec :=
  ⟨Cause.prot.code, 1, l.foldl (fun m e => m ||| Mask.one e.1) 0, pc,
    match l with | e :: _ => BitVec.ofNat 64 e.2.1 | [] => 0,
    l.foldr (fun e t => Tab.put t e.1 (BitVec.ofNat 64 e.2.1)) [], l.foldr (fun e t => Tab.put t e.1 e.2.2) []⟩

/-- ARITH over the lanes of a mask (R163): the state after the trap, or none. -/
def Iss.arithCheck (i : Iss) (s : State) (m : Mask) : Option State :=
  if i.w.arith m = 0 then none else some (i.trap s .arith (i.w.arith m))

/-- JOBFAIL at a checking instruction (R306). Inside a speculation the wave stalls until its round resolves. -/
def Iss.jobCheck (i : Iss) (s : State) : Option State :=
  match s.wgOf i.w with
  | none => none
  | some g =>
    match g.failedCard with
    | none => none
    | some c =>
      if i.w.spec.isSome then some (s.stallSpec i.k)
      else some ((s.modCard i.w.wg c.seq (fun c => { c with reported := true })).raise i.k (jobfailTrap c i.act i.pc))

/-- The report of refused stores at a release, a fence, a barrier instruction or `EXIT` (R346). Inside a speculation the
wave stalls until its round resolves, and the report stands as it stood (R377). -/
def Iss.storeCheck (i : Iss) (s : State) : Option State :=
  if i.w.refused.isEmpty then none
  else if i.w.spec.isSome then some (s.stallSpec i.k)
  else some ((s.setWave i.k { i.w with refused := [] }).raise i.k (refusedTrap (i.w.refused.map Prod.snd) i.pc))

/-- Refused stores and adds in the order of their issue, one entry a lane of an instruction (R346). -/
def Wave.noteRefused (w : Wave) (since lane addr why : Nat) : Wave :=
  if w.refused.any (fun e => e.1 == since && e.2.1 == lane) then w
  else
    let before (e : Nat × Nat × Nat × Nat) : Bool := decide (e.1 < since) || (e.1 == since && decide (e.2.1 < lane))
    { w with refused := w.refused.filter before ++ [(since, lane, addr, why)] ++ w.refused.filter (fun e => !before e) }

/-- The wave waits, its instruction not executed, while accesses of its own are still on the fabric: what a thread does next
comes after them in the order of every scope that both have (R240, R242). -/
def Iss.await (i : Iss) (s : State) : Option State :=
  if s.outstanding i.k then some (s.setWave i.k { i.w with busy := .remote }) else none

/-- The checks in their order: ARITH over `m` where the instruction makes it, JOBFAIL, refused stores. -/
def Iss.checks (i : Iss) (s : State) (arith : Option Mask) (jobs : Bool) : Option State :=
  match arith.bind (i.arithCheck s) with
  | some t => some t
  | none =>
    match (if jobs then i.jobCheck s else none) with
    | some t => some t
    | none => i.storeCheck s

/-! ## The fairness event (R59, R60) -/

/-- Whether the runnable threads of a wave stand at more than one PC. -/
def Wave.diverged (w : Wave) : Bool := !w.onePc w.runnable

/-- Once the runnable threads of a wave stand at one PC its fairness counter and its rover are zero (R59). -/
def Wave.settleFair (w : Wave) : Wave :=
  if w.runnable != 0 && !w.diverged then { w with fairCnt := 0, rover := 0 } else w

/-- The frontier group that a fairness event chooses: the lowest PC above the rover and the issue PC, or above the issue
PC. -/
def Wave.fairGroup (w : Wave) : Option (BitVec 64) :=
  let m := w.selectable
  match w.minPc m with
  | none => none
  | some p =>
    let above (b : Nat) : Mask := Mask.ofFn (fun l => m.has l && decide ((w.pcOf l).toNat > b))
    match w.minPc (above (max w.rover.toNat p.toNat)) with
    | some q => some q
    | none => w.minPc (above p.toNat)

/-- A fairness event: the counter restarts, the rover moves to the group chosen, and the wave's next run goes to it. -/
def Wave.fairness (w : Wave) : Wave :=
  match w.fairGroup with
  | some q => { w with fairCnt := 0, rover := q, pick := some q }
  | none => { w with fairCnt := 0 }

/-- Threads that gather at a barrier instruction, after every other thread of the wave has exited: they execute the
instruction again, together (R53, R264). -/
def Wave.regather (w : Wave) : Wave :=
  if w.alive != 0 && w.alive &&& w.gather == w.alive && !w.arrived then
    { w.unpark w.alive with gather := 0 }
  else w

/-! ## Memory operands (R213, R216) -/

/-- The global address of a lane. -/
def Rd.gaddr (r : Rd) (m : MemRef) (l : Nat) : DWord := r.val m.base .w64 l + (r.w32 m.off l).signExtend 64

/-- The scratchpad offset of a lane. -/
def Rd.saddr (r : Rd) (m : MemRef) (l : Nat) : Word := r.w32 m.base l + r.w32 m.off l

/-- Whether n bytes from an offset touch the notify granule (R283). -/
def Workgroup.onNotify (g : Workgroup) (e n : Nat) : Bool :=
  decide (0 < n) && decide (e < g.jnotify + 16) && decide (g.jnotify < e + n)

/-- Whether n bytes from an offset touch a wave's journal area (R375). -/
def Workgroup.onJournal (g : Workgroup) (e n : Nat) : Bool :=
  decide (0 < n) && decide (e < g.journal + g.jrnSize * g.nwaves) && decide (g.journal < e + n)

/-- What the check of a scratchpad access finds: ALIGN, PROT, or nothing (R210, R216, R283, R375). `wr` says that the
access would write the bytes or their full/empty bits, and `jr` that it is of the kind that a journal area refuses. -/
def State.scratchFault (s : State) (g : Workgroup) (e n align : Nat) (wr jr : Bool) : Option Cause :=
  if e % align ≠ 0 then some .align
  else if e + n > g.salloc then some .prot
  else if wr && g.onNotify e n then some .prot
  else if jr && g.jrnSize != 0 && g.onJournal e n then some .prot
  else if n = 0 then none
  else if (List.range ((e + n - 1) / 4096 - e / 4096 + 1)).all (fun j => s.quarterOk g (e / 4096 * 4096 + 4096 * j))
    then none
  else some .prot

/-- A trap of one lane on its address. -/
def Iss.laneTrap (i : Iss) (s : State) (c : Cause) (m : Mask) (addrs : Tab DWord) : State :=
  s.raise i.k (addrTrap c m i.pc addrs)

end Sys2Proof.Machine
end

