-- ==== Sys2Proof/Machine/FabOps.lean ====
section
/-! DEFINITION. FabOps.lean: sending on the fabric: headers, streams, reservations, and the places that an access to a
fabric page reaches (R337 to R347, R357 to R359). -/

namespace Sys2Proof.Machine

open Sys2Proof

/-! ## Operation codes and reasons (R338, R345) -/

/-- RDS. -/
def opRds : Nat := 0
/-- RDO. -/
def opRdo : Nat := 1
/-- WB. -/
def opWb : Nat := 2
/-- RDU. -/
def opRdu : Nat := 3
/-- WRU. -/
def opWru : Nat := 4
/-- ATM. -/
def opAtm : Nat := 5
/-- SIG. -/
def opSig : Nat := 6
/-- INV. -/
def opInv : Nat := 7
/-- IACK. -/
def opIack : Nat := 8
/-- DATA. -/
def opData : Nat := 9
/-- ACK. -/
def opAck : Nat := 10
/-- NACK. -/
def opNack : Nat := 11
/-- RETIRE. -/
def opRetire : Nat := 12
/-- RACK. -/
def opRack : Nat := 13
/-- ANNOUNCE. -/
def opAnnounce : Nat := 14

/-- WINDOW. -/
def nackWindow : Nat := 1
/-- OWNER. -/
def nackOwner : Nat := 2
/-- ENDPOINT-GONE. -/
def nackGone : Nat := 3
/-- UNREACHABLE. -/
def nackUnreach : Nat := 4
/-- STREAM. -/
def nackStream : Nat := 5

/-! ## Fields of an intermediate fabric address (R342) -/

/-- The target device. -/
def ifaDev (a : Nat) : Nat := bitsOf a 56 8
/-- The window. -/
def ifaWin (a : Nat) : Nat := bitsOf a 46 10
/-- The offset. -/
def ifaOff (a : Nat) : Nat := bitsOf a 0 46

/-! ## Windows (R344, R345) -/

/-- The permissions that a request needs of a window, as its bits [4:1]: R, W, A, C. DESIGN CHOICE (log entry 114): an atomic
that returns nothing needs no R. -/
def windowNeed (op : Nat) (reads : Bool) : Nat :=
  if op = opRds then 2 + 16
  else if op = opRdo then 4 + 16
  else if op = opWb ∨ op = opWru then 4
  else if op = opRdu then 2
  else if op = opAtm then (if reads then 2 else 0) + 8
  else 8

/-- The machine address that a window gives n bytes at an address, or the reason of the refusal. -/
def State.window (s : State) (vd ifa n need : Nat) : Nat ⊕ Nat :=
  match Tab.get? s.vds vd with
  | none => .inl nackGone
  | some v =>
    let e := (Tab.getD v.windows (ifaWin ifa) 0).toNat
    let o := ifaOff ifa
    if bitsOf e 0 1 = 0 ∨ o + n > 65536 * bitsOf e 56 24 ∨ Nat.land (bitsOf e 0 5) need ≠ need then .inl nackWindow
    else
      let a := bitsOf e 80 48 * 65536 + o
      if fotOwner (s.fotOf (a / 65536)) = vd then .inr a else .inl nackOwner

/-! ## Receive slots (R339, R340) -/

/-- Slots taken in a class: first from the reservation, then from the pool; none where the flits must wait. -/
def State.takeSlots (s : State) (vd cls n : Nat) : Option State :=
  match Tab.get? s.vds vd with
  | none => none
  | some v =>
    let k := vd * 8 + cls
    let used := Tab.getD s.slots k 0
    let free := v.reserved cls - used
    if n ≤ free then some { s with slots := Tab.set 0 s.slots k (used + n) }
    else if n - free ≤ s.poolFree then
      some { s with slots := Tab.set 0 s.slots k (used + n), pool := s.pool + (n - free) }
    else none

/-! ## Packets (R337, R357) -/

/-- The authenticated header bits [383:4]. -/
def Packet.auth (p : Packet) : Nat :=
  p.ifa.toNat * 2 ^ 320 + p.ctr.toNat * 2 ^ 272 + p.tinc.toNat * 2 ^ 256 + p.sinc.toNat * 2 ^ 240 +
  p.tvd.toNat * 2 ^ 231 + p.svd.toNat * 2 ^ 222 + p.tdev.toNat * 2 ^ 214 + p.sdev.toNat * 2 ^ 206 +
  p.oclass.toNat * 2 ^ 203 + p.op.toNat * 2 ^ 199 + p.ndata.toNat * 2 ^ 197 +
  (if p.epoch then 2 ^ 196 else 0) + p.opnd.toNat * 2 ^ 4

/-- The IV of a packet. -/
def Packet.iv (p : Packet) : BitVec 96 := p.sdev ++ p.svd ++ p.tdev ++ p.sinc ++ 0#7 ++ p.ctr

/-- The tag that a packet should carry under a key. -/
def Packet.mac (p : Packet) (key : BitVec 256) : BitVec 128 :=
  Config.gmac key (Packet.iv p) (p.data ++ leBytes (Packet.auth p) 48)

/-- A partition key: the newest, or the one before it. -/
def State.fabKey (s : State) (v : VDev) (newest : Bool) : BitVec 256 :=
  Tab.getD s.keys (if newest && v.fkeyn != 0 then v.fkeyn else v.fkey) 0

/-- A stream that nothing has used. -/
def Stream.fresh (epoch : Bool) (gen : Nat) : Stream := ⟨0, epoch, gen, epoch, gen, false, false, none, none⟩

/-- The stream to a device. -/
def VDev.stream (v : VDev) (dev : Nat) : Stream := Tab.getD v.streams dev (Stream.fresh v.epoch v.gen)

/-- A stream before its next packet: a pending key is taken up, EPOCH flips and CTR restarts (R358). -/
def Stream.turned (st : Stream) (gen : Nat) : Stream :=
  if st.gen = gen then st else { st with gen := gen, epoch := !st.epoch, ctr := 0, asked := false, stallAt := none }

/-- The virtual device of this device that a packet belongs to: for what another device sends, the one in whose partition map
the source stands. DESIGN CHOICE (log entry 113): the manual does not say how an intermediate finds it. 0 where there is none. -/
def State.localVd (s : State) (p : Packet) : Nat :=
  if p.sdev.toNat = s.devid then p.svd.toNat
  else match s.vds.find? (fun e => let m := Tab.getD e.2.pmap p.sdev.toNat ⟨false, 0, 0⟩; m.v && m.pvd == p.svd) with
    | some e => e.1
    | none => 0

/-- The class of an operation (R336). -/
def opClass (op : Nat) : Nat :=
  if op = opInv then 2 else if op ≥ opIack ∧ op ≤ opNack then 1 else if op ≥ opRetire then 6 else 0

/-- Data flits for a number of bytes. -/
def dataFlits (n : Nat) : Nat := if n = 0 then 0 else if n ≤ 64 then 1 else 2

/-- The fabric group of a rotation packet (R421). -/
def rotGrp (p : Packet) : Nat := (slice p.opnd 47 6).toNat

/-- The flits of a packet: its header and 0, 1 or 4 data flits. -/
def Packet.flits (p : Packet) : Nat := 1 + (if p.ndata.toNat = 2 then 4 else p.ndata.toNat)

/-- The flits of a packet that arrives, counted at a port. The matchings of the rotors are the world's (R20), so which port
carries a packet here is a free value. -/
def State.countFlits (s : State) (p : Packet) : State := s.countPort ((s.fresh 250).toNat % 16) 0x81 (Packet.flits p)

/-- One packet handed to the ports on a stream: its counter rises, a pending key is taken up first (R358). A stream that has
used its last counter stalls and sends nothing (R359). -/
def State.sendPacket (s : State) (vd dev tvd tinc op : Nat) (cls : Nat) (opnd : BitVec 192) (ifa : Nat)
    (data : List Byte) : Option State :=
  match Tab.get? s.vds vd with
  | none => none
  | some v =>
    let st := (v.stream dev).turned v.gen
    if st.fault then none
    else if st.ctr ≥ 2 ^ 48 then
      none
    else
      let p : Packet := ⟨BitVec.ofNat 3 cls, BitVec.ofNat 3 cls, false, BitVec.ofNat 4 op, opnd, st.epoch,
        BitVec.ofNat 2 (dataFlits data.length), BitVec.ofNat 8 s.devid, BitVec.ofNat 8 dev, BitVec.ofNat 9 vd,
        BitVec.ofNat 9 tvd, v.inc, BitVec.ofNat 16 tinc, BitVec.ofNat 48 st.ctr, BitVec.ofNat 64 ifa, 0, data⟩
      let p := { p with tag := Packet.mac p (s.fabKey v true) }
      let ask := !st.asked && decide (st.ctr + 1 ≥ 2 ^ 47)
      let st := { st with ctr := st.ctr + 1, asked := st.asked || ask }
      let s := if ask then s.irq vd 4 0 else s
      some { s.modVd vd (fun v => { v with streams := Tab.put v.streams dev st }) with out := s.out ++ [p] }

/-- A stream that can send nothing more without a key stalls from now on (R359). -/
def State.markStall (s : State) (vd dev : Nat) : State :=
  match Tab.get? s.vds vd with
  | none => s
  | some v =>
    let st := v.stream dev
    if st.ctr ≥ 2 ^ 48 && st.gen == v.gen && st.stallAt.isNone && !st.fault then
      (s.modVd vd (fun v => { v with streams := Tab.put v.streams dev { st with stallAt := some s.clock } })).irq vd 4 0
    else s

/-- A packet sent once its stream can send it: until then it waits, behind those of its stream that wait already (R359). -/
def State.sendOrWait (s : State) (m : Unsent) : State :=
  let wait : State := { s.markStall m.vd m.dev with unsent := s.unsent ++ [m] }
  if s.unsent.any (fun x => x.vd == m.vd && x.dev == m.dev) then wait
  else (s.sendPacket m.vd m.dev m.tvd m.tinc m.op m.cls m.opnd m.ifa m.data).getD wait

/-- The packets whose stream held them back are sent as far as they can be, oldest first. -/
def State.sendUnsent (s : State) : State := s.unsent.foldl State.sendOrWait { s with unsent := [] }

/-- A request sent, where the target is a member (R343), its stream and its reply reservation allow, and no write-back of
the same line is on its way: a home sees a write-back before what the same virtual device asks of the line later. -/
def State.trySend (s : State) (r : FabReq) (before : List FabReq) : Option State :=
  match Tab.get? s.vds r.vd with
  | none => none
  | some v =>
    let e := Tab.getD v.pmap r.dev ⟨false, 0, 0⟩
    if !e.v || before.any (fun q => q.op == opWb && q.vd == r.vd && q.ifa / 64 == r.ifa / 64) then none
    else (s.takeSlots r.vd 1 (replySlots r.op)).bind (fun s =>
      s.sendPacket r.vd r.dev e.pvd.toNat e.inc.toNat r.op 0 r.opnd r.ifa r.data)

/-- The requests that wait are sent as far as they can be, oldest first. -/
def pumpGo (s : State) : List FabReq → List FabReq → State
  | [], done => { s with reqs := done }
  | r :: rest, done =>
    if r.sent then pumpGo s rest (done ++ [r])
    else match s.trySend r done with
      | some t => pumpGo t rest (done ++ [{ r with sent := true }])
      | none => pumpGo (s.markStall r.vd r.dev) rest (done ++ [r])
/-- The same over every request. -/
def State.pump (s : State) : State := pumpGo s s.reqs []

/-- A new request. -/
def State.request (s : State) (r : FabReq) : State := State.pump { s with reqs := s.reqs ++ [r] }

/-- The attributes of a request: size in [15:8], operation in [23:16], element kind in [31:24], byte mask in
[127:64]. -/
def attrs (size op kind mask : Nat) : BitVec 192 :=
  BitVec.ofNat 192 (size * 2 ^ 8 + op * 2 ^ 16 + kind * 2 ^ 24 + mask * 2 ^ 64)

/-! ## The places of an access (R342, R343, R347) -/

/-- Where n bytes of a fabric page lie: this device's own memory through its own window, a line held here, a request to a
peer, or a refusal. -/
inductive FabPlace where
  | own (addr : Nat)
  | refused (reason : Nat)
  | peer (dev : Nat) (cached : Bool) (hold : Option Hold)
  deriving DecidableEq, Repr

/-- The line of a peer that is held here for a virtual device (R347). -/
def State.peerLine (s : State) (vd ifa : Nat) : Option Line :=
  (Tab.get? s.llc (lineKey .fab ifa)).filter (fun l => l.vd == vd)

/-- The place of bytes within one line. -/
def State.fabPlace (s : State) (vd ifa n need : Nat) : FabPlace :=
  let dev := ifaDev ifa
  if dev = s.devid then
    match s.window vd ifa n need with
    | .inr a => .own a
    | .inl r => .refused r
  else match Tab.get? s.vds vd with
    | none => .refused nackGone
    | some v =>
      if !(Tab.getD v.pmap dev ⟨false, 0, 0⟩).v then .refused nackUnreach
      else if (v.stream dev).fault then .refused nackStream
      else
        let held := (s.peerLine vd ifa).map (fun l => l.hold)
        .peer dev (Config.windowCached dev (Tab.getD v.pmap dev ⟨false, 0, 0⟩).pvd.toNat (ifaWin ifa)) held

/-- The pieces of an access cut at 64-byte lines, with the position of each in the access. -/
def cutLines (l : List Piece) (pos : Nat) : List (Piece × Nat) :=
  match l with
  | [] => []
  | p :: r =>
    let cuts := (linesOf p.loc.addr p.len).map (fun a =>
      let lo := max a p.loc.addr
      let hi := min (a + 64) (p.loc.addr + p.len)
      ((⟨⟨p.loc.space, lo⟩, p.va + (lo - p.loc.addr), hi - lo⟩ : Piece), pos + (lo - p.loc.addr)))
    cuts ++ cutLines r (pos + p.len)

/-- A line of a peer that this device holds no longer. -/
def State.dropPeerLine (s : State) (ifa : Nat) : State :=
  { s with
    llc := Tab.del s.llc (lineKey .fab ifa)
    peer := s.peer.filter (fun c => c.1 / 64 != ifa / 64) }

/-- A copy of a peer line written back and invalidated before an atomic or a copy-engine access (R349). -/
def State.recallPeerLine (s : State) (vd ifa : Nat) : State :=
  match s.peerLine vd ifa with
  | none => s
  | some l =>
    let a := ifa / 64 * 64
    let bs := cellsGet s.peer a 64
    let s := (s.dropPeerLine ifa).dropL1 (lineKey .fab ifa)
    if l.dirty then
      (s.countLlc l.vd (homeSlice a) 0x43 1).request ⟨.evict vd l.ctx, 0, 0, 64, opWb, attrs 64 0 0 l.wrote.toNat, bs, a, l.va, vd, ifaDev ifa, false⟩
    else s

/-- A line of another virtual device at the same intermediate fabric address leaves the cache (R347). -/
def State.claimPeer (s : State) (vd ifa : Nat) : State :=
  match Tab.get? s.llc (lineKey .fab ifa) with
  | some l => if l.vd = vd then s else (s.evictLine (lineKey .fab ifa)).dropL1 (lineKey .fab ifa)
  | none => s

/-- A line written back for a wave: a dirty peer line of its virtual device goes to its home by a WB that the wave waits
for, and is then held shared. -/
def State.flushLine (s : State) (k vd key : Nat) (remove : Bool) : State :=
  match Tab.get? s.llc key with
  | none => if remove then s.dropL1 key else s
  | some ln =>
    let a := key % 2 ^ 60 * 64
    if key / 2 ^ 60 = 3 ∧ ln.vd ≠ vd then s
    else
      let s := if key / 2 ^ 60 = 3 ∧ ln.dirty = true then
          State.countLlc { s with
            reqs := s.reqs ++ [⟨.flush k, 0, 0, 64, opWb, attrs 64 0 0 ln.wrote.toNat, cellsGet s.peer a 64, a, ln.va, vd,
              ifaDev a, false⟩]
            llc := Tab.put s.llc key { ln with dirty := false, stale := [], wrote := 0, hold := .shared } } ln.vd
              (homeSlice a) 0x43 1
        else s
      let s := s.writeBack key remove
      if remove then s.dropL1 key else s

/-- What a virtual device has written on peer lines that it holds shared goes to their homes, where a release or a fence of
group scope or wider publishes it (R240, R256, R347). -/
def State.publishShared (s : State) (k vd : Nat) : State :=
  let l := s.llc.filter (fun e => e.1 / 2 ^ 60 == 3 && e.2.vd == vd && e.2.dirty && e.2.hold != .owned)
  l.foldl (fun s e => s.flushLine k vd e.1 false) s

/-! ## The directory of lines homed here (R348) -/

/-- A line that no other device holds. -/
def DirEntry.none : DirEntry := ⟨.none, [], .none, .none, []⟩

/-- The directory entry of a line, by its number. -/
def State.dirAt (s : State) (line : Nat) : DirEntry := Tab.getD s.dir line DirEntry.none

/-- An entry set. -/
def State.setDir (s : State) (line : Nat) (e : DirEntry) : State := { s with dir := Tab.set DirEntry.none s.dir line e }

/-- The intermediate fabric addresses by which peers name a line: one for each window with C = 1 that covers it. -/
def State.namesOf (s : State) (vd line : Nat) : List Nat :=
  match Tab.get? s.vds vd with
  | none => []
  | some v => v.windows.filterMap (fun e =>
      let x := e.2.toNat
      let base := bitsOf x 80 48 * 65536
      let a := line * 64
      if bitsOf x 0 1 = 1 ∧ bitsOf x 4 1 = 1 ∧ base ≤ a ∧ a < base + 65536 * bitsOf x 56 24 then
        some (s.devid * 2 ^ 56 + e.1 * 2 ^ 46 + (a - base))
      else none)

/-- The devices that must give a line up before an access: its owner, and for a write every sharer. -/
def State.mustYield (s : State) (vd line : Nat) (write : Bool) (but : Nat) : List (Nat × Nat) :=
  let e := s.dirAt line
  let all : List (Nat × Nat) := match Tab.get? s.vds vd with
    | some v => (v.pmap.filter (fun m => m.2.v && m.1 != s.devid)).map (fun m => (m.1, m.2.pvd.toNat))
    | none => []
  let l := e.owner.toList ++ (if write then (if e.tenant.isSome then all else e.sharers) else [])
  (l.eraseDups).filter (fun x => x.1 != but)

/-- INV sent to devices for a line: the state, and the devices whose IACK is awaited, one for each INV. One that its stream
holds back is awaited as well. -/
def State.sendInvs (s : State) (vd line : Nat) (l : List (Nat × Nat)) : State × List Nat :=
  l.foldl (fun (x : State × List Nat) d =>
    (s.namesOf vd line).foldl (fun (x : State × List Nat) ifa =>
      let tinc := match Tab.get? x.1.vds vd with
        | some v => (Tab.getD v.pmap d.1 ⟨false, 0, 0⟩).inc.toNat
        | Option.none => 0
      (x.1.sendOrWait ⟨vd, d.1, d.2, tinc, opInv, 2, 0, ifa, []⟩, x.2 ++ [d.1])) x) (s, [])

/-- The mark of a recall that an access of this device began. -/
def localRecall : Packet := ⟨0, 0, false, 15, 0, false, 0, 0, 0, 0, 0, 0, 0, 0, 0, 0, []⟩

/-- A line recalled for an access. The state in which the access waits, or none where nothing holds it back. -/
def State.recallLine (s : State) (line : Nat) (write : Bool) (but : Nat) (p : Packet) : Option State :=
  let vd := fotOwner (s.fotOf (line / 1024))
  let e := s.dirAt line
  if e.pending.isSome then some s
  else match s.mustYield vd line write but with
    | [] => none
    | l =>
      let r := s.sendInvs vd line l
      if r.2.isEmpty then none else some (r.1.setDir line { r.1.dirAt line with pending := some (p, r.2) })

/-- A place of a fabric page of this device's own, in its memory. -/
def State.homePlace (s : State) (vd : Nat) (l : Loc) : Loc :=
  if l.space = .fab ∧ ifaDev l.addr = s.devid then
    match s.window vd l.addr 1 0 with
    | .inr a => ⟨.dev, a⟩
    | .inl _ => l
  else l

/-- Every line of some places recalled for an access of this device; none where nothing holds it back. -/
def State.recallPlaces (s : State) (write : Bool) (ps : List (Loc × Nat)) : Option State :=
  if s.dir.isEmpty then none
  else
    let lines := ps.flatMap (fun p => if p.1.space = .dev then (linesOf p.1.addr p.2).map (· / 64) else [])
    let r := lines.foldl (fun (x : State × Bool) n =>
      match x.1.recallLine n write 256 { localRecall with ifa := if write then 1 else 0 } with
      | some t => (t, true)
      | none => x) (s, false)
    if r.2 then some r.1 else none

end Sys2Proof.Machine
end

