-- ==== Sys2Proof/Machine/Memory.lean ====
section
/-! DEFINITION. Memory.lean: loads and stores of global memory and of the scratchpad, full/empty access, a gang member's
scratchpad, and compacting stores (R212 to R228, R233). -/

namespace Sys2Proof.Machine

open Sys2Proof

/-! ## Sizes and registers (R214, R215) -/

/-- The bytes of an access size. -/
def msize : MSize → Nat
  | .b8 => 1
  | .b16 => 2
  | .b32 => 4
  | .b64 => 8
  | .b128 => 16

/-- The registers of an access of n bytes. -/
def regCount (n : Nat) : Nat := if n ≤ 4 then 1 else n / 4

/-- The code of a destination register. -/
def regCode : RegDst → BitVec 7
  | .v n => BitVec.ofNat 7 n.toNat
  | .s n => BitVec.ofNat 7 (64 + n.toNat)

/-- Whether a destination makes a scalar form. -/
def regScalar : RegDst → Bool
  | .v _ => false
  | .s _ => true

/-- The vector and scalar registers that a destination code names, for k registers. -/
def codeRegs (d : BitVec 7) (k : Nat) : List Nat × List Nat :=
  if d.toNat < 64 then ((List.range k).map (d.toNat + ·), []) else ([], (List.range k).map (d.toNat - 64 + ·))

/-- Consecutive words in the registers of a code. -/
def Wave.setRegs (w : Wave) (d : BitVec 7) (lane : Nat) (ws : List Word) : Wave :=
  match ws with
  | [] => w
  | x :: r =>
    let w := if d.toNat < 64 then w.setV d.toNat lane x else w.setS (d.toNat - 64) x
    w.setRegs (d + 1) lane r

/-- Bytes as words, four at a time. -/
def wordsOf : List Byte → List Word
  | a :: b :: c :: d :: r => (d ++ c ++ b ++ a) :: wordsOf r
  | _ => []

/-- The words that loaded bytes give: 8 and 16 bits are extended (R215). -/
def loadWords (sx : Bool) (bs : List Byte) : List Word :=
  match bs with
  | [a] => [if sx then a.signExtend 32 else a.setWidth 32]
  | [a, b] => [if sx then (b ++ a).signExtend 32 else (b ++ a).setWidth 32]
  | bs => wordsOf bs

/-- The bytes that a store takes from its data operand in a lane. -/
def Rd.bytes (r : Rd) (a : Src) (n l : Nat) : List Byte :=
  if n ≤ 8 then leBytes (r.val a (if n = 8 then .w64 else .w32) l).toNat n
  else match a with
    | .v k => (List.range 4).flatMap (fun j => leBytes (r.w.getV (k.toNat + j) l).toNat 4)
    | .s k => (List.range 4).flatMap (fun j => leBytes (r.w.getS (k.toNat + j)).toNat 4)
    | _ => List.replicate n 0

/-- The lanes that make an access: each participating lane, or one for all in a scalar form. -/
def Iss.who (i : Iss) (scalar : Bool) : List Nat :=
  if scalar then match i.part.lowest with
    | some l => [l]
    | none => []
  else i.part.lanes

/-- The lanes for which a lane's access stands. -/
def Iss.for (i : Iss) (scalar : Bool) (l : Nat) : Mask := if scalar then i.part else Mask.one l

/-! ## Waiting for the fabric (R240, R346) -/

/-- What a release at a scope (a number, after demotion) does before its effect: it reports refused stores (R346), at group
scope or wider it sends home what was written on shared peer lines, and it waits until every earlier access of its wave has
been performed at its scope (R240). The state in which it stands, or none where it goes on. -/
def Iss.releaseAt (i : Iss) (s : State) (scope : Nat) : Option State :=
  match i.storeCheck s with
  | some t => some t
  | none => i.await (if scope ≤ 6 then s else s.publishShared i.k (s.agentOf i.k i.w 0).vd)

/-- The same, where the instruction is a release. -/
def Iss.release (i : Iss) (s : State) (rel : Bool) (scope : Option Scope) : Option State :=
  if rel then i.releaseAt s (s.scopeOf i.w scope).1 else none

/-! ## The checks and the translation of an instruction's accesses (R216, R217) -/

/-- What the check and the translation of one access find. -/
inductive LaneX where
  | ok (ps : List Piece)
  | wait (va : Nat)
  | bad (c : Cause)
  deriving DecidableEq, Repr

/-- One access of n bytes checked and translated. -/
def State.laneX (s : State) (g : Agent) (a : DWord) (n align : Nat) (wr : Bool) : LaneX × State :=
  if !canonical a || a.toNat % align != 0 then (.bad .align, s)
  else
    let r := s.span g (vaOf a) n wr
    (match r.1 with
      | .ok ps => .ok ps
      | .absent va => .wait va
      | .prot => .bad .prot
      | .xlate => .bad .xlate, r.2)

/-- Every lane's access checked and translated. -/
def State.lanesX (s : State) (g : Agent) (n align : Nat) (wr : Bool) : List (Nat × DWord) → List (Nat × LaneX) × State
  | [] => ([], s)
  | (l, a) :: r =>
    let x := s.laneX g a n align wr
    let t := x.2.lanesX g n align wr r
    ((l, x.1) :: t.1, t.2)

/-- The cause of the lowest lane that has a fault. -/
def firstBad (l : List (Nat × LaneX)) : Option Cause :=
  l.findSome? (fun e => match e.2 with | .bad c => some c | _ => none)

/-- A lane that parks on an absent page: its fault is queued (R217, R451). `grp` numbers its park group. -/
def Iss.parkPage (i : Iss) (s : State) (m : Mask) (va grp : Nat) (wr : Bool) : Iss × State :=
  ({ i with w := i.w.park m 1 (.page va wr) grp }, s.pageFault (s.agentOf i.k i.w 0) va (!wr) wr false)

/-- The accesses of one instruction to global memory. The trap of the lowest faulting lane comes first; then the lanes
whose page is absent park; then `f` performs the accesses of the others, or answers none where the instruction stalls in
a speculation. Accesses of the wave that are still on the fabric come first. `f` receives the lanes with their pieces and the
lanes that move on. -/
def Iss.global (i : Iss) (s : State) (scalar : Bool) (addr : Nat → DWord) (n align : Nat) (wr : Bool)
    (f : Iss → List (Nat × List Piece) → Mask → State → Option State) : State :=
  match i.await s with
  | some t => t
  | none =>
  let g := s.agentOf i.k i.w 0
  let x := s.lanesX g n align wr ((i.who scalar).map (fun l => (l, addr l)))
  match firstBad x.1 with
  | some c =>
    let bad := (x.1.filter (fun e => e.2 == .bad c)).map Prod.fst
    let m := if scalar && c == .xlate then i.part else bad.foldl (fun m l => m ||| Mask.one l) 0
    i.laneTrap x.2 c m (m.lanes.map (fun l => (l, addr (if scalar then i.lane else l))))
  | none =>
    let ok := x.1.filterMap (fun e => match e.2 with | .ok ps => some (e.1, ps) | _ => none)
    let p := x.1.foldl (fun (p : Iss × State × Mask) e => match e.2 with
      | .wait va =>
        let q := p.1.parkPage p.2.1 (i.for scalar e.1) va (s.nextId + e.1) wr
        (q.1, q.2, p.2.2 ||| i.for scalar e.1)
      | _ => p) (i, { x.2 with nextId := x.2.nextId + 32 }, 0)
    match x.2.recallPlaces wr (ok.flatMap (fun e => e.2.map (fun q => (x.2.homePlace g.vd q.loc, q.len)))) with
    | some t => t.setWave i.k { i.w with busy := .remote }
    | none =>
    match f p.1 ok (i.act &&& ~~~p.2.2) p.2.1 with
    | some t => t
    | none => x.2.stallSpec i.k

/-! ## Held stores of a speculation (R233) -/

/-- The space code of a held record for a place. -/
def Loc.held (l : Loc) : Nat := match l.space with | .dev => 1 | .host => 2 | .fab => 3

/-- Bytes cut at 16-byte granules. -/
def cut16 (space addr va : Nat) (bs : List Byte) (fe : Bool) : List HeldStore :=
  (List.range ((addr + bs.length + 15) / 16 - addr / 16)).map (fun j =>
    let lo := max addr ((addr / 16 + j) * 16)
    let hi := min (addr + bs.length) ((addr / 16 + j + 1) * 16)
    ⟨space, lo, va + (lo - addr), (bs.drop (lo - addr)).take (hi - lo), fe⟩)

/-- The records of a store to pieces. -/
def heldOf (ps : List Piece) (bs : List Byte) : List HeldStore :=
  match ps with
  | [] => []
  | p :: r => cut16 p.loc.held p.loc.addr p.va (bs.take p.len) false ++ heldOf r (bs.drop p.len)

/-- The byte that the newest record holds for a place, if one does. -/
def heldByte (l : List HeldStore) (space addr : Nat) : Option Byte :=
  l.reverse.findSome? (fun h =>
    if h.space = space ∧ h.addr ≤ addr then h.bytes[addr - h.addr]? else none)

/-- The held records of a wave. -/
def Wave.heldStores (w : Wave) : List HeldStore := match w.spec with | some sp => sp.stores | none => []

/-- Bytes read at a place, with the wave's own records in front. -/
def Wave.forward (w : Wave) (space addr : Nat) (bs : List Byte) : List Byte :=
  match w.heldStores with
  | [] => bs
  | l => bs.mapIdx (fun j b => (heldByte l space (addr + j)).getD b)

/-- Records added to an open speculation. -/
def Wave.addHeld (w : Wave) (rs : List HeldStore) : Wave :=
  { w with spec := w.spec.map (fun sp => { sp with stores := sp.stores ++ rs }) }

/-- Records held by an open speculation; none where the journal has no room (R375). -/
def State.hold (s : State) (w : Wave) (rs : List HeldStore) : Option Wave :=
  (s.permit w [] [] false rs.length).map (fun w => w.addHeld rs)

/-! ## A wave's loads and stores through the caches (R203, R221) -/

/-- A line of a wave's load: the L1 serves a scope it covers, else the home slice is reached. -/
def State.waveTouch (s : State) (g : Agent) (scope : Nat) (low : Bool) (p : Piece) : State :=
  (linesOf p.loc.addr p.len).foldl (fun s a =>
    let l : Loc := ⟨p.loc.space, max a p.loc.addr⟩
    let r := s.l1Access g.core g.vd l false low
    let near := scope ≤ 2 || (scope == 3 && (s.core (8 * clusterOf g.core)).fused)
    if r.1 && near then r.2 else r.2.touch g.vd g.ctx (p.va + (a - p.loc.addr)) l false low) s

/-- A wave's store of bytes to one piece of this device's or the host's memory. -/
def State.waveStore (s : State) (g : Agent) (low : Bool) (p : Piece) (bs : List Byte) : State :=
  let s := (linesOf p.loc.addr p.len).foldl (fun s a =>
    (s.l1Access g.core g.vd ⟨p.loc.space, max a p.loc.addr⟩ true low).2) s
  s.storeAt g.vd g.ctx p.va p.loc bs low

/-- What a load has read so far: its state, the bytes by position, requests still to be answered, a refusal. -/
structure LoadPart where
  s     : State
  bytes : List (Nat × Byte)
  sent  : Bool
  rej   : Option Nat
  deriving Repr

/-- One line piece of a load on a fabric page (R347): this device's own window, a line held here, or a request. -/
def LoadPart.fab (x : LoadPart) (g : Agent) (w : Wave) (who : FabWho) (next : BitVec 64) (scope : Nat) (low : Bool)
    (e : Piece × Nat) : LoadPart :=
  let p := e.1
  let put (bs : List Byte) : List (Nat × Byte) := x.bytes ++ bs.mapIdx (fun j b => (e.2 + j, b))
  match x.s.fabPlace g.vd p.loc.addr p.len 2 with
  | .refused r => { x with rej := some (x.rej.getD r) }
  | .own a =>
    let q : Piece := ⟨⟨.dev, a⟩, p.va, p.len⟩
    { x with s := x.s.waveTouch g scope low q, bytes := put (w.forward q.loc.held a (x.s.readBytes q.loc p.len)) }
  | .peer dev cached hold =>
    match hold with
    | some h =>
      if scope ≤ 6 || h == .owned then
        { x with s := x.s.waveTouch g scope low p, bytes := put (x.s.readBytes p.loc p.len) }
      else
        { x with
          s := x.s.request ⟨who, next, e.2, p.len, opRds, attrs 64 0 0 0, [], p.loc.addr / 64 * 64, p.va, g.vd, dev, false⟩
          sent := true }
    | none =>
      let r : FabReq := if cached then
          ⟨who, next, e.2, p.len, opRds, attrs 64 0 0 0, [], p.loc.addr / 64 * 64, p.va, g.vd, dev, false⟩
        else ⟨who, next, e.2, p.len, opRdu, attrs p.len 0 0 0, [], p.loc.addr, p.va, g.vd, dev, false⟩
      { x with s := x.s.request r, sent := true }

/-- One piece of a load. -/
def LoadPart.piece (x : LoadPart) (g : Agent) (w : Wave) (who : FabWho) (next : BitVec 64) (scope : Nat) (low : Bool)
    (pos : Nat) (p : Piece) : LoadPart :=
  if p.isFab then (cutLines [p] pos).foldl (fun x e => x.fab g w who next scope low e) x
  else
    let bs := w.forward p.loc.held p.loc.addr (x.s.readBytes p.loc p.len)
    { x with s := x.s.waveTouch g scope low p, bytes := x.bytes ++ bs.mapIdx (fun j b => (pos + j, b)) }

/-- The pieces of a load in order. -/
def LoadPart.pieces (x : LoadPart) (g : Agent) (w : Wave) (who : FabWho) (next : BitVec 64) (scope : Nat) (low : Bool)
    (pos : Nat) : List Piece → LoadPart
  | [] => x
  | p :: r => (x.piece g w who next scope low pos p).pieces g w who next scope low (pos + p.len) r

/-- The bytes of an access of n bytes by position. -/
def bytesAt (l : List (Nat × Byte)) (n : Nat) : List Byte :=
  (List.range n).map (fun j => ((l.find? (fun e => e.1 == j)).map Prod.snd).getD 0)

/-- The wave after the end of a fabric access whose lanes were refused: PROT with DETAIL 1 at the instruction (R346). -/
def State.reportRejected (s : State) (k : Nat) (pc : BitVec 64) : State :=
  match Tab.get? s.waves k with
  | none => s
  | some w =>
    if w.rejected.isEmpty then s
    else
      let t := refusedTrap w.rejected pc
      (s.setWave k { w with rejected := [] }).raise k
        { t with addr := Tab.getD t.addrs (t.mask.lowest.getD 0) 0 }

/-- The performed lanes of a load: registers written, lanes moved on; lanes whose bytes are still on their way wait at
the instruction with the wave. -/
def Iss.loadLanes (i : Iss) (s : State) (scalar : Bool) (d : BitVec 7) (n : Nat) (sx low : Bool) (scope : Option Scope)
    (ok : List (Nat × List Piece)) (move : Mask) (addr : Nat → DWord) : Option State :=
  let g := s.agentOf i.k i.w 0
  let regs := if ok.isEmpty then ([], []) else codeRegs d (regCount n)
  (s.permit i.w regs.1 regs.2 false 0).map (fun w =>
    let sc := s.scopeOf w scope
    let w := if ok.isEmpty then w else sc.2
    let r := ok.foldl (fun (r : State × Wave × Mask × Bool) e =>
      let x := (LoadPart.mk r.1 [] false none).pieces g w (.load i.k e.1 d n sx low) i.next sc.1 low 0 e.2
      let m := i.for scalar e.1
      let wv := r.2.1
      match x.rej with
      | some why =>
        (x.s, { wv with rejected := wv.rejected ++ m.lanes.map (fun l => (l, (addr e.1).toNat, why)) },
          r.2.2.1 ||| m, r.2.2.2 || x.sent)
      | none =>
        if x.sent then
          (x.s, { wv with inbuf := wv.inbuf ++ x.bytes.map (fun b => (e.1, b.1, b.2)) }, r.2.2.1 ||| m, true)
        else (x.s, wv.setRegs d e.1 (loadWords sx (bytesAt x.bytes n)), r.2.2.1, r.2.2.2)) (s, w, 0, false)
    let w := r.2.1.goto (move &&& ~~~r.2.2.1) i.next
    let w := if r.2.2.2 then { w with busy := .remote } else w
    let s := r.1.setWave i.k w
    if r.2.2.2 then s else (s.sampleFree (coreOf i.k) g.vd 1 240).reportRejected i.k i.pc)

/-- One line piece of a store to `va` on a fabric page (R347). -/
def State.storeFab (s : State) (k lane va : Nat) (g : Agent) (scope : Nat) (low : Bool) (p : Piece) (bs : List Byte) :
    State × Option Nat :=
  match s.fabPlace g.vd p.loc.addr p.len 4 with
  | .refused r => (s, some r)
  | .own a => (s.waveStore g low ⟨⟨.dev, a⟩, p.va, p.len⟩ bs, none)
  | .peer dev cached hold =>
    let near : Bool := match hold with
      | some h => scope ≤ 6 || h == .owned
      | none => false
    if near then (s.waveStore g low p bs, none)
    else if cached then
      (s.request ⟨.own k lane s.clock va bs low, 0, 0, p.len, opRdo, attrs 64 0 0 0, [], p.loc.addr / 64 * 64, p.va, g.vd,
        dev, false⟩, none)
    else (s.request ⟨.store k lane s.clock va, 0, 0, p.len, opWru, attrs p.len 0 0 0, bs, p.loc.addr, p.va, g.vd, dev,
      false⟩, none)

/-- One lane's store to `va` outside a speculation: pieces in increasing address. The reason of a refusal that this device
makes itself is the second answer. -/
def State.storePieces (s : State) (k lane va : Nat) (g : Agent) (scope : Nat) (low : Bool) (ps : List Piece)
    (bs : List Byte) : State × Option Nat :=
  match ps with
  | [] => (s, none)
  | p :: r =>
    let x := if p.isFab then (cutLines [p] 0).foldl (fun (x : State × Option Nat) e =>
        let y := x.1.storeFab k lane va g scope low e.1 ((bs.drop e.2).take e.1.len)
        (y.1, x.2.or y.2)) (s, none)
      else (s.waveStore g low p (bs.take p.len), none)
    let t := x.1.storePieces k lane va g scope low r (bs.drop p.len)
    (t.1, x.2.or t.2)

/-- The wave after a store of a lane to `va`, with its refusal noted. -/
def Wave.afterStore (w : Wave) (clock lane va : Nat) (why : Option Nat) : Wave :=
  match why with
  | some y => w.noteRefused clock lane va y
  | none => w

/-- The performed lanes of a store. -/
def Iss.storeLanes (i : Iss) (s : State) (low : Bool) (scope : Option Scope) (ok : List (Nat × List Piece))
    (move : Mask) (addr : Nat → DWord) (data : Nat → List Byte) : Option State :=
  let g := s.agentOf i.k i.w 0
  let sc := s.scopeOf i.w scope
  let w := if ok.isEmpty then i.w else sc.2
  if i.w.spec.isSome then
    if ok.any (fun e => e.2.any Piece.isFab) then none
    else (s.hold w (ok.flatMap (fun e => heldOf e.2 (data e.1)))).map (fun w =>
      s.setWave i.k (w.goto move i.next))
  else
    let r := ok.foldl (fun (r : State × Wave) e =>
      let x := r.1.storePieces i.k e.1 (addr e.1).toNat g sc.1 low e.2 (data e.1)
      (x.1, r.2.afterStore s.clock e.1 (addr e.1).toNat x.2)) (s, w)
    some (r.1.setWave i.k (r.2.goto move i.next))

/-! ## The instructions on global memory -/

/-- Whether the fields of an instruction without a destination make it a scalar form (R214). -/
def scalarFields (l : List Src) : Bool := l.all (fun x => !x.isV)

/-- A load of global memory. -/
def loadIssue (h : Hdr) (d : RegDst) (m : MemRef) (sz : MSize) (sx low : Bool) (scope : Option Scope) (s : State) :
    Res :=
  issue h (instrLen [m.base, m.off]) .proceeds true s (fun i s =>
    let sc := regScalar d
    let rd := i.rd s sc
    i.global s sc (rd.gaddr m) (msize sz) 1 false (fun i ok mv s =>
      i.loadLanes s sc (regCode d) (msize sz) sx low scope ok mv (rd.gaddr m)))

/-- A store to global memory. -/
def storeIssue (h : Hdr) (m : MemRef) (a : Src) (sz : MSize) (rel low : Bool) (scope : Option Scope) (s : State) : Res :=
  issue h (instrLen [m.base, a, m.off]) .proceeds true s (fun i s =>
    if i.part = 0 then s.setWave i.k (i.step i.w)
    else match i.release s rel scope with
      | some t => t
      | none =>
        let sc := scalarFields [m.base, a, m.off]
        let rd := i.rd s sc
        i.global s sc (rd.gaddr m) (msize sz) 1 true (fun i ok mv s =>
          i.storeLanes s low scope ok mv (rd.gaddr m) (rd.bytes a (msize sz))))

/-- LD. -/
def execLd (h : Hdr) (d : RegDst) (m : MemRef) (sz : MSize) (sx _acq : Bool) (scope : Option Scope) (s : State) : Res :=
  loadIssue h d m sz sx false scope s

/-- LDU. -/
def execLdu (h : Hdr) (d : RegDst) (m : MemRef) (sz : MSize) (sx _acq : Bool) (scope : Option Scope) (s : State) : Res :=
  loadIssue h d m sz sx true scope s

/-- ST. -/
def execSt (h : Hdr) (m : MemRef) (a : Src) (sz : MSize) (rel : Bool) (scope : Option Scope) (s : State) : Res :=
  storeIssue h m a sz rel false scope s

/-- STU. -/
def execStu (h : Hdr) (m : MemRef) (a : Src) (sz : MSize) (rel : Bool) (scope : Option Scope) (s : State) : Res :=
  storeIssue h m a sz rel true scope s

/-! ## The scratchpad (R208 to R211, R220, R222 to R225) -/

/-- Cycles that a scratchpad access loses to bank conflicts (R209). -/
def bankConflicts (rows : List Nat) : Nat :=
  let rs := rows.eraseDups
  (rs.map (fun r => (rs.filter (fun q => q / 128 == r / 128)).length)).foldl max 0 - 1

/-- The conflicts of an access counted. -/
def State.countBanks (s : State) (k : Nat) (g : Workgroup) (es : List Nat) : State :=
  if (s.sp (spOf k)).bank.ctl.isEmpty then s
  else s.countSp (spOf k) 0x08 (bankConflicts (es.map (fun e => scratchByte g e / 128)))

/-- The accesses of one instruction to scratchpads: `own` gives the workgroup whose range a lane names, or none where
there is none (PROT). Accesses of the wave that are still on the fabric come first, then the trap of the lowest faulting
lane, then `f` performs the accesses. DEDUCED (log entry 76): a member that is not there raises PROT before E is checked. -/
def Iss.local (i : Iss) (s : State) (scalar : Bool) (addr : Nat → Word) (own : Nat → Option Workgroup)
    (n : Nat → Nat) (align : Nat) (bad : Nat → Bool) (wr jr : Bool) (f : State → Option State) : State :=
  let chk (l : Nat) : Option Cause :=
    if bad l then some .align
    else match own l with
      | some g => s.scratchFault g (addr l).toNat (n l) align wr jr
      | none => some .prot
  let who := i.who scalar
  match i.await s with
  | some t => t
  | none =>
  match who.findSome? chk with
  | some c =>
    let m := (who.filter (fun l => chk l == some c)).foldl (fun m l => m ||| Mask.one l) 0
    i.laneTrap s c m (m.lanes.map (fun l => (l, (addr l).setWidth 64)))
  | none =>
    match f s with
    | some t => t
    | none => s.stallSpec i.k

/-- A lane's bytes of a workgroup's scratchpad as its wave reads them. -/
def State.scratchLoad (s : State) (w : Wave) (g : Workgroup) (e n : Nat) : List Byte :=
  w.forward 0 (scratchAddr g e) (s.scratchRead g e n)

/-- LDL. -/
def execLdl (h : Hdr) (d : RegDst) (m : MemRef) (sz : MSize) (sx _acq : Bool) (scope : Option Scope) (s : State) : Res :=
  issue h (instrLen [m.base, m.off]) .proceeds true s (fun i s =>
    let sc := regScalar d
    let rd := i.rd s sc
    let n := msize sz
    i.local s sc (rd.saddr m) (fun _ => s.wgOf i.w) (fun _ => n) n (fun _ => false) false true (fun s =>
      let who := i.who sc
      let regs := if who.isEmpty then ([], []) else codeRegs (regCode d) (regCount n)
      match s.wgOf i.w, s.permit i.w regs.1 regs.2 false 0 with
      | some g, some w =>
        let w := if who.isEmpty then w else (s.scopeOf w scope).2
        let w := who.foldl (fun (w : Wave) l =>
          w.setRegs (regCode d) l (loadWords sx (s.scratchLoad i.w g (rd.saddr m l).toNat n))) w
        some ((s.setWave i.k (i.step w)).countBanks i.k g (who.map (fun l => (rd.saddr m l).toNat)))
      | _, _ => none))

/-- STL and STFE: the bytes of each lane stored in ascending lane order, with the full/empty bits set by STFE. -/
def localStore (h : Hdr) (m : MemRef) (a : Src) (sz : MSize) (rel fe : Bool) (scope : Option Scope) (s : State) : Res :=
  issue h (instrLen [m.base, a, m.off]) .proceeds true s (fun i s =>
    if i.part = 0 then s.setWave i.k (i.step i.w)
    else match i.release s rel scope with
    | some t => t
    | none =>
      let sc := scalarFields [m.base, a, m.off]
      let rd := i.rd s sc
      let n := msize sz
      i.local s sc (rd.saddr m) (fun _ => s.wgOf i.w) (fun _ => n) n (fun _ => false) true true (fun s =>
        match s.wgOf i.w with
        | none => none
        | some g =>
          let who := i.who sc
          let w := (s.scopeOf i.w scope).2
          if i.w.spec.isSome then
            (s.hold w (who.flatMap (fun l => cut16 0 (scratchAddr g (rd.saddr m l).toNat) 0 (rd.bytes a n l) fe))).map
              (fun w => s.setWave i.k (i.step w))
          else
            let s := who.foldl (fun s l =>
              let e := (rd.saddr m l).toNat
              let s := s.scratchWrite g e (rd.bytes a n l)
              if fe then s.setFe (granuleOf g e) true else s) s
            some ((s.setWave i.k (i.step w)).countBanks i.k g (who.map (fun l => (rd.saddr m l).toNat)))))

/-- STL. -/
def execStl (h : Hdr) (m : MemRef) (a : Src) (sz : MSize) (rel : Bool) (scope : Option Scope) (s : State) : Res :=
  localStore h m a sz rel false scope s

/-- STFE: always a release (R219). -/
def execStfe (h : Hdr) (m : MemRef) (a : Src) (sz : MSize) (scope : Option Scope) (s : State) : Res :=
  localStore h m a sz true true scope s

/-- Whether a wave finds a granule full: its bit, or a held STFE record of its own. -/
def State.fullFor (s : State) (w : Wave) (gr : Nat) : Bool :=
  s.feOf gr || w.heldStores.any (fun h => h.setFe && h.addr / 16 == gr)

/-- What the lanes of an LDFE have done: state, wave, lanes that park. -/
structure FeAcc where
  s : State
  w : Wave
  wait : Mask
  deriving Repr

/-- One lane of LDFE (R222). -/
def FeAcc.lane (x : FeAcc) (i : Iss) (g : Workgroup) (d : BitVec 7) (sx clr : Bool) (tryPd : Option (BitVec 3))
    (n e l : Nat) (m : Mask) (grp : Nat) : FeAcc :=
  let gr := granuleOf g e
  let put (w : Wave) (b : Bool) : Wave := match tryPd with
    | some p => w.writeP p m (if b then 0xFFFFFFFF else 0)
    | none => w
  if x.s.fullFor i.w gr then
    { x with
      w := put (x.w.setRegs d l (loadWords sx (x.s.scratchLoad i.w g e n))) true
      s := if clr then x.s.setFe gr false else x.s }
  else if tryPd.isSome then { x with w := put x.w false }
  else { x with w := x.w.park m 2 (.granule gr) (grp + l), wait := x.wait ||| m }

/-- LDFE. -/
def execLdfe (h : Hdr) (d : RegDst) (m : MemRef) (sz : MSize) (sx clr : Bool) (tryPd : Option (BitVec 3))
    (scope : Option Scope) (s : State) : Res :=
  issue h (instrLen [m.base, m.off]) (if clr then .stalls else .proceeds) true s (fun i s =>
    let sc := regScalar d
    let rd := i.rd s sc
    let n := msize sz
    i.local s sc (rd.saddr m) (fun _ => s.wgOf i.w) (fun _ => n) n (fun _ => false) clr true (fun s =>
      let who := i.who sc
      match s.wgOf i.w with
      | none => none
      | some g =>
        let got := who.any (fun l => s.fullFor i.w (granuleOf g (rd.saddr m l).toNat))
        let regs := if got then codeRegs (regCode d) (regCount n) else ([], [])
        (s.permit i.w regs.1 regs.2 false 0).map (fun w =>
          let w := if got || (tryPd.isSome && !who.isEmpty) then (s.scopeOf w scope).2 else w
          let s0 : State := { s with nextId := s.nextId + 32 }
          let x := who.foldl (fun (x : FeAcc) l =>
            x.lane i g (regCode d) sx clr tryPd n (rd.saddr m l).toNat l (i.for sc l) s.nextId) ⟨s0, w, 0⟩
          (x.s.setWave i.k (x.w.goto (i.act &&& ~~~x.wait) i.next)).countBanks i.k g
            (who.map (fun l => (rd.saddr m l).toNat)))))

/-- The full/empty bits of a range set or cleared. -/
def State.feRange (s : State) (g : Workgroup) (e n : Nat) (b : Bool) : State :=
  (List.range (n / 16)).foldl (fun s j => s.setFe (granuleOf g (e + 16 * j)) b) s

/-- FESET: stalls in a speculation. -/
def execFeset (h : Hdr) (m : MemRef) (len : Src) (val : Bool) (scope : Option Scope) (s : State) : Res :=
  issue h (instrLen [m.base, len, m.off]) .stalls true s (fun i s =>
    let sc := scalarFields [m.base, len, m.off]
    let rd := i.rd s sc
    let n (l : Nat) : Nat := (rd.w32 len l).toNat
    i.local s sc (rd.saddr m) (fun _ => s.wgOf i.w) n 16 (fun l => n l % 16 != 0) true true (fun s =>
      match s.wgOf i.w with
      | none => none
      | some g =>
        let w := if i.part = 0 then i.w else (s.scopeOf i.w scope).2
        some (((i.who sc).foldl (fun s l => s.feRange g (rd.saddr m l).toNat (n l) val) s).setWave i.k (i.step w))))

/-- The member m of a workgroup's gang, while it holds its range (R68, R225). -/
def State.member (s : State) (g : Workgroup) (m : Nat) : Option Workgroup :=
  if m ≥ g.gangsz then none
  else (s.wgs.find? (fun e => e.2.launch == g.launch && e.2.gang == g.gang && e.2.wgid == m)).map Prod.snd

/-- XLOAD: a scope below cluster is taken as cluster, which sets no flag (R225). DEDUCED (log entry 77): `.park` treats a
granule for which the wave holds an STFE record as full, as R233 says of LDFE.keep. -/
def execXload (h : Hdr) (d : RegDst) (m : MemRef) (who : Src) (sz : MSize) (sx park _acq : Bool) (scope : Option Scope)
    (s : State) : Res :=
  issue h (instrLen [m.base, who, m.off]) .proceeds true s (fun i s =>
    let sc := regScalar d
    let rd := i.rd s sc
    let n := msize sz
    let own (l : Nat) : Option Workgroup := (s.wgOf i.w).bind (fun g => s.member g (rd.w32 who l).toNat)
    i.local s sc (rd.saddr m) own (fun _ => n) n (fun _ => false) false true (fun s =>
      let ls := i.who sc
      let full (l : Nat) : Bool := match own l with
        | some g => !park || s.fullFor i.w (granuleOf g (rd.saddr m l).toNat)
        | none => false
      let got := ls.any full
      let regs := if got then codeRegs (regCode d) (regCount n) else ([], [])
      (s.permit i.w regs.1 regs.2 false 0).map (fun w =>
        let w := if got then (s.scopeOf w scope).2 else w
        let r := ls.foldl (fun (r : Wave × Mask) l => match own l with
          | none => r
          | some g =>
            let e := (rd.saddr m l).toNat
            if full l then (r.1.setRegs (regCode d) l (loadWords sx (s.scratchLoad i.w g e n)), r.2)
            else (r.1.park (i.for sc l) 2 (.granule (granuleOf g e)) (s.nextId + l), r.2 ||| i.for sc l)) (w, 0)
        State.setWave { s with nextId := s.nextId + 32 } i.k (r.1.goto (i.act &&& ~~~r.2) i.next))))

/-! ## Compacting stores (R226 to R228) -/

/-- The elements of a CSTORE as (index, lane), in increasing index (R226): Q stands above every pending index of the
participating lanes. -/
def Iss.elements (i : Iss) (sel : Mask) : List (Nat × Nat) :=
  let pending (m : Mask) : List (Nat × Nat) := m.lanes.filterMap (fun l => (Tab.get? i.w.pend l).map (fun j => (j, l)))
  let held := pending sel
  let q := (pending i.part).foldl (fun m e => max m (e.1 + 1)) 0
  let new := (sel.lanes.filter (fun l => (Tab.get? i.w.pend l).isNone)).mapIdx (fun r l => (q + r, l))
  ((List.range (q + 33)).flatMap (fun j => held.filter (fun e => e.1 == j))) ++ new

/-- How the elements of a CSTORE end: all performed, an absent page, a fault, or a wait for the fabric, with the elements that
are left. -/
inductive CsEnd where
  | done
  | wait (va : Nat) (rest : List (Nat × Nat))
  | bad (c : Cause) (rest : List (Nat × Nat))
  | hold (rest : List (Nat × Nat))
  | stall
  deriving Repr

/-- The elements translated and performed in increasing index (R227): the elements above one that a peer performs, or whose
line a peer still holds, wait for it. `w` collects held records and refusals. -/
def State.csGo (s : State) (i : Iss) (g : Agent) (n scope : Nat) (b : DWord) (data : Nat → List Byte) (w : Wave) :
    List (Nat × Nat) → CsEnd × Wave × State
  | [] => (.done, w, s)
  | (j, l) :: r =>
    let x := s.laneX g (b + BitVec.ofNat 64 (j * n)) n 1 true
    match x.1 with
    | .bad c => (.bad c ((j, l) :: r), w, x.2)
    | .wait va => (.wait va ((j, l) :: r), w, x.2)
    | .ok ps =>
      let w' := w
      let w := { w with pend := Tab.del w.pend l }
      if w.spec.isSome then
        if ps.any Piece.isFab then (.stall, w, x.2)
        else match x.2.permit w [] [] false 1 with
          | none => (.stall, w, x.2)
          | some w => x.2.csGo i g n scope b data (w.addHeld (heldOf ps (data l))) r
      else
        match x.2.recallPlaces true (ps.map (fun q => (x.2.homePlace g.vd q.loc, q.len))) with
        | some t => (.hold ((j, l) :: r), w', t)
        | none =>
          let a := (b + BitVec.ofNat 64 (j * n)).toNat
          let t := x.2.storePieces i.k l a g scope false ps (data l)
          let w := w.afterStore s.clock l a t.2
          if t.1.outstanding i.k && !r.isEmpty then (.hold r, w, t.1) else t.1.csGo i g n scope b data w r

/-- The lanes of elements. -/
def elemMask (l : List (Nat × Nat)) : Mask := l.foldl (fun m e => m ||| Mask.one e.2) 0

/-- The wave with pending indices for elements: 6-bit values (R228). -/
def Wave.setPend (w : Wave) (l : List (Nat × Nat)) : Wave :=
  { w with pend := l.foldl (fun t e => Tab.put t e.2 (e.1 % 64)) w.pend }

/-- CSTORE. -/
def execCstore (h : Hdr) (m : MemRef) (a : Src) (ps : BitVec 3) (pn : Bool) (sz : MSize) (rel : Bool)
    (scope : Option Scope) (s : State) : Res :=
  issue h (instrLen [m.base, a, m.off]) .proceeds true s (fun i s =>
    let sel := i.pred ps pn
    if sel = 0 then s.setWave i.k (i.step i.w)
    else match (i.await s).or (i.release s rel scope) with
      | some t => t
      | none =>
        let rd := i.rd s false
        let n := msize sz
        let b := rd.gaddr m 0
        let sc := s.scopeOf i.w scope
        let els := i.elements sel
        let ag := s.agentOf i.k i.w 0
        let r := s.csGo i ag n sc.1 b (rd.bytes a n) i.w els
        let dem (w : Wave) : Wave := { w with dscope := sc.2.dscope }
        let part (rest : List (Nat × Nat)) : Wave :=
          if rest.length = els.length then r.2.1 else dem r.2.1
        let at' (e : Nat × Nat) : Nat × DWord := (e.2, b + BitVec.ofNat 64 (e.1 * n))
        match r.1 with
        | .stall => r.2.2.stallSpec i.k
        | .done => r.2.2.setWave i.k ((dem r.2.1).goto i.act i.next)
        | .hold rest =>
          let w := if rest.length = els.length then i.w
            else ((part rest).setPend rest).goto (i.act &&& ~~~elemMask rest) i.next
          r.2.2.setWave i.k { w with busy := .remote }
        | .wait va rest =>
          let w := ((part rest).setPend rest).goto (i.act &&& ~~~elemMask rest) i.next
          let w := w.park (elemMask rest) 1 (.page va true) r.2.2.nextId
          let s := State.setWave { r.2.2 with nextId := r.2.2.nextId + 1 } i.k w
          s.pageFault ag va false true false
        | .bad c rest =>
          let addrs := (rest.map at').foldl (fun t e => Tab.put t e.1 e.2) []
          let w := if rest.length = els.length then i.w
            else ((part rest).setPend rest).goto (i.act &&& ~~~elemMask rest) i.next
          (r.2.2.setWave i.k w).raise i.k (addrTrap c (elemMask rest) i.pc addrs))

end Sys2Proof.Machine
end

