-- ==== Sys2Proof/Machine/Atomic.lean ====
section
/-! DEFINITION. Atomic.lean: atomics, fences, cache maintenance and residency handles (R229 to R232, R249 to R260). -/

namespace Sys2Proof.Machine

open Sys2Proof

/-! ## The operations (R251 to R253) -/

/-- The code of an integer operation. -/
def AtomOp.num : AtomOp → Nat
  | .add => 0
  | .min => 1
  | .max => 2
  | .umin => 3
  | .umax => 4
  | .and => 5
  | .or => 6
  | .xor => 7
  | .exch => 8
  | .inc => 9
  | .dec => 10

/-- The code of a floating operation. -/
def FAtomOp.num : FAtomOp → Nat
  | .fadd => 0
  | .fmin => 1
  | .fmax => 2

/-- An integer operation on n bits, by its code. -/
def atomInt (op n old a : Nat) : Nat :=
  let sgn (x : Nat) : Int := if x < 2 ^ (n - 1) then x else (x : Int) - 2 ^ n
  match op with
  | 0 => (old + a) % 2 ^ n
  | 1 => if sgn a < sgn old then a else old
  | 2 => if sgn a > sgn old then a else old
  | 3 => min old a
  | 4 => max old a
  | 5 => Nat.land old a
  | 6 => Nat.lor old a
  | 7 => Nat.xor old a
  | 8 => a
  | 9 => if old ≥ a then 0 else (old + 1) % 2 ^ n
  | _ => if old = 0 ∨ old > a then a else old - 1

/-- A floating operation on one element: RNE, subnormals kept, no flag (R253). -/
def atomFloat (f : Fmt) (op old a : Nat) : Nat :=
  if op = 0 then (finish f ⟨.rne, false, false⟩ 0 (addNum false (f.val old) (f.val a))).val.toNat
  else minMaxBits f (op == 2) old a

/-- The kinds of atomic: 0 integer, 1 compare-and-swap, 2 binary32, 3 and 4 pairs of binary16 and bfloat16. `data`
holds the operand's bytes, or the compared and the new value. -/
def atomNew (kind op n old : Nat) (data : List Byte) : Nat :=
  let a := leNat (data.take n)
  match kind with
  | 0 => atomInt op (8 * n) old a
  | 1 => if old = a then leNat (data.drop n) else old
  | 2 => atomFloat Fmt.f32 op old a
  | _ =>
    let f := if kind = 3 then Fmt.f16 else Fmt.bf16
    atomFloat f op (old % 65536) (a % 65536) + 65536 * atomFloat f op (old / 65536) (a / 65536)

/-- The attributes of an atomic's request; `old` asks for the old value. -/
def atomAttrs (kind op n : Nat) (old : Bool) : BitVec 192 := attrs n op kind (if old then 0 else 1)

/-! ## Global atomics (R251, R255) -/

/-- An atomic performed at its home on this device: the old bytes and the state after the one indivisible step. A compare
that fails is a load (R252). -/
def State.rmw (s : State) (g : Agent) (va : Nat) (l : Loc) (n kind op : Nat) (data : List Byte) : List Byte × State :=
  let old := s.readBytes l n
  let s := if kind = 1 ∧ leNat old ≠ leNat (data.take n) then s.loadAt g.vd g.ctx va l n false
    else s.storeAt g.vd g.ctx va l (leBytes (atomNew kind op n (leNat old) data) n) false
  (old, s.countLlc g.vd (homeSlice l.addr) 0x45 1)

/-- The performed lanes of an atomic in ascending order. `d` is the register code of the old value, none where it
returns nothing (RED, CNTADD). A lane on a peer's page waits for the target home; one that returns nothing does not.
`sig` sends the add as a SIG, which takes no line (R351). DESIGN CHOICE (log entry 115): a refused RED or CNTADD is reported as a
refused store is. -/
def Iss.atomLanes (i : Iss) (s : State) (scalar : Bool) (d : Option (BitVec 7)) (n kind op : Nat) (sig : Bool)
    (scope : Option Scope)
    (ok : List (Nat × List Piece)) (move : Mask) (addr : Nat → DWord) (data : Nat → List Byte) : Option State :=
  let g := s.agentOf i.k i.w 0
  let w := if ok.isEmpty then i.w else (s.scopeOf i.w scope).2
  let r := ok.foldl (fun (r : State × Wave × Mask × Bool) e =>
    let s := r.1
    let w := r.2.1
    let m := i.for scalar e.1
    let refuse (why : Nat) : State × Wave × Mask × Bool := match d with
      | some _ => (s, { w with rejected := w.rejected ++ m.lanes.map (fun l => (l, (addr e.1).toNat, why)) },
          r.2.2.1 ||| m, r.2.2.2)
      | none => (s, w.noteRefused s.clock e.1 (addr e.1).toNat why, r.2.2.1, r.2.2.2)
    let here (l : Loc) : State × Wave × Mask × Bool :=
      let x := s.rmw g (vaOf (addr e.1)) l n kind op (data e.1)
      (x.2, match d with | some c => w.setRegs c e.1 (wordsOf x.1) | none => w, r.2.2.1, r.2.2.2)
    match e.2 with
    | p :: _ =>
      if !p.isFab then here p.loc
      else match s.fabPlace g.vd p.loc.addr n (if sig then windowNeed opSig false else windowNeed opAtm d.isSome) with
        | .refused why => refuse why
        | .own a => here ⟨.dev, a⟩
        | .peer dev _ _ =>
          let s := if sig then s else s.recallPeerLine g.vd p.loc.addr
          let who : FabWho := match d with
            | some c => .atomic i.k e.1 c n
            | none => .store i.k e.1 s.clock (addr e.1).toNat
          (s.request ⟨who, i.next, 0, n, if sig then opSig else opAtm, atomAttrs kind op n d.isSome, data e.1, p.loc.addr, p.va,
              g.vd, dev, false⟩, w,
            if d.isSome then r.2.2.1 ||| m else r.2.2.1, r.2.2.2 || d.isSome)
    | [] => r) (s, w, 0, false)
  let w := r.2.1.goto (move &&& ~~~r.2.2.1) i.next
  let w := if r.2.2.2 then { w with busy := .remote } else w
  let s := r.1.setWave i.k w
  some (if r.2.2.2 then s else s.reportRejected i.k i.pc)

/-- A global atomic: it stalls in a speculation, waits as a release where it is one, and is aligned to its size. -/
def atomIssue (h : Hdr) (len : Nat) (scalar : Bool) (m : MemRef) (d : Option RegDst) (n kind op : Nat) (rel : Bool)
    (scope : Option Scope) (s : State) (data : Rd → Nat → List Byte) : Res :=
  issue h len .stalls true s (fun i s =>
    if i.part = 0 then s.setWave i.k (i.step i.w)
    else match i.release s rel scope with
      | some t => t
      | none =>
        let rd := i.rd s scalar
        i.global s scalar (rd.gaddr m) n n true (fun i ok mv s =>
          i.atomLanes s scalar (d.map regCode) n kind op false scope ok mv (rd.gaddr m) (data rd)))

/-- Whether an order is a release. -/
def AOrd.rel : AOrd → Bool
  | .rel | .ar => true
  | _ => false

/-- An operand of no bytes of offset. -/
def noOff : Src := .iconst 32

/-- The bytes of a floating operand: constants are delivered in the element format (R253). -/
def Rd.fbytes (r : Rd) (a : Src) (ty : FAtomTy) (l : Nat) : List Byte :=
  let k : Width := match ty with
    | .f32 => .w32
    | .f16x2 => .packed .f16
    | .bf16x2 => .packed .bf16
  leBytes (slice (r.val a k l) 0 32).toNat 4

/-- The kind of a floating atomic. -/
def FAtomTy.kind : FAtomTy → Nat
  | .f32 => 2
  | .f16x2 => 3
  | .bf16x2 => 4

/-- ATOM. -/
def execAtom (h : Hdr) (d : RegDst) (m : MemRef) (a : Src) (op : AtomOp) (sz : MSize) (ord : AOrd) (scope : Option Scope)
    (s : State) : Res :=
  atomIssue h (instrLen [m.base, a, m.off]) (regScalar d) m (some d) (msize sz) 0 (AtomOp.num op) (AOrd.rel ord) scope s
    (fun r => r.bytes a (msize sz))

/-- ATOMCAS. -/
def execAtomcas (h : Hdr) (d : RegDst) (base c n : Src) (sz : MSize) (ord : AOrd) (scope : Option Scope) (s : State) :
    Res :=
  atomIssue h (instrLen [base, c, n]) (regScalar d) ⟨base, noOff⟩ (some d) (msize sz) 1 15 (AOrd.rel ord) scope s
    (fun r l => r.bytes c (msize sz) l ++ r.bytes n (msize sz) l)

/-- ATOMF. -/
def execAtomf (h : Hdr) (d : RegDst) (m : MemRef) (a : Src) (op : FAtomOp) (ty : FAtomTy) (ord : AOrd)
    (scope : Option Scope) (s : State) : Res :=
  atomIssue h (instrLen [m.base, a, m.off]) (regScalar d) m (some d) 4 (FAtomTy.kind ty) (FAtomOp.num op) (AOrd.rel ord)
    scope s (fun r => r.fbytes a ty)

/-- RED. -/
def execRed (h : Hdr) (m : MemRef) (a : Src) (op : RedMemOp) (sz : MSize) (rel : Bool) (scope : Option Scope)
    (s : State) : Res :=
  match op with
  | .int o =>
    atomIssue h (instrLen [m.base, a, m.off]) (scalarFields [m.base, a, m.off]) m none (msize sz) 0 (AtomOp.num o) rel
      scope s (fun r => r.bytes a (msize sz))
  | .float o =>
    atomIssue h (instrLen [m.base, a, m.off]) (scalarFields [m.base, a, m.off]) m none 4 2 (FAtomOp.num o) rel scope s
      (fun r => r.fbytes a .f32)

/-! ## Scratchpad atomics -/

/-- A scratchpad atomic, in ascending lane order. -/
def atomLocal (h : Hdr) (len : Nat) (d : RegDst) (m : MemRef) (n kind op : Nat) (rel : Bool) (scope : Option Scope)
    (s : State) (data : Rd → Nat → List Byte) : Res :=
  issue h len .stalls true s (fun i s =>
    if i.part = 0 then s.setWave i.k (i.step i.w)
    else match i.release s rel scope with
      | some t => t
      | none =>
        let sc := regScalar d
        let rd := i.rd s sc
        i.local s sc (rd.saddr m) (fun _ => s.wgOf i.w) (fun _ => n) n (fun _ => false) true true (fun s =>
          (s.wgOf i.w).map (fun g =>
            let r := (i.who sc).foldl (fun (r : State × Wave) l =>
              let e := (rd.saddr m l).toNat
              let old := r.1.scratchRead g e n
              (r.1.scratchWrite g e (leBytes (atomNew kind op n (leNat old) (data rd l)) n),
                r.2.setRegs (regCode d) l (wordsOf old))) (s, (s.scopeOf i.w scope).2)
            (r.1.setWave i.k (i.step r.2)).countBanks i.k g ((i.who sc).map (fun l => (rd.saddr m l).toNat)))))

/-- ATOML. -/
def execAtoml (h : Hdr) (d : RegDst) (m : MemRef) (a : Src) (op : AtomOp) (sz : MSize) (ord : AOrd) (scope : Option Scope)
    (s : State) : Res :=
  atomLocal h (instrLen [m.base, a, m.off]) d m (msize sz) 0 (AtomOp.num op) (AOrd.rel ord) scope s
    (fun r => r.bytes a (msize sz))

/-- ATOMLCAS. -/
def execAtomlcas (h : Hdr) (d : RegDst) (base c n : Src) (sz : MSize) (ord : AOrd) (scope : Option Scope) (s : State) :
    Res :=
  atomLocal h (instrLen [base, c, n]) d ⟨base, noOff⟩ (msize sz) 1 15 (AOrd.rel ord) scope s
    (fun r l => r.bytes c (msize sz) l ++ r.bytes n (msize sz) l)

/-! ## Fences (R256) -/

/-- FENCE: it completes when every earlier access of the wave has been performed. -/
def execFence (h : Hdr) (_kind : FenceKind) (scope : Option Scope) (s : State) : Res :=
  issue h 8 .stalls true s (fun i s =>
    if i.part = 0 then s.setWave i.k (i.step i.w)
    else match i.release s true scope with
      | some t => t
      | none => s.setWave i.k (i.step (s.scopeOf i.w scope).2))

/-! ## Lines of a range (R232, R257, R258, R352) -/

/-- The place of an address for which a context has a present translation, without any effect. -/
def State.peek (s : State) (vd ctx va : Nat) : Option Loc :=
  match s.ctx? vd ctx with
  | none => none
  | some c =>
    match walkVa c.format s.host va with
    | .leaf base _ frame kind _ _ =>
      match s.place vd c.format base frame kind va with
      | .at l => some l
      | _ => none
    | _ => none

/-- The 64-byte lines of [a, a + n) with a present translation, as (virtual address, place): a page of this device's own
window stands for the memory behind it. -/
def State.rangeLines (s : State) (vd ctx a n : Nat) : List (Nat × Loc) :=
  if n = 0 then []
  else (List.range ((a + n - 1) / 4096 - a / 4096 + 1)).flatMap (fun j =>
    let page := (a / 4096 + j) * 4096
    match (s.peek vd ctx page).map (s.homePlace vd) with
    | none => []
    | some l => (List.range 64).filterMap (fun i =>
        let v := page + 64 * i
        if v + 64 > a ∧ v < a + n then some (v, ⟨l.space, l.addr + 64 * i⟩) else none))

/-- The wave after a flush: it waits at the instruction while its WBs are outstanding, and moves on once they are
acknowledged. -/
def Iss.flushed (i : Iss) (s : State) (w : Wave) : State :=
  let s := s.pump
  if s.reqs.any (fun r => r.who == .flush i.k) then s.setWave i.k { w with busy := .remote }
  else s.setWave i.k (i.step w)

/-- The check of a range [A, A + len) (R257, R352). -/
def rangeOk (a : DWord) (n : Nat) : Bool := canonical a && decide (a.toNat + n ≤ 2 ^ 57)

/-- An instruction on a range of global memory: the address check first, then the wait of a full fence, then `f`. -/
def rangeIssue (h : Hdr) (m : MemRef) (len : Src) (scope : Option Scope) (s : State) (f : Iss → Agent → Nat → Nat → State → State) : Res :=
  issue h (instrLen [m.base, len, m.off]) .stalls true s (fun i s =>
    if i.part = 0 then s.setWave i.k (i.step i.w)
    else
      let rd := i.rd s true
      let a := rd.gaddr m i.lane
      let n := (rd.w32 len i.lane).toNat
      if !rangeOk a n then i.laneTrap s .align (Mask.one i.lane) [(i.lane, a)]
      else match i.release s true scope with
        | some t => t
        | none => f i (s.agentOf i.k i.w 0) a.toNat n s)

/-- CMAINT. -/
def execCmaint (h : Hdr) (m : MemRef) (len : Src) (op : CmOp) (scope : Option Scope) (s : State) : Res :=
  rangeIssue h m len scope s (fun i g a n s =>
    let w := (s.scopeOf i.w scope).2
    let ls := s.rangeLines g.vd g.ctx a n
    let t := ls.foldl (fun s e =>
      let k := lineKey e.2.space e.2.addr
      match op with
      | .wb => s.flushLine i.k g.vd k false
      | .wbinv => s.flushLine i.k g.vd k true
      | .inv => { s with l1 := Tab.del s.l1 (l1Key (s.l1Of g.core e.2.addr) k) }) s
    i.flushed t w)

/-- The cores that a scope of ICINV reaches (R258). -/
def icReach (scope core c : Nat) : Bool :=
  if scope ≤ 2 then c == core
  else if scope = 3 then clusterOf c == clusterOf core
  else if scope = 4 then dieOf c == dieOf core
  else true

/-- ICINV. -/
def execIcinv (h : Hdr) (m : MemRef) (len : Src) (scope : Option Scope) (s : State) : Res :=
  rangeIssue h m len scope s (fun i g a n s =>
    let sc := s.scopeOf i.w scope
    let ls := (s.rangeLines g.vd g.ctx a n).map (fun e => (Space.code e.2.space, e.2.addr / 64))
    let s : State := { s with
      icache := s.icache.filter (fun e =>
        !(icReach sc.1 g.core (e.1 / 2 ^ 68) && ls.contains (e.1 / 2 ^ 64 % 16, e.1 % 2 ^ 64 / 8)))
      sps := s.sps.map (fun e => (e.1, if icReach sc.1 g.core (e.1 / 4) &&
          (match e.2.loop with | some b => b.vd == g.vd && b.ctx == g.ctx | none => false)
        then { e.2 with loop := none } else e.2)) }
    s.setWave i.k (i.step sc.2))

/-! ## Residency handles (R229 to R232) -/

/-- The resident lines of a context's region take the priority that R230 gives them now. -/
def State.retag (s : State) (vd ctx base size : Nat) : State :=
  (s.rangeLines vd ctx base size).foldl (fun s e =>
    let k := lineKey e.2.space e.2.addr
    { s with llc := Tab.modify s.llc k (fun l =>
      if e.2.space == .fab && l.vd != vd then l else { l with prio := s.prioOf vd ctx e.1 }) }) s

/-- TRES. -/
def execTres (h : Hdr) (sd : BitVec 6) (base len : Src) (pri : BitVec 3) (s : State) : Res :=
  issue h (instrLen [base, len]) .stalls true s (fun i s =>
    if i.part = 0 then s.setWave i.k (i.step i.w)
    else
      let rd := i.rd s true
      let b := (rd.val base .w64 i.lane).toNat
      let n := 4096 * (rd.w32 len i.lane).toNat
      let g := s.agentOf i.k i.w 0
      let put (s : State) (x : Word) : State := s.setWave i.k (i.step (i.w.setS sd.toNat x))
      if b % 4096 ≠ 0 ∨ n = 0 ∨ b + n > 2 ^ 57 then put s 0xFFFFFFFE
      else match Tab.get? s.vds g.vd with
        | none => put s 0xFFFFFFFF
        | some v =>
          match (List.range 256).find? (fun j => (Tab.get? v.handles j).isNone) with
          | none => put s 0xFFFFFFFF
          | some j =>
            let s := s.modVd g.vd (fun v => { v with handles := Tab.put v.handles j ⟨g.ctx, b, n, pri.toNat⟩ })
            put (s.retag g.vd g.ctx b n) (BitVec.ofNat 32 j))

/-- An instruction on a handle of the issuing context; another handle has no effect. -/
def handleIssue (h : Hdr) (a : Src) (s : State) (waits : Bool) (f : Iss → Agent → Nat → Handle → State → State) : Res :=
  issue h (instrLen [a]) .stalls true s (fun i s =>
    if i.part = 0 then s.setWave i.k (i.step i.w)
    else if waits && s.outstanding i.k then s.setWave i.k { i.w with busy := .remote }
    else
      let j := ((i.rd s true).w32 a i.lane).toNat
      let g := s.agentOf i.k i.w 0
      match (Tab.get? s.vds g.vd).bind (fun v => Tab.get? v.handles j) with
      | some x => if x.ctx = g.ctx ∧ j < 256 then f i g j x s else s.setWave i.k (i.step i.w)
      | none => s.setWave i.k (i.step i.w))

/-- TREL. -/
def execTrel (h : Hdr) (a : Src) (s : State) : Res :=
  handleIssue h a s false (fun i g j x s =>
    let s := s.modVd g.vd (fun v => { v with handles := Tab.del v.handles j })
    (s.retag g.vd g.ctx x.base x.size).setWave i.k (i.step i.w))

/-- TEVICT. -/
def execTevict (h : Hdr) (a : Src) (s : State) : Res :=
  handleIssue h a s true (fun i g _ x s =>
    let ls := s.rangeLines g.vd g.ctx x.base x.size
    i.flushed (ls.foldl (fun s e => s.flushLine i.k g.vd (lineKey e.2.space e.2.addr) true) s) i.w)

/-- TDEMOTE. -/
def execTdemote (h : Hdr) (a : Src) (s : State) : Res :=
  handleIssue h a s false (fun i g j x s =>
    let s := s.modVd g.vd (fun v => { v with handles := Tab.put v.handles j { x with prio := 0 } })
    (s.retag g.vd g.ctx x.base x.size).setWave i.k (i.step i.w))

end Sys2Proof.Machine
end

