-- ==== Sys2Proof/Machine/Control.lean ====
section
/-! DEFINITION. Control.lean: the control instructions (R188 to R201). -/

namespace Sys2Proof.Machine

open Sys2Proof

/-! ## Branches, calls and returns (R189 to R192) -/

/-- Lanes moved to their own PCs. -/
def Wave.gotoEach (w : Wave) (m : Mask) (f : Nat → BitVec 64) : Wave :=
  { w with
    pc := m.lanes.foldl (fun t l => Tab.put t l (f l)) w.pc
    held := w.held &&& ~~~m
    waiting := w.waiting &&& ~~~m }

/-- Whether the run goes on after a control instruction: the next issue is at the next instruction (R56, R189). `w` is
the wave after it. DESIGN CHOICE (log entry 69): in a run that a fairness event gave, a branch that only some lanes of the
chosen group take ends the run, though lanes of that group remain at the next instruction. -/
def Iss.continues (i : Iss) (w : Wave) : Bool :=
  match i.w.pick with
  | some _ => i.act.lanes.all (fun l => w.pcOf l == i.next)
  | none => w.issuePc == some i.next

/-- Whether a target is one that a branch may take (R190). -/
def targetOk (t : DWord) : Bool := canonical t && t.toNat % 8 == 0

/-- A branch, call or return. `link` is the pair that receives the link, `cap` asks for the loop buffer (R193). -/
def branchIssue (h : Hdr) (len : Nat) (link : Option (BitVec 6)) (cap : Bool) (s : State)
    (tgt : Iss → Rd → Nat → DWord) : Res :=
  issue h len .proceeds false s (fun i s =>
    let t := tgt i (i.rd s false)
    let bad := Mask.ofFn (fun l => i.part.has l && !targetOk (t l))
    if bad ≠ 0 then i.laneTrap s .align bad (bad.lanes.map (fun l => (l, t l)))
    else
      let vr := match link with
        | some n => if i.part = 0 then [] else [n.toNat, n.toNat + 1]
        | none => []
      match s.permit i.w vr [] false 0 with
      | none => s.stallSpec i.k
      | some w =>
        let w := match link with
          | some n => i.part.lanes.foldl (fun (w : Wave) l => w.setVw n.toNat l i.next) w
          | none => w
        let w := (w.goto (i.act &&& ~~~i.part) i.next).gotoEach i.part t
        let s := s.setWave i.k w
        let s := if cap && i.part != 0 then s.capture i.k w (t i.lane) (i.next - 8) else s
        if i.continues w then s else s.endRun i.k)

/-- The target of BRA and CALL (R190). -/
def branchTarget (t : BTarget) (i : Iss) : DWord :=
  match t with
  | .off o => i.pc + (o.signExtend 64 <<< 3)
  | .lit x => i.pc + (x.signExtend 64 <<< 3)

/-- The length of a BRA or CALL. -/
def branchLen : BTarget → Nat
  | .off _ => 8
  | .lit _ => 16

/-- The target of BRX, CALLX and RET in a lane (R190). -/
def indirectTarget (a : Src) (rel : Bool) (i : Iss) (r : Rd) (l : Nat) : DWord :=
  if rel then i.pc + ((r.w32 a l).signExtend 64 <<< 3) else r.val a .w64 l

/-- BRA. A wrong UNI changes no result. -/
def execBra (h : Hdr) (t : BTarget) (_uni lb : Bool) (s : State) : Res :=
  branchIssue h (branchLen t) none lb s (fun i _ _ => branchTarget t i)

/-- BRX. -/
def execBrx (h : Hdr) (a : Src) (rel _uni : Bool) (s : State) : Res :=
  branchIssue h (instrLen [a]) none false s (indirectTarget a rel)

/-- CALL. -/
def execCall (h : Hdr) (link : BitVec 6) (t : BTarget) (_uni : Bool) (s : State) : Res :=
  branchIssue h (branchLen t) (some link) false s (fun i _ _ => branchTarget t i)

/-- CALLX: the target is read before the link is written. -/
def execCallx (h : Hdr) (link : BitVec 6) (a : Src) (rel _uni : Bool) (s : State) : Res :=
  branchIssue h (instrLen [a]) (some link) false s (indirectTarget a rel)

/-- RET. -/
def execRet (h : Hdr) (a : Src) (_uni : Bool) (s : State) : Res :=
  branchIssue h 8 none false s (indirectTarget a false)

/-! ## Leaving, yielding and waiting (R195 to R198) -/

/-- Threads exited at an instruction, the other lanes of `active()` moving on; the last thread to exit decides whether
the wave retires at once (R66, R195). -/
def Wave.leave (w : Wave) (m : Mask) (tail : Bool) : Wave :=
  let w := { w with
    exited := w.exited ||| m, held := w.held &&& ~~~m, waiting := w.waiting &&& ~~~m, gather := w.gather &&& ~~~m }
  let w := w.unpark m
  if w.alive = 0 then { w with tail := tail } else w.regather

/-- EXIT: holds, checks, then the participating threads exit. -/
def execExit (h : Hdr) (tail : Bool) (s : State) : Res :=
  issue h 8 .stalls true s (fun i s =>
    if i.w.blocked then i.hold s
    else match i.checks s (some i.part) true with
      | some t => t
      | none => s.setWave i.k ((i.w.goto (i.act &&& ~~~i.part) i.next).leave i.part tail))

/-- YIELD: a fairness event where the wave has diverged, and the end of the run, whatever lanes participate (R60, R196).
DEDUCED (log entry 68): the runnable threads are looked at after YIELD has moved its own lanes on. -/
def execYield (h : Hdr) (s : State) : Res :=
  issue h 8 .proceeds true s (fun i s =>
    let w := i.step i.w
    s.setWave i.k (if w.diverged then w.fairness else w))

/-- NOP. -/
def execNop (h : Hdr) (s : State) : Res :=
  issue h 8 .proceeds false s (fun i s => s.setWave i.k (i.step i.w))

/-- SLEEP. DESIGN CHOICE (log entry 107): a diverged wave whose pre-emption was requested before it executes SLEEP sleeps,
until the sleep expires or the forced stop comes. -/
def execSleep (h : Hdr) (a : Src) (s : State) : Res :=
  issue h (instrLen [a]) .proceeds false s (fun i s =>
    let c := min ((i.rd s true).w32 a i.lane).toNat 1048576
    let w := i.step i.w
    if i.part = 0 then s.setWave i.k w
    else (s.setWave i.k (if c = 0 then w else { w with busy := .sleep (s.clock + c) })).endRun i.k)

/-- SYNCST: every earlier ALU-class instruction has set its flags; the check of R163 over the participating lanes. -/
def execSyncst (h : Hdr) (s : State) : Res :=
  issue h 8 .proceeds false s (fun i s =>
    match i.arithCheck s i.part with
    | some t => t
    | none => s.setWave i.k (i.step i.w))

/-! ## Events of a wave (R59, R197) -/

/-- FAIRNESS_EVENT: the counter of a wave reaches F. Inside an open chain the event waits for its close (R57); otherwise
the run in progress ends and the next one goes to the group chosen. -/
def execFairnessEvent (k : Nat) (s : State) : Res :=
  match Tab.get? s.waves k with
  | none => .next s
  | some w =>
    if !w.diverged || slice w.fair 0 16 == 0 then .next s
    else if w.chain ≠ 0 then
      .next (s.modSp (spOf k) (fun p => { p with run := p.run.map (fun r =>
        if r.wave = k then { r with ending := true, fair := true } else r) }))
    else
      let s := s.setWave k w.fairness
      .next (if ((s.sp (spOf k)).run.map (·.wave)) = some k then s.endRun k else s)

/-- SLEEP_EXPIRE: a wave whose sleep has ended is ready again. -/
def execSleepExpire (k : Nat) (s : State) : Res :=
  match Tab.get? s.waves k with
  | some w =>
    match w.busy with
    | .sleep t => .next (if t ≤ s.clock then s.setWave k { w with busy := .no } else s)
    | _ => .next s
  | none => .next s

end Sys2Proof.Machine
end

