-- ==== Sys2Proof/Machine/Sync.lean ====
section
/-! DEFINITION. Sync.lean: barriers, progress counters, queues and stage reassignment (R43 to R53, R261 to R277). -/

namespace Sys2Proof.Machine

open Sys2Proof

/-! ## Wave-collective instructions (R52, R262) -/

/-- A wave-collective instruction: it holds while a thread is parked for a reason other than 6, has no effect when no
lane participates, and raises `c` when only some lanes of `active()` do. -/
def collective (h : Hdr) (len : Nat) (sr : SpecRule) (c : Cause) (s : State) (f : Iss → State → State) : Res :=
  issue h len sr true s (fun i s =>
    if i.part = 0 then s.setWave i.k (i.step i.w)
    else if i.w.blocked then i.hold s
    else if i.part ≠ i.act then i.trap s c (i.act &&& ~~~i.part)
    else f i s)

/-! ## Barrier objects (R263 to R267) -/

/-- The fields of a barrier object. -/
structure BarObj where
  expect  : Nat
  arrived : Nat
  phase   : Bool
  valid   : Bool
  pend    : Int
  err     : Bool
  zero    : Nat
  deriving DecidableEq, Repr

/-- The object at an offset. -/
def State.barGet (s : State) (g : Workgroup) (off : Nat) : BarObj :=
  let x := s.scratchNat g off 16
  let p := bitsOf x 64 40
  ⟨bitsOf x 0 16, bitsOf x 16 16, bitsOf x 32 1 == 1, bitsOf x 33 1 == 1,
    if p < 2 ^ 39 then (p : Int) else (p : Int) - 2 ^ 40, bitsOf x 127 1 == 1,
    bitsOf x 34 30 + bitsOf x 104 23 * 2 ^ 30⟩

/-- The bytes of an object. -/
def BarObj.bytes (b : BarObj) : List Byte :=
  leBytes (b.expect + b.arrived * 2 ^ 16 + (if b.phase then 2 ^ 32 else 0) + (if b.valid then 2 ^ 33 else 0) +
    bitsOf b.zero 0 30 * 2 ^ 34 + (b.pend % 2 ^ 40).toNat * 2 ^ 64 + bitsOf b.zero 30 23 * 2 ^ 104 +
    (if b.err then 2 ^ 127 else 0)) 16

/-- An object that every barrier instruction but BARINIT refuses. -/
def BarObj.bad (b : BarObj) : Bool := !b.valid || b.err || b.zero != 0

/-- The lanes of a wave that are parked on the object at an offset. -/
def Wave.onBarrier (w : Wave) (off : Nat) : Mask :=
  Mask.ofFn (fun l => w.parked.has l && (match Tab.get? w.parkArg l with
    | some (.barrier o _ _) => o == off
    | _ => false))

/-- The lanes of a wave whose awaited phase on an object is past, with the address after their instruction. -/
def Wave.pastPhase (w : Wave) (off : Nat) (phase : Bool) : List (Nat × BitVec 64) :=
  (w.onBarrier off &&& ~~~w.gather).lanes.filterMap (fun l => match Tab.get? w.parkArg l with
    | some (.barrier _ ph next) => if ph != phase then some (l, next) else none
    | _ => none)

/-- The waves of a workgroup changed, each by itself. -/
def State.mapWaves (s : State) (gid : Nat) (f : Wave → Wave) : State :=
  { s with waves := s.waves.map (fun e => (e.1, if e.2.wg == gid then f e.2 else e.2)) }

/-- A wave parked on an object whose phase is `phase` now: the lanes whose awaited phase is past go on. -/
def Wave.barPast (w : Wave) (off : Nat) (phase : Bool) : Wave :=
  let go := w.pastPhase off phase
  if go.isEmpty then w
  else
    let m := go.foldl (fun m x => m ||| Mask.one x.1) 0
    { go.foldl (fun (w : Wave) x => w.goto (Mask.one x.1) x.2) (w.unpark m) with arrived := false }

/-- The instruction at issue with its wave as a state holds it now. -/
def Iss.reread (i : Iss) (s : State) : Iss := { i with w := (Tab.get? s.waves i.k).getD i.w }

/-- The waves parked on an object examine its bytes: those whose awaited phase is past resume (R263, R266). -/
def State.barResume (s : State) (gid off : Nat) : State :=
  match Tab.get? s.wgs gid with
  | none => s
  | some g => s.mapWaves gid (fun w => w.barPast off (s.barGet g off).phase)

/-- wake(X): every thread parked on the object resumes, and meets its error at its instruction. -/
def State.barWake (s : State) (gid off : Nat) : State :=
  s.mapWaves gid (fun w =>
    let m := w.onBarrier off
    if m = 0 then w else { w.unpark m with gather := w.gather &&& ~~~m, arrived := false })

/-- complete(X), the object written, and the resumption of its waiters. -/
def State.barPut (s : State) (gid off : Nat) (b : BarObj) : State :=
  match Tab.get? s.wgs gid with
  | none => s
  | some g =>
    let b := if b.arrived = b.expect ∧ b.pend = 0 then { b with arrived := 0, phase := !b.phase } else b
    let s := s.modWg gid (fun g => { g with bars := off :: g.bars.filter (· != off) })
    (s.scratchWrite g off b.bytes).barResume gid off

/-- deliver(X, k) (R267). -/
def State.deliver (s : State) (gid off k : Nat) : State :=
  match Tab.get? s.wgs gid with
  | none => s
  | some g =>
    let b := s.barGet g off
    if !b.valid || b.err || b.pend - k < -(2 ^ 39) then
      (s.scratchWrite g off { b with err := true }.bytes).barWake gid off
    else s.barPut gid off { b with pend := b.pend - k }

/-- The object that a barrier instruction names: its offset, or the trap of its address. -/
def Iss.barAddr (i : Iss) (s : State) (m : MemRef) : Nat ⊕ State :=
  let e := (i.rd s true).saddr m i.lane
  match s.wgOf i.w with
  | none => .inl e.toNat
  | some g =>
    match s.scratchFault g e.toNat 16 16 true false with
    | some c => .inr (i.laneTrap s c (Mask.one i.lane) [(i.lane, e.setWidth 64)])
    | none => .inl e.toNat

/-- BARINIT. -/
def execBarinit (h : Hdr) (m : MemRef) (n : Src) (s : State) : Res :=
  collective h (instrLen [m.base, n, m.off]) .stalls .barerr s (fun i s =>
    match i.storeCheck s with
    | some t => t
    | none =>
      match i.barAddr s m, s.wgOf i.w with
      | .inr t, _ => t
      | .inl _, none => s
      | .inl off, some g =>
        let k := ((i.rd s true).w32 n i.lane).toNat
        let b := s.barGet g off
        if k = 0 ∨ k > 65535 then i.trap s .barerr i.act
        else if b.valid && (b.arrived != 0 || b.pend != 0 || (s.wavesOf i.w.wg).any (fun e => e.2.onBarrier off != 0)) then
          i.trap s .barerr i.act
        else
          ((s.setWave i.k (i.step i.w)).scratchWrite g off (BarObj.bytes ⟨k, 0, false, true, 0, false, 0⟩)).barResume
            i.w.wg off)

/-- The offset on which a gathering lane is parked. -/
def Wave.barOff (w : Wave) (l : Nat) : Option Nat :=
  match Tab.get? w.parkArg l with
  | some (.barrier o _ _) => some o
  | _ => none

/-- Every thread of a wave unparked, standing unexecuted at its barrier instruction. -/
def Wave.ungather (w : Wave) : Wave := { w.unpark w.gather with gather := 0, arrived := false }

/-- A wave all of whose threads gather: BARERR where they gather at more than one instruction or object, else one arrival
(R264, R266). `i.w` has the lanes parked; `arv` is BARARV with its result register. Where lanes at the lowest PC gather on two
objects, the object of the lowest of them counts as the one of %tpc: DESIGN CHOICE (log entry 78). -/
def Iss.arrive (i : Iss) (s : State) (off n : Nat) (arv : Option (Option (BitVec 6))) : State :=
  let w := i.w
  let p := (w.minPc w.gather).getD i.pc
  let low := w.atPc w.gather p
  let o := w.barOff (low.lowest.getD 0)
  let away := Mask.ofFn (fun l => w.gather.has l && (w.pcOf l != p || w.barOff l != o))
  let fail (s : State) (m : Mask) (pc : BitVec 64) : State :=
    (s.modWave i.k Wave.ungather).raise i.k (mkTrap .barerr m pc)
  match s.wgOf w with
  | none => s
  | some g =>
    let b := s.barGet g off
    if away ≠ 0 then fail (s.setWave i.k w) away p
    else if b.bad || b.arrived == b.expect then fail (s.setWave i.k w) w.gather i.pc
    else if b.pend + n > 2 ^ 39 - 1 then
      let s := ((s.setWave i.k w.ungather).scratchWrite g off { b with err := true }.bytes).barWake w.wg off
      s.raise i.k (mkTrap .barerr w.gather i.pc)
    else
      let all := w.gather
      let w := match arv with
        | some sd =>
          let w := (w.ungather).goto all i.next
          match sd with
          | some d => w.setS d.toNat (if b.phase then 1 else 0)
          | none => w
        | none => { w.park all 6 (.barrier off b.phase i.next) s.nextId with
            gather := 0, arrived := true, phase := b.phase }
      State.barPut (s.setWave i.k w) w.wg off { b with pend := b.pend + n, arrived := b.arrived + 1 }

/-- BAR and BARARV: the checks, then the lanes gather, and the wave arrives once all its threads do. An arrival is a release at
workgroup scope (R268). The operation examines the object, so waves parked on it whose phase a store has changed go on (R263). A
wave that had arrived before it took JOBFAIL here waits for its phase again (R306). The pending bytes posted are those that the
last group to gather reads: DESIGN CHOICE (log entry 79). -/
def barrierIssue (h : Hdr) (m : MemRef) (n : Option Src) (arith : Bool) (arv : Option (Option (BitVec 6))) (s : State) :
    Res :=
  collective h (instrLen ([m.base, m.off] ++ n.toList)) .stalls .barerr s (fun i s =>
    match i.checks s (if arith then some i.act else none) true with
    | some t => t
    | none =>
      match i.barAddr s m, s.wgOf i.w with
      | .inr t, _ => t
      | .inl _, none => s
      | .inl off, some g =>
        let b := s.barGet g off
        let s := s.barResume i.w.wg off
        let i := i.reread s
        if b.bad then i.trap s .barerr i.act
        else match i.releaseAt s 2 with
        | some t => t
        | none =>
        if i.w.arrived && arv.isNone then
          if b.phase != i.w.phase then s.setWave i.k { i.step i.w with arrived := false }
          else s.setWave i.k (i.w.park i.act 6 (.barrier off i.w.phase i.next) s.nextId)
        else
          let k := match n with
            | some x => ((i.rd s true).w32 x i.lane).toNat
            | none => 0
          let w : Wave := { i.w.park i.act 6 (.barrier off false i.next) s.nextId with
            gather := i.w.gather ||| i.act, arrived := false }
          if w.gather = w.alive then Iss.arrive { i with w := w } s off k arv
          else s.setWave i.k w)

/-- BARARV. -/
def execBararv (h : Hdr) (sd : Option (BitVec 6)) (m : MemRef) (n : Option Src) (s : State) : Res :=
  barrierIssue h m n false (some sd) s

/-- BAR. -/
def execBar (h : Hdr) (m : MemRef) (n : Option Src) (s : State) : Res := barrierIssue h m n true none s

/-- BARWT: it counts no arrival. -/
def execBarwt (h : Hdr) (m : MemRef) (ph : Src) (s : State) : Res :=
  collective h (instrLen [m.base, ph, m.off]) .proceeds .barerr s (fun i s =>
    match i.checks s (some i.act) true with
    | some t => t
    | none =>
      match i.barAddr s m, s.wgOf i.w with
      | .inr t, _ => t
      | .inl _, none => s
      | .inl off, some g =>
        let b := s.barGet g off
        let p := ((i.rd s true).w32 ph i.lane).getLsbD 0
        let s := s.barResume i.w.wg off
        let i := i.reread s
        if b.bad then i.trap s .barerr i.act
        else if b.phase != p then s.setWave i.k { i.step i.w with arrived := false }
        else s.setWave i.k { i.w.park i.act 6 (.barrier off p i.next) s.nextId with phase := p, arrived := false })

/-- A failed card finds a wave parked at a barrier instruction: the lowest of them resumes to take JOBFAIL (R306). -/
def State.jobfailParked (s : State) (gid : Nat) : State :=
  match Tab.get? s.wgs gid with
  | none => s
  | some g =>
    let sixes (w : Wave) : Mask := Mask.ofFn (fun l => w.reasonOf l == 6)
    let ws := (s.wavesOf gid).filter (fun e => sixes e.2 != 0 && e.2.trap.isNone && e.2.spec.isNone)
    match ws with
    | [] => s
    | e :: r =>
      let x := r.foldl (fun (b : Nat × Wave) y => if y.2.waveid < b.2.waveid then y else b) e
      match g.failedCard with
      | none => s
      | some c =>
        let p := (x.2.minPc (sixes x.2)).getD 0
        let s := s.modCard gid c.seq (fun c => { c with reported := true })
        s.modWave x.1 (fun w => { w with trap := some (jobfailTrap c (w.atPc (sixes w) p) p) })

/-! ## Progress counters (R269 to R271) -/

/-- The bytes of an addend: a pair, or 32 bits zero-extended (R270). -/
def Rd.addend (r : Rd) (a : Src) (w : Bool) (l : Nat) : List Byte :=
  leBytes (if w then (r.val a .w64 l).toNat else (r.w32 a l).toNat) 8

/-- An add to scratchpad counters, in ascending lane order. -/
def countLocal (h : Hdr) (m : MemRef) (a : Src) (w : Bool) (scope : Option Scope) (s : State) : Res :=
  issue h (instrLen [m.base, a, m.off]) .stalls true s (fun i s =>
    if i.part = 0 then s.setWave i.k (i.step i.w)
    else match i.release s true scope with
      | some t => t
      | none =>
        let sc := scalarFields [m.base, a, m.off]
        let rd := i.rd s sc
        i.local s sc (rd.saddr m) (fun _ => s.wgOf i.w) (fun _ => 8) 8 (fun _ => false) true true (fun s =>
          (s.wgOf i.w).map (fun g =>
            ((i.who sc).foldl (fun s l =>
              let e := (rd.saddr m l).toNat
              s.scratchWrite g e (leBytes (s.scratchNat g e 8 + leNat (rd.addend a w l)) 8)) s).setWave i.k
                (i.step (s.scopeOf i.w scope).2))))

/-- CNTADD. -/
def execCntadd (h : Hdr) (m : MemRef) (a : Src) (w l : Bool) (scope : Option Scope) (s : State) : Res :=
  if l then countLocal h m a w scope s
  else atomIssue h (instrLen [m.base, a, m.off]) (scalarFields [m.base, a, m.off]) m none 8 0 0 true scope s
    (fun r => r.addend a w)

/-- What a lane of CNTWT has found: the counter's value, or a read that is still on its way. -/
inductive CntVal where
  | val (v : Nat)
  | sent
  | refused (why : Nat)
  deriving DecidableEq, Repr

/-- The lanes of CNTWT that found a value: done, tried, or parked with reason 3. -/
def Iss.countLanes (i : Iss) (w : Wave) (scalar : Bool) (tryPd : Option (BitVec 3)) (grp : Nat)
    (l : List (Nat × Nat × Nat × ParkArg)) : Wave × Mask :=
  l.foldl (fun (r : Wave × Mask) e =>
    let m := i.for scalar e.1
    let ok := decide (e.2.1 ≥ e.2.2.1)
    match tryPd with
    | some p => (r.1.writeP p m (if ok then 0xFFFFFFFF else 0), r.2)
    | none => if ok then r else (r.1.park m 3 e.2.2.2 (grp + e.1), r.2 ||| m)) (w, 0)

/-- CNTWT. -/
def execCntwt (h : Hdr) (m : MemRef) (t : Src) (l : Bool) (tryPd : Option (BitVec 3)) (scope : Option Scope)
    (s : State) : Res :=
  issue h (instrLen [m.base, t, m.off]) .proceeds true s (fun i s =>
    let sc := scalarFields [m.base, t, m.off]
    let rd := i.rd s sc
    let tgt (j : Nat) : Nat := (rd.val t .w64 j).toNat
    if l then
      i.local s sc (rd.saddr m) (fun _ => s.wgOf i.w) (fun _ => 8) 8 (fun _ => false) false true (fun s =>
        (s.wgOf i.w).map (fun g =>
          let w := if i.part = 0 then i.w else (s.scopeOf i.w scope).2
          let r := i.countLanes w sc tryPd s.nextId ((i.who sc).map (fun j =>
            let e := (rd.saddr m j).toNat
            (j, leNat (s.scratchLoad i.w g e 8), tgt j, .counter true (scratchAddr g e) (tgt j))))
          State.setWave { s with nextId := s.nextId + 32 } i.k ((r.1.parkedAt r.2 s.clock).goto (i.act &&& ~~~r.2) i.next)))
    else
      i.global s sc (rd.gaddr m) 8 8 false (fun i ok mv s =>
        let g := s.agentOf i.k i.w 0
        let sc' := s.scopeOf i.w scope
        let w := if ok.isEmpty then i.w else sc'.2
        let r := ok.foldl (fun (r : State × List (Nat × CntVal)) e =>
          let got := i.w.inbuf.filter (fun b => b.1 == e.1)
          if !got.isEmpty then (r.1, r.2 ++ [(e.1, .val (leNat (bytesAt (got.map Prod.snd) 8)))])
          else
            let x := (LoadPart.mk r.1 [] false none).pieces g i.w (.load i.k e.1 0 0 false false) i.next sc'.1 false 0 e.2
            (x.s, r.2 ++ [(e.1, match x.rej with
              | some why => .refused why
              | none => if x.sent then .sent else .val (leNat (bytesAt x.bytes 8)))])) (s, [])
        let vals := r.2.filterMap (fun e => match e.2 with | .val v => some (e.1, v) | _ => none)
        let rej := r.2.flatMap (fun e => match e.2 with
          | .refused why => (i.for sc e.1).lanes.map (fun j => (j, (rd.gaddr m e.1).toNat, why))
          | _ => [])
        let stay := r.2.foldl (fun (x : Mask) e => match e.2 with | .val _ => x | _ => x ||| i.for sc e.1) 0
        let sent := r.2.any (fun e => e.2 == .sent)
        let c := i.countLanes { w with inbuf := [], rejected := rej } sc tryPd r.1.nextId
          (vals.map (fun e => (e.1, e.2, tgt e.1, .counter false (vaOf (rd.gaddr m e.1)) (tgt e.1))))
        let w := (c.1.parkedAt c.2 s.clock).goto (mv &&& ~~~(stay ||| c.2)) i.next
        let w := if sent then { w with busy := .remote } else w
        let s := State.setWave { r.1 with nextId := r.1.nextId + 32 } i.k w
        some (if sent then s else s.reportRejected i.k i.pc)))

/-! ## Queues (R272 to R276) -/

/-- The slot size of a queue. -/
def qElem (c : BitVec 64) : Nat := 2 ^ (slice c 31 4).toNat
/-- Whether its elements are per lane. -/
def qLane (c : BitVec 64) : Bool := c.getLsbD 41
/-- The bytes of a whole slot. -/
def qSlotSize (c : BitVec 64) : Nat := qElem c * (if qLane c then 32 else 1)
/-- Its depth. -/
def qDepth (c : BitVec 64) : Nat := (slice c 19 12).toNat
/-- Its base offset. -/
def qBase (c : BitVec 64) : Nat := (slice c 0 19).toNat
/-- Its producer stage. -/
def qProd (c : BitVec 64) : Nat := (slice c 35 3).toNat
/-- Its consumer stage. -/
def qCons (c : BitVec 64) : Nat := (slice c 38 3).toNat
/-- The offset of slot j. -/
def qSlot (c : BitVec 64) (j : Nat) : Nat := qBase c + j % qDepth c * qSlotSize c

/-- Whether a control word obeys R272 in an allocation, apart from its stages. -/
def qWordOk (c : BitVec 64) (salloc : Nat) : Bool :=
  slice c 42 22 == 0 && decide (2 ≤ (slice c 31 4).toNat) && qDepth c != 0 && qBase c % 16 == 0 &&
    decide (qBase c + qDepth c * qSlotSize c ≤ salloc)

/-- An empty queue of a control word. -/
def Queue.fresh (c : BitVec 64) : Queue := ⟨c, 0, 0, 0, 0, []⟩

/-- The launch of a workgroup. -/
def State.rcdOf (s : State) (g : Workgroup) : Option LaunchRec := (Tab.get? s.launches g.launch).map Launch.rcd

/-- The stages of a workgroup's launch. -/
def State.nstage (s : State) (g : Workgroup) : Nat := ((s.rcdOf g).map LaunchRec.nstage).getD 0
/-- The configured queues of its stage table. -/
def State.nqueue (s : State) (g : Workgroup) : Nat :=
  match s.rcdOf g with
  | some r => if r.nstage = 0 then 0 else r.nqueue
  | none => 0

/-- The input queues of a stage (R45). -/
def State.inputsOf (s : State) (g : Workgroup) (st : Nat) : List Queue :=
  (g.queues.filter (fun e => e.1 < s.nqueue g && qCons e.2.ctl == st)).map Prod.snd
/-- Its output queues. -/
def State.outputsOf (s : State) (g : Workgroup) (st : Nat) : List Queue :=
  (g.queues.filter (fun e => e.1 < s.nqueue g && qProd e.2.ctl == st)).map Prod.snd

/-- Elements of a queue that a pop may still take. -/
def Queue.avail (q : Queue) : Nat := q.committed - (q.head + q.popping)

/-- A stage closes of itself once every producer of its inputs is closed and its inputs are empty; producers have lower
numbers, so one pass in ascending order closes all (R47). -/
def State.closeStages (s : State) (gid : Nat) : State :=
  match Tab.get? s.wgs gid with
  | none => s
  | some g =>
    (List.range (s.nstage g + 1)).foldl (fun s st =>
      match Tab.get? s.wgs gid with
      | none => s
      | some g =>
        let ins := s.inputsOf g st
        if ins.isEmpty || g.closed.contains st then s
        else if ins.all (fun q => g.closed.contains (qProd q.ctl) && q.reserved == q.head) then
          s.modWg gid (fun g => { g with closed := st :: g.closed })
        else s) s

/-- QINIT. -/
def execQinit (h : Hdr) (a : Src) (q : BitVec 4) (s : State) : Res :=
  issue h 8 .stalls true s (fun i s =>
    if i.part = 0 then s.setWave i.k (i.step i.w)
    else match s.wgOf i.w with
      | none => s
      | some g =>
        let c := (i.rd s true).val a .w64 i.lane
        let parked := (s.wavesOf i.w.wg).any (fun e => e.2.parked.lanes.any (fun l =>
          Tab.get? e.2.parkArg l == some (.queue q.toNat)))
        if !qWordOk c g.salloc || slice c 35 6 != 0 || decide (q.toNat < s.nqueue g) || parked then
          i.trap s .qerr i.part
        else
          (s.modWg i.w.wg (fun g => { g with queues := Tab.put g.queues q.toNat (Queue.fresh c) })).setWave i.k
            (i.step i.w))

/-- The checks that QPUSH and QPOP share: the queue and its stage, then every lane's offset (R274). -/
def Iss.queueCheck (i : Iss) (s : State) (g : Workgroup) (q : Nat) (push scalar : Bool) (m : MemRef) :
    Queue ⊕ State :=
  match Tab.get? g.queues q with
  | none => .inr (i.trap s .qerr i.part)
  | some x =>
    if s.nstage g ≠ 0 ∧ i.w.stage ≠ (if push then qProd x.ctl else qCons x.ctl) then .inr (i.trap s .qerr i.part)
    else
      let rd := i.rd s scalar
      let n := qElem x.ctl
      let chk (l : Nat) : Option Cause := s.scratchFault g (rd.saddr m l).toNat n (min n 16) (!push) false
      let who := i.who scalar
      match who.findSome? chk with
      | some c =>
        let mk := (who.filter (fun l => chk l == some c)).foldl (fun m l => m ||| Mask.one l) 0
        .inr (i.laneTrap s c mk (mk.lanes.map (fun l => (l, (rd.saddr m l).setWidth 64))))
      | none => .inl x

/-- The predicate of a `.try` form written in the participating lanes, and every lane moved on. -/
def Iss.tried (i : Iss) (tryPd : Option (BitVec 3)) (b : Bool) : Wave :=
  i.step (match tryPd with
    | some p => i.w.writeP p i.part (if b then 0xFFFFFFFF else 0)
    | none => i.w)

/-- QPUSH: a release at workgroup scope (R274). The element's bytes are taken at issue; they reach their slot when the copy is
done. -/
def execQpush (h : Hdr) (m : MemRef) (q : BitVec 4) (tryPd : Option (BitVec 3)) (s : State) : Res :=
  issue h (instrLen [m.base, m.off]) .stalls true s (fun i s =>
    if i.part = 0 then s.setWave i.k (i.step i.w)
    else match s.wgOf i.w with
      | none => s
      | some g =>
        let sc := scalarFields [m.base, m.off]
        match i.queueCheck s g q.toNat true sc m with
        | .inr t => t
        | .inl x =>
          match i.releaseAt s 2 with
          | some t => t
          | none =>
          let rd := i.rd s sc
          let n := qElem x.ctl
          if x.reserved - x.head = qDepth x.ctl then
            if tryPd.isSome then s.setWave i.k (i.tried tryPd false)
            else State.setWave { s with nextId := s.nextId + 1 } i.k (i.w.park i.part 5 (.queue q.toNat) s.nextId)
          else if g.onNotify (qSlot x.ctl x.reserved) (qSlotSize x.ctl) then
            i.laneTrap s .prot i.part (i.part.lanes.map (fun l => (l, BitVec.ofNat 64 (qSlot x.ctl x.reserved))))
          else
            let bs := if qLane x.ctl then (List.range 32).flatMap (fun l =>
                if i.part.has l then s.scratchRead g (rd.saddr m l).toNat n else List.replicate n 0)
              else s.scratchRead g (rd.saddr m i.lane).toNat n
            let x := { x with reserved := x.reserved + 1, copies := x.copies ++ [(x.reserved, bs)] }
            (s.modWg i.w.wg (fun g => { g with queues := Tab.put g.queues q.toNat x })).setWave i.k (i.tried tryPd true))

/-- QPUSH_COMMIT: the oldest reservation's copy is done: its bytes stand in its slot and it commits. -/
def execQpushCommit (gid q : Nat) (s : State) : Res :=
  match Tab.get? s.wgs gid with
  | none => .next s
  | some g =>
    match Tab.get? g.queues q with
    | none => .next s
    | some x =>
      match x.copies with
      | [] => .next s
      | (r, bs) :: rest =>
        let s := s.scratchWrite g (qSlot x.ctl r) bs
        .next (s.modWg gid (fun g => { g with
          queues := Tab.put g.queues q { x with committed := r + 1, copies := rest } }))

/-- QPOP: the bytes are written at issue; the head advances when the copy is done. On an empty queue whose producer stage
has closed it completes without an element (R275). -/
def execQpop (h : Hdr) (m : MemRef) (q : BitVec 4) (tryPd : Option (BitVec 3)) (s : State) : Res :=
  issue h (instrLen [m.base, m.off]) .stalls true s (fun i s =>
    if i.part = 0 then s.setWave i.k (i.step i.w)
    else match s.wgOf i.w with
      | none => s
      | some g =>
        let sc := scalarFields [m.base, m.off]
        match i.queueCheck s g q.toNat false sc m with
        | .inr t => t
        | .inl x =>
          let rd := i.rd s sc
          let n := qElem x.ctl
          match i.await s with
          | some t => t
          | none =>
          if x.avail = 0 then
            if tryPd.isSome || (g.closed.contains (qProd x.ctl) && x.copies.isEmpty) then
              s.setWave i.k (i.tried tryPd false)
            else State.setWave { s with nextId := s.nextId + 1 } i.k (i.w.park i.part 4 (.queue q.toNat) s.nextId)
          else
            let o := qSlot x.ctl (x.head + x.popping)
            let ls := if qLane x.ctl then i.part.lanes else [i.lane]
            let src := ls.map (fun l => ((rd.saddr m l).toNat, s.scratchRead g (o + (if qLane x.ctl then l * n else 0)) n))
            let s := src.foldl (fun s e => s.scratchWrite g e.1 e.2) s
            let x := { x with popping := x.popping + 1 }
            (s.modWg i.w.wg (fun g => { g with queues := Tab.put g.queues q.toNat x })).setWave i.k (i.tried tryPd true))

/-- QPOP_COPY_DONE: the head advances, which may close a stage. -/
def execQpopCopyDone (gid q : Nat) (s : State) : Res :=
  match Tab.get? s.wgs gid with
  | none => .next s
  | some g =>
    match Tab.get? g.queues q with
    | none => .next s
    | some x =>
      if x.popping = 0 then .next s
      else .next ((s.modWg gid (fun g => { g with
        queues := Tab.put g.queues q { x with head := x.head + 1, popping := x.popping - 1 } })).closeStages gid)

/-- The status of a queue (R276). -/
def queueStatus (g : Workgroup) (x : Queue) : Word :=
  BitVec.ofNat 32 (2 ^ 31 + (if g.closed.contains (qProd x.ctl) then 2 ^ 25 else 0) + (if qLane x.ctl then 2 ^ 24 else 0) +
    (qDepth x.ctl - (x.reserved - x.head)) * 2 ^ 12 + (x.committed - x.head))

/-- QSTAT. -/
def execQstat (h : Hdr) (sd : BitVec 6) (q : BitVec 4) (s : State) : Res :=
  issue h 8 .proceeds true s (fun i s =>
    match i.part, s.wgOf i.w, s.permit i.w [] (if i.part = 0 then [] else [sd.toNat]) false 0 with
    | _, _, none => s.stallSpec i.k
    | _, none, _ => s
    | p, some g, some w =>
      if p = 0 then s.setWave i.k (i.step w)
      else
        let x : Word := match Tab.get? g.queues q.toNat with
          | some x => queueStatus g x
          | none => 0
        s.setWave i.k (i.step (w.setS sd.toNat x)))

/-! ## Stage reassignment (R43 to R47, R277) -/

/-- The entry of a stage: the record's ENTRY where the launch has no stages. -/
def LaunchRec.stageEntry (r : LaunchRec) (st : Nat) : BitVec 64 :=
  if r.nstage = 0 then r.entry else (r.stages.getD st ⟨0, 0, 0⟩).entry

/-- Whether a stage is eligible for a wave of a workgroup (R45). DESIGN CHOICE (log entry 70): a wave whose threads have all
exited, but that has not left its slot, still counts among the waves of its stage. -/
def State.eligible (s : State) (gid : Nat) (g : Workgroup) (r : LaunchRec) (st : Nat) : Bool :=
  let ins := s.inputsOf g st
  let maxw := if r.nstage = 0 then 0 else (r.stages.getD st ⟨0, 0, 0⟩).maxw
  (if ins.isEmpty then !g.closed.contains st else ins.all (fun q => q.committed > q.head)) &&
  (s.outputsOf g st).all (fun q => (q.reserved - q.head) * 4 ≤ qDepth q.ctl * 3) &&
  (maxw == 0 || ((s.wavesOf gid).filter (fun e => e.2.inStage && e.2.stage == st)).length < maxw)

/-- A wave in a new stage (R46, R59, R90): s0 to s7 are kept, every other register and predicate is zero, the latches are
invalid and their tags cleared, the fairness counter and the rover are zero, and its threads stand at the stage's entry. -/
def Wave.enterStage (w : Wave) (st : Nat) (entry : BitVec 64) : Wave :=
  let w := w.goto w.alive entry
  { w with
    v := [], p := [], s := w.s.filter (fun e => e.1 < 8), latches := [Latch.clear, Latch.clear, Latch.clear, Latch.clear]
    stage := st, inStage := true, busy := .no, chain := 0, fairCnt := 0, rover := 0, pick := none, mark := none }

/-- A wave that waits in SNEXT: it takes the highest eligible stage, or exits once every stage is closed and no element is
still being copied into a queue, or waits on.
The exit takes the checks of R163 and R306 first, and the report of refused stores (R47). -/
def State.tryStage (s : State) (k : Nat) : State :=
  match Tab.get? s.waves k with
  | none => s
  | some w =>
    match w.busy, Tab.get? s.wgs w.wg with
    | .stage, some g =>
      match s.rcdOf g with
      | none => s
      | some r =>
        let sts := List.range (r.nstage + 1)
        match (sts.reverse).find? (s.eligible w.wg g r) with
        | some st => s.setWave k (w.enterStage st (r.stageEntry st))
        | none =>
          if sts.all (fun st => g.closed.contains st) && g.queues.all (fun e => e.2.copies.isEmpty) then
            let w := { w with busy := .no, waiting := w.waiting &&& ~~~w.alive }
            let pc := w.pcOf (w.alive.lowest.getD 0)
            let i : Iss := ⟨k, w, w.alive, w.alive, pc, pc + 8⟩
            match i.checks (s.setWave k w) (some w.alive) true with
            | some t => t
            | none => s.setWave k (w.leave w.alive false)
          else s
    | _, _ => s

/-- The waiting waves of a workgroup examined again, oldest first (R45): the oldest has the lowest `%waveid` (R55; log entry
38). -/
def State.restage (s : State) (gid : Nat) : State :=
  (List.range 32).foldl (fun s i =>
    ((s.wavesOf gid).filter (fun e => e.2.waveid == i)).foldl (fun s e => s.tryStage e.1) s) s

/-- SNEXT: every thread of the wave waits here; then the stage closes where it asks so, and the wave is reassigned. The
waves that wait already are examined first, and with it after a close, oldest first (R45). -/
def execSnext (h : Hdr) (close : Bool) (s : State) : Res :=
  collective h 8 .stalls .qerr s (fun i s =>
    match s.wgOf i.w with
    | none => s
    | some g =>
      if close && !(s.inputsOf g i.w.stage).isEmpty then i.trap s .qerr i.act
      else if !i.together then i.wait s
      else
        let s := s.restage i.w.wg
        let s := s.modWave i.k (fun w => { w with waiting := w.waiting ||| i.act, inStage := false, busy := .stage })
        if close then
          ((s.modWg i.w.wg (fun g => { g with closed := if g.closed.contains i.w.stage then g.closed else
            i.w.stage :: g.closed })).closeStages i.w.wg).restage i.w.wg
        else s.tryStage i.k)

/-- STAGE_REASSIGN: a waiting wave is examined again. -/
def execStageReassign (k : Nat) (s : State) : Res := .next (s.tryStage k)

/-! ## Parked threads that resume (R30, R51) -/

/-- Whether a page that a thread waits for lets its access be made again: it is mapped, or the pager has answered (R51, R452). -/
def State.pageReady (s : State) (vd ctx va : Nat) (write : Bool) : Bool :=
  match s.ctx? vd ctx with
  | none => true
  | some c =>
    !s.awaits vd ctx va ||
    match s.walk c.format va with
    | .absent => false
    | .xlate => true
    | .leaf _ _ _ _ w _ => !write || w

/-- Whether what a parked lane waits for has come (R51). A lane restored from a frame or an image waits for nothing in
particular and checks again. -/
def State.resolved (s : State) (w : Wave) (g : Workgroup) (l : Nat) : Bool :=
  match Tab.get? w.parkArg l with
  | none => true
  | some (.page va wr) => s.pageReady g.vd g.ctx va wr
  | some (.granule gr) => s.feOf gr
  | some (.counter loc a t) =>
    if loc then leNat (cellsGet s.scratch a 8) ≥ t
    else match (s.peek g.vd g.ctx a).map (s.homePlace g.vd) with
      | none => true
      | some p => p.space == .fab || leNat (s.readBytes p 8) ≥ t
  | some (.queue q) =>
    match Tab.get? g.queues q with
    | none => true
    | some x =>
      if w.reasonOf l = 4 then x.avail > 0 || (g.closed.contains (qProd x.ctl) && x.copies.isEmpty)
      else x.reserved - x.head < qDepth x.ctl
  | some (.barrier _ _ _) => false

/-- A wave whose threads may resume: it is not in the middle of an instruction. -/
def Wave.settled (w : Wave) : Bool :=
  match w.busy with
  | .remote | .kv | .frame _ | .away _ | .inv _ _ => false
  | _ => true

/-- THREAD_RESUME: a parked thread whose condition is resolved is runnable again, with the threads of its park group. -/
def execThreadResume (k lane : Nat) (s : State) : Res :=
  match Tab.get? s.waves k with
  | none => .next s
  | some w =>
    match Tab.get? s.wgs w.wg with
    | none => .next s
    | some g =>
      if w.parked.has lane && w.settled && s.resolved w g lane then
        let m := match Tab.get? w.group lane with
          | some n => Mask.ofFn (fun l => w.parked.has l && Tab.get? w.group l == some n)
          | none => Mask.ofFn (fun l => w.parked.has l && (Tab.get? w.group l).isNone && w.pcOf l == w.pcOf lane)
        let s := if w.reasonOf lane = 3 then s.sample g.core g.vd 4 (s.clock - Tab.getD w.parkAt lane s.clock) 0 else s
        .next (s.setWave k (w.unpark m))
      else .next s

end Sys2Proof.Machine
end

