-- ==== Sys2Proof/Machine/Card.lean ====
section
/-! DEFINITION. Card.lean: job cards as bytes: the header, footprints and their conflicts, copy descriptors and
micro-operation programs, and what makes a card ill-formed (R284 to R301, R318 to R327, R386 to R390, R412 to R416). -/

namespace Sys2Proof.Machine

open Sys2Proof

/-- A field of a card or of another structure held as bytes. -/
def bfield (b : List Byte) (lo n : Nat) : Nat := bitsOf (leNat b) lo n

/-- Whether bits [lo + n − 1 : lo] are zero. -/
def bzero (b : List Byte) (lo n : Nat) : Bool := bfield b lo n == 0

/-- A signed field. -/
def sfield (b : List Byte) (lo n : Nat) : Int :=
  let x := bfield b lo n
  if x < 2 ^ (n - 1) then x else (x : Int) - 2 ^ n

/-! ## The header (R285, R286) -/

/-- KIND. -/
def cKind (b : List Byte) : Nat := bfield b 0 8
/-- Entries of the card. -/
def cEntries (b : List Byte) : Nat := bfield b 8 2 + 1
/-- Footprint entries. -/
def cNfp (b : List Byte) : Nat := bfield b 10 2
/-- GUARD. -/
def cGuard (b : List Byte) : Nat := bfield b 16 4
/-- SCOPE. -/
def cScope (b : List Byte) : Nat := bfield b 24 4
/-- CM. -/
def cCm (b : List Byte) : Nat := bfield b 28 2
/-- INCR. -/
def cIncr (b : List Byte) : Nat := bfield b 32 32
/-- CNTADDR. -/
def cCnt (b : List Byte) : Nat := bfield b 64 64
/-- Word i of the body of a matrix, attention or rotation card (R318). -/
def cWord (b : List Byte) (i : Nat) : Nat := bfield b (128 + 32 * i) 32

/-- NENT + 1 and NFP of a kind. -/
def kindShape (k : Nat) : Option (Nat × Nat) :=
  if k = 1 ∨ k = 3 ∨ k = 4 then some (3, 2)
  else if k = 2 then some (4, 1)
  else if k = 0x10 ∨ k = 0x11 ∨ k = 0x12 ∨ k = 0x18 ∨ k = 0x20 then some (4, 2)
  else none

/-- Whether a kind is of the copy family. -/
def isCopy (k : Nat) : Bool := 1 ≤ k && k ≤ 4

/-- The bytes of a header. -/
def hdrBytes (kind nent nfp cnt incr cm scope guard : Nat) : List Byte :=
  leBytes (cnt * 2 ^ 64 + incr * 2 ^ 32 + cm * 2 ^ 28 + scope * 2 ^ 24 + guard * 2 ^ 16 + nfp * 2 ^ 10 +
    (nent - 1) * 2 ^ 8 + kind) 16

/-! ## Footprints (R287 to R289) -/

/-- An empty range. -/
def Range.none : Range := ⟨0, 0, 0, false⟩

/-- The range in 16 bytes. -/
def rangeOf (b : List Byte) : Range := ⟨bfield b 22 2, bfield b 64 64, bfield b 24 40, bfield b 21 1 == 1⟩

/-- The bytes of a range. -/
def Range.bytes (r : Range) : List Byte :=
  leBytes (r.base % 2 ^ 64 * 2 ^ 64 + r.len * 2 ^ 24 + r.space * 2 ^ 22 + (if r.w then 2 ^ 21 else 0)) 16

/-- The footprint bytes of a card, one 16-byte piece a range. -/
def rangePieces (b : List Byte) : List (List Byte) :=
  let o := 32 * (cEntries b - cNfp b)
  (List.range (2 * cNfp b)).map (fun i => (b.drop (o + 16 * i)).take 16)

/-- The ranges of a card's footprint. -/
def cRanges (b : List Byte) : List Range := (rangePieces b).map rangeOf

/-- A range that its workgroup allows (R287, R312, R375). -/
def Workgroup.rangeOk (g : Workgroup) (r : Range) : Bool :=
  if r.space = 0 then r.base == 0 && r.len == 0 && !r.w
  else if r.space = 2 then
    r.len == 0 || (r.base + r.len ≤ g.salloc && !(g.jrnSize != 0 && g.onJournal r.base r.len) &&
      !(r.w && g.onNotify r.base r.len))
  else if r.space = 3 then r.base < 2 ^ 19 && r.base % 2 ^ 17 < 122880
  else true

/-- Two ranges that conflict (R288). -/
def Range.conflicts (a b : Range) : Bool :=
  a.space == b.space && a.space != 0 && a.len != 0 && b.len != 0 && (a.w || b.w) &&
    decide (a.base / 64 ≤ (b.base + b.len - 1) / 64) && decide (b.base / 64 ≤ (a.base + a.len - 1) / 64)

/-- The ranges that take part in a card's conflicts. -/
def Card.ranges (c : Card) : List Range := cRanges c.bytes ++ c.implied.toList

/-- Whether one card depends on an earlier one (R288). -/
def Card.dependsOn (c d : Card) : Bool := c.ranges.any (fun a => d.ranges.any (fun b => a.conflicts b))

/-- Whether an access lies within the ranges of a card (R289); a range and an access wrap at 2^64, as the addresses of a copy
do. DESIGN CHOICE (log entry 109): one access must lie within a single range. -/
def Card.covers (c : Card) (space base len : Nat) (w : Bool) : Bool :=
  c.ranges.any (fun r => r.space == space && decide ((base + (2 ^ 64 - r.base)) % 2 ^ 64 + len ≤ r.len) && (r.w || !w))

/-- The counter of a header in its workgroup (R285). -/
def Workgroup.counterOk (g : Workgroup) (b : List Byte) : Bool :=
  let a := cCnt b
  let n := if cCm b = 2 then 16 else 8
  a % n == 0 && !(cCm b == 2 && cIncr b != 0) &&
  (cCm b == 0 || a == 0 || (decide (a < 2 ^ 19) && decide (a + n ≤ g.salloc) &&
    !(g.jrnSize != 0 && g.onJournal a n) && !g.onNotify a n))

/-- The rules of R285 to R287 that every card obeys. -/
def Workgroup.cardOk (g : Workgroup) (b : List Byte) : Bool :=
  bzero b 30 2 && bzero b 20 4 && bzero b 12 4 && cCm b != 3 && decide (cScope b ≤ 10) && decide (cGuard b ≤ 8) &&
  kindShape (cKind b) == some (cEntries b, cNfp b) && g.counterOk b &&
  (rangePieces b).all (fun p => bzero p 0 21) && (cRanges b).all g.rangeOk

/-! ## The copy descriptor (R296, R297) -/

/-- A dimension: extent, source and destination strides, source bound. -/
structure CopyDim where
  ext  : Nat
  sstr : Int
  dstr : Int
  lim  : Nat
  deriving DecidableEq, Repr

/-- A copy descriptor. -/
structure CopyDesc where
  src    : Nat
  dst    : Nat
  ssp    : Nat
  dsp    : Nat
  esz    : Nat
  sswz   : Nat
  dswz   : Nat
  fill   : Nat
  rowb   : Nat
  mask   : Nat
  srclen : Nat
  zeros  : Bool
  dims   : List CopyDim
  deriving DecidableEq, Repr

/-- The fields of a descriptor's bytes. -/
def CopyDesc.of (b : List Byte) : CopyDesc :=
  let nd := bfield b 144 8
  ⟨bfield b 0 64, bfield b 64 64, bfield b 128 2, bfield b 130 2, bfield b 136 8, bfield b 152 2, bfield b 154 2,
    bfield b 160 32, bfield b 192 32, bfield b 224 8, bfield b 256 40,
    bzero b 132 4 && bzero b 156 4 && bzero b 232 24 && bzero b 296 216,
    (List.range nd).map (fun d =>
      let e := (b.drop (64 + 16 * d)).take 16
      ⟨bfield e 0 32, sfield e 32 32, sfield e 64 32, bfield e 96 32⟩)⟩

/-- The size of an element in nibbles. -/
def CopyDesc.nibbles (d : CopyDesc) : Nat := 2 ^ d.esz
/-- Its size in bytes, where 4-bit elements count as one. -/
def CopyDesc.ebytes (d : CopyDesc) : Nat := max 1 (2 ^ d.esz / 2)
/-- The number of elements. -/
def CopyDesc.total (d : CopyDesc) : Nat := d.dims.foldl (fun n x => n * x.ext) 1

/-- PROG after p elements, in whole bytes: half a byte does not show in it (log entry 82). -/
def CopyDesc.progOf (d : CopyDesc) (p : Nat) : Nat := p * d.nibbles / 2

/-- The lowest and the highest linear element position of a side. -/
def spanOf (l : List (Nat × Int)) : Int × Int :=
  l.foldl (fun r e => (r.1 + min 0 (((e.1 : Int) - 1) * e.2), r.2 + max 0 (((e.1 : Int) - 1) * e.2))) (0, 0)

/-- The bounding range of a side (R301): its base address, which may lie below zero, and its length. -/
def sideRange (d : CopyDesc) (base swz : Nat) (l : List (Nat × Int)) : Int × Nat :=
  if l.any (fun e => e.1 = 0) then (0, 0)
  else
    let s := spanOf l
    let e : Int := d.nibbles
    if swz = 3 then (base, 32 * d.rowb * ((max 0 (e * s.2 / 2)).toNat / d.rowb / 32 + 1))
    else
      let lo := (2 * (base : Int) + e * s.1) / 2
      let hi := (2 * (base : Int) + e * s.2 + e + 1) / 2
      let lo' := if swz = 0 then lo else lo / 128 * 128
      let hi' := if swz = 0 then hi else (hi + 127) / 128 * 128
      (lo', (hi' - lo').toNat)

/-- The source side, whose out-of-bounds elements are not counted. -/
def CopyDesc.srcRange (d : CopyDesc) : Int × Nat :=
  sideRange d d.src d.sswz (d.dims.map (fun x => (if x.lim = 0 then x.ext else min x.ext x.lim, x.sstr)))
/-- The destination side. -/
def CopyDesc.dstRange (d : CopyDesc) : Int × Nat := sideRange d d.dst d.dswz (d.dims.map (fun x => (x.ext, x.dstr)))

/-- A side's range as a footprint range. A scratchpad range below zero lies outside every allocation. -/
def footRange (space : Nat) (r : Int × Nat) (w : Bool) : Range :=
  ⟨if r.2 = 0 then 0 else space, if r.2 = 0 then 0 else (r.1 % 2 ^ 64).toNat, r.2, w && r.2 != 0⟩

/-- The layout rules of one side. -/
def sideOk (d : CopyDesc) (space swz base : Nat) : Bool :=
  (space == 1 || space == 2) && base % d.ebytes == 0 &&
  (if space = 1 then swz == 0 || swz == 3 else swz != 3) &&
  (swz != 3 || (d.rowb % 256 == 0 && decide (256 ≤ d.rowb) && decide (d.rowb ≤ 1048576) && base % 8192 == 0))

/-- The micro-operations of a JGEN card: OP, D and IMM of each. -/
def microOps (b : List Byte) : List (Nat × Nat × Int) :=
  (List.range 16).map (fun i =>
    let w := (b.drop (4 * i)).take 4
    (bfield w 28 4, bfield w 24 4, sfield w 0 24))

/-- A well-formed program (R299). -/
def microOk (ndim : Nat) (l : List (Nat × Nat × Int)) : Bool :=
  l.all (fun o => decide (o.1 ≤ 8) && (if o.1 = 2 ∨ o.1 = 5 then decide (o.2.1 < ndim) else o.2.1 == 0) &&
    (!(o.1 == 6 || o.1 == 7) || decide (o.2.2 > 0)))

/-- A descriptor that its instruction accepts (R297), for a kind and a gang. -/
def CopyDesc.ok (d : CopyDesc) (kind gangsz : Nat) : Bool :=
  let gen := kind == 2
  let fill := kind == 3
  d.zeros && decide (d.esz ≤ 5) && decide (1 ≤ d.dims.length) && decide (d.dims.length ≤ 16) &&
  d.dims.all (fun x => x.ext != 0) &&
  (if fill then d.ssp == 0 && d.src == 0 && d.sswz == 0 && d.dims.all (fun x => x.sstr == 0 && x.lim == 0)
    else sideOk d d.ssp d.sswz d.src) &&
  sideOk d d.dsp d.dswz d.dst && (kind != 4 || d.dsp == 2) &&
  (d.rowb == 0 || d.dswz == 3 || (!fill && d.sswz == 3)) &&
  decide ((d.nibbles * d.total + 1) / 2 ≤ 2 ^ 40 - 1) &&
  (fill || gen || decide (d.srcRange.2 < 2 ^ 40)) && decide (d.dstRange.2 < 2 ^ 40) &&
  (if kind = 4 then d.mask != 0 && decide (d.mask < 2 ^ gangsz) else d.mask == 0) && (gen || d.srclen == 0)

/-- The footprint of a copy-family card (R301). -/
def CopyDesc.footprint (d : CopyDesc) (kind desc : Nat) : List Range :=
  let dr : Range := ⟨2, desc, 64 + 16 * d.dims.length, false⟩
  let dst := footRange d.dsp d.dstRange true
  if kind = 3 then [dst, dr, Range.none, Range.none]
  else if kind = 2 then [⟨if d.srclen = 0 then 0 else d.ssp, if d.srclen = 0 then 0 else d.src, d.srclen, false⟩, dst]
  else [footRange d.ssp d.srcRange false, dst, dr, Range.none]

/-- The bytes of the descriptor at an offset, where it lies within the allocation (R296). -/
def State.descBytes (s : State) (g : Workgroup) (off : Nat) : Option (List Byte) :=
  if off % 16 ≠ 0 ∨ off + 64 > g.salloc then none
  else
    let nd := bfield (s.scratchRead g off 64) 144 8
    if nd = 0 ∨ nd > 16 ∨ off + 64 + 16 * nd > g.salloc then none
    else some (s.scratchRead g off (64 + 16 * nd))

/-- DESC of a copy card. -/
def cDesc (b : List Byte) : Nat := bfield b 128 19
/-- PROG of a copy card. -/
def cProg (b : List Byte) : Nat := bfield b 160 40
/-- GTAG of a copy card. -/
def cTag (b : List Byte) : Nat := bfield b 240 16

/-- The body rules of a copy-family card (R295, R297, R299, R304). -/
def State.copyOk (s : State) (g : Workgroup) (b : List Byte) : Bool :=
  bzero b 147 13 && bzero b 200 40 && (cKind b == 4 || cTag b == 0) &&
  match s.descBytes g (cDesc b) with
  | none => false
  | some x =>
    let d := CopyDesc.of x
    d.ok (cKind b) g.gangsz && cProg b % d.ebytes == 0 &&
    (cKind b != 2 || (g.rangeOk ⟨2, cDesc b, 128 + 16 * d.dims.length, false⟩ &&
      microOk d.dims.length (microOps (b.drop 32))))

/-! ## Matrix cards (R318 to R327) -/

/-- The bytes of the twelve words of a body. -/
def bodyBytes (ws : List Nat) : List Byte := (List.range 12).flatMap (fun i => leBytes (ws.getD i 0) 4)

/-- Words n + 2 to 11 of a body are zero. -/
def bodyTail (b : List Byte) (n : Nat) : Bool := (List.range 12).all (fun i => i < n + 2 || cWord b i == 0)

/-- A scratchpad range of n bytes from an offset; none where n is zero. -/
def scratchRange (base n : Nat) (w : Bool) : Range := if n = 0 then Range.none else ⟨2, base, n, w⟩

/-- The smallest range that covers some ranges of [base, base + n). -/
def hull (l : List (Nat × Nat)) (w : Bool) : Range :=
  match l.filter (fun e => e.2 != 0) with
  | [] => Range.none
  | e :: r =>
    let lo := r.foldl (fun m x => min m x.1) e.1
    let hi := r.foldl (fun m x => max m (x.1 + x.2)) (e.1 + e.2)
    ⟨2, lo, hi - lo, w⟩

/-- Tiles T to T + m − 1 of a slot as an accumulator range. -/
def tileRange (slot t m : Nat) (w : Bool) : Range :=
  if m = 0 then Range.none else ⟨3, slot * 2 ^ 17 + 3072 * t, 3072 * m, w⟩

/-- The width class of a format: its bits (R319); 0 where a matrix card does not take it. -/
def fmtClass (c : Nat) : Nat :=
  if [0x11, 0x12, 0x13, 0x1A, 0x1B, 0x1D].contains c then 4
  else if (1 ≤ c && c ≤ 7) || (9 ≤ c && c ≤ 15) || [0x18, 0x19, 0x1C].contains c then 8
  else if c = 0x20 ∨ c = 0x21 then 16
  else 0

/-- Whether a format is an integer one. -/
def fmtInt (c : Nat) : Bool := decide (0x18 ≤ c) && decide (c ≤ 0x1D)

/-- Bytes of n elements of a format. -/
def fmtBytes (c n : Nat) : Nat := (fmtClass c * n + 7) / 8

/-- JMMA's own restrictions on its format word (R319). -/
def mmaWord (f : FWord) : Bool :=
  f.ok && fmtClass f.afmt != 0 && fmtClass f.afmt == fmtClass f.bfmt && fmtInt f.afmt == fmtInt f.bfmt && f.out == 0 && f.rnd == 0 &&
    !f.sat

/-- The descriptor block of JMMA (R320). -/
structure MmaDesc where
  abase : Nat
  ald   : Nat
  bbase : Nat
  bld   : Nat
  k     : Nat
  mt    : Nat
  fuse  : Bool
  slot  : Nat
  t     : Nat
  asstr : Nat
  asbase : Nat
  ahstr : Nat
  ahbase : Nat
  bsstr : Nat
  bsbase : Nat
  bhstr : Nat
  bhbase : Nat
  deriving DecidableEq, Repr

/-- The fields of a JMMA body. -/
def MmaDesc.of (b : List Byte) : MmaDesc :=
  let w (i : Nat) : Nat := cWord b (2 + i)
  ⟨bitsOf (w 0) 0 19, bitsOf (w 1) 0 20, bitsOf (w 2) 0 19, bitsOf (w 3) 0 20, bitsOf (w 4) 16 15, bitsOf (w 4) 0 9,
    bitsOf (w 5) 8 1 == 1, bitsOf (w 5) 6 2, bitsOf (w 5) 0 6, bitsOf (w 6) 19 8, bitsOf (w 6) 0 19, bitsOf (w 7) 19 9,
    bitsOf (w 7) 0 19, bitsOf (w 8) 19 8, bitsOf (w 8) 0 19, bitsOf (w 9) 19 9, bitsOf (w 9) 0 19⟩

/-- Blocks of 256 along a dot product. -/
def blocksOf (k : Nat) : Nat := (k + 255) / 256

/-- A scale array or a sub-shift array of a side: zero where unused, else wide enough. -/
def scaleOk (used : Bool) (str base need align : Nat) : Bool :=
  if used then decide (need ≤ str) && base % align == 0 else str == 0 && base == 0

/-- Whether the scratchpad ranges that a body gives lie within the allocation (R321, R324, R327). -/
def Workgroup.inAlloc (g : Workgroup) (l : List Range) : Bool :=
  l.all (fun r => r.space != 2 || r.len == 0 || decide (r.base + r.len ≤ g.salloc))

/-- A JMMA body that its instruction accepts (R320, R321), but for its ranges. The bits of words 6 to 9 that R320 gives no
field and does not call zero are not looked at. -/
def mmaBody (b : List Byte) (f : FWord) : Bool :=
  let w (i : Nat) : Nat := cWord b (2 + i)
  let d := MmaDesc.of b
  let nb := blocksOf d.k
  bodyTail b 10 && decide (w 0 < 2 ^ 19) && decide (w 1 < 2 ^ 20) && decide (w 2 < 2 ^ 19) && decide (w 3 < 2 ^ 20) &&
  bitsOf (w 4) 31 1 == 0 && bitsOf (w 4) 9 7 == 0 && decide (w 5 < 2 ^ 9) &&
  d.abase % 16 == 0 && d.ald % 16 == 0 && d.bbase % 16 == 0 && d.bld % 16 == 0 &&
  d.k % 32 == 0 && decide (32 ≤ d.k) && decide (d.k ≤ 16384) && d.mt % 16 == 0 && decide (16 ≤ d.mt) &&
  decide (d.mt ≤ 256) && (!d.fuse || (d.mt % 32 == 0 && d.slot % 2 == 0)) && decide (d.t ≤ 39) &&
  decide (fmtBytes f.afmt d.k ≤ d.ald) && decide (fmtBytes f.bfmt d.k ≤ d.bld) &&
  scaleOk (f.asc != 0) d.asstr d.asbase nb 1 && scaleOk (f.asc == 2) d.ahstr d.ahbase (2 * nb) 2 &&
  scaleOk (f.bsc != 0) d.bsstr d.bsbase nb 1 && scaleOk (f.bsc == 2) d.bhstr d.bhbase (2 * nb) 2 &&
  decide (d.t + d.mt / (if d.fuse then 32 else 16) ≤ 40)

/-- The bytes from the first to the last of r rows of n bytes, with a pitch. -/
def rowsLen (r pitch n : Nat) : Nat := if r = 0 ∨ n = 0 then 0 else (r - 1) * pitch + n

/-- The footprint of a JMMA card (R318). -/
def mmaFoot (b : List Byte) (f : FWord) : List Range :=
  let d := MmaDesc.of b
  let nb := blocksOf d.k
  let side (base ld fc rows sc ss sb hs hb : Nat) : Range :=
    hull [(base, rowsLen rows ld (fmtBytes fc d.k)), (sb, if sc = 0 then 0 else rowsLen rows ss nb),
      (hb, if sc = 2 then rowsLen rows hs (2 * nb) else 0)] false
  [side d.abase d.ald f.afmt d.mt f.asc d.asstr d.asbase d.ahstr d.ahbase,
    side d.bbase d.bld f.bfmt 32 f.bsc d.bsstr d.bsbase d.bhstr d.bhbase,
    tileRange d.slot d.t (d.mt / (if d.fuse then 32 else 16)) true,
    if d.fuse then tileRange (d.slot + 1) d.t (d.mt / 32) true else Range.none]

/-- The operation of a JACC card: 0 zero, 1 load, 2 out (R324). -/
def accOp (b : List Byte) : Nat := bitsOf (cWord b 4) 16 2

/-- Bytes of an element of OUT. -/
def outBytes (out : Nat) : Nat := if out = 0 then 6 else if out = 1 then 4 else 2

/-- JACC's own restrictions on its format word (R324). DESIGN CHOICE (log entry 111): an integer type with OUT other than 0 is
ill-formed for `.load` alone. -/
def accWord (f : FWord) (op : Nat) : Bool :=
  f.ok && f.bfmt == f.afmt && !f.ainf && !f.binf && f.asc == 0 && f.bsc == 0 && !f.acc &&
  (op != 0 || (f.out == 0 && f.rnd == 0 && !f.sat)) && (op != 1 || (f.rnd == 0 && !f.sat)) &&
  !(op == 1 && fmtInt f.afmt && f.out != 0)

/-- A JACC body that its instruction accepts (R324). -/
def accBody (b : List Byte) (f : FWord) : Bool :=
  let w (i : Nat) : Nat := cWord b (2 + i)
  let op := accOp b
  let nt := bitsOf (w 2) 6 6
  bodyTail b 4 && decide (w 0 < 2 ^ 19) && w 0 % 16 == 0 && decide (w 1 < 2 ^ 20) && w 1 % 16 == 0 &&
  (op == 0 || decide (32 * outBytes f.out ≤ w 1)) && bitsOf (w 2) 19 13 == 0 && bitsOf (w 2) 14 2 == 0 && op != 3 &&
  decide (1 ≤ nt) && decide (nt ≤ 40) && decide (bitsOf (w 2) 0 6 + nt ≤ 40) && bitsOf (w 3) 19 5 == 0 &&
  (bitsOf (w 2) 18 1 == 0 || bitsOf (w 3) 0 19 % 16 == 0) && (op != 0 || (w 0 == 0 && w 1 == 0 && w 3 == 0)) &&
  (op == 2 || (bitsOf (w 2) 18 1 == 0 && w 3 == 0)) &&
  (!(op == 2 && f.out == 0) || (bitsOf (w 2) 18 1 == 0 && bitsOf (w 3) 24 8 == 0))

/-- The footprint of a JACC card. -/
def accFoot (b : List Byte) (f : FWord) : List Range :=
  let w (i : Nat) : Nat := cWord b (2 + i)
  let op := accOp b
  let nt := bitsOf (w 2) 6 6
  [if op = 0 then Range.none else scratchRange (w 0) (rowsLen (16 * nt) (w 1) (32 * outBytes f.out)) (op == 2),
    if bitsOf (w 2) 18 1 = 1 then scratchRange (bitsOf (w 3) 0 19) 128 false else Range.none,
    tileRange (bitsOf (w 2) 12 2) (bitsOf (w 2) 0 6) nt (op != 2), Range.none]

/-- JMV's own restrictions on its format word (R327). -/
def mvWord (f : FWord) : Bool :=
  f.ok && (fmtClass f.afmt == 4 || fmtClass f.afmt == 8) && !([0x19, 0x1B].contains f.afmt) &&
  (f.bfmt == 0x21 || (decide (1 ≤ f.bfmt) && decide (f.bfmt ≤ 7)) || f.bfmt == 0x18) && (f.bfmt == 0x18) == fmtInt f.afmt &&
  f.bsc != 2 && decide (f.out ≤ 1) && !(f.acc && fmtInt f.afmt && f.out == 1) && (f.out != 0 || (f.rnd == 0 && !f.sat))

/-- The descriptor block of JMV (R327). -/
structure MvDesc where
  wbase : Nat
  wsbase : Nat
  rowb  : Nat
  k     : Nat
  n     : Nat
  xbase : Nat
  ybase : Nat
  yld   : Nat
  xld   : Nat
  b     : Nat
  xsbase : Nat
  deriving DecidableEq, Repr

/-- The fields of a JMV body. -/
def MvDesc.of (b : List Byte) : MvDesc :=
  let w (i : Nat) : Nat := cWord b (2 + i)
  ⟨w 0 + w 1 * 2 ^ 32, w 2 + w 3 * 2 ^ 32, w 4, 32 * bitsOf (w 5) 16 16, bitsOf (w 5) 0 16, bitsOf (w 6) 0 19,
    bitsOf (w 7) 0 19, 16 * bitsOf (w 8) 16 16, 16 * bitsOf (w 8) 0 16, bitsOf (w 9) 20 2 + 1, bitsOf (w 9) 0 19⟩

/-- Bytes of an element of y. -/
def yBytes (f : FWord) : Nat := if f.out = 0 then 6 else 4

/-- A JMV body that its instruction accepts. -/
def mvBody (b : List Byte) (f : FWord) : Bool :=
  let w (i : Nat) : Nat := cWord b (2 + i)
  let d := MvDesc.of b
  bodyTail b 10 && d.wbase % 8192 == 0 && canonical (BitVec.ofNat 64 d.wbase) && (f.asc != 0 || d.wsbase == 0) &&
  d.rowb % 256 == 0 && decide (256 ≤ d.rowb) && decide (d.rowb ≤ 1048576) && decide (fmtBytes f.afmt d.k ≤ d.rowb) &&
  decide (32 ≤ d.k) && decide (d.k ≤ 65536) && decide (1 ≤ d.n) && decide (w 6 < 2 ^ 19) && d.xbase % 16 == 0 &&
  decide (w 7 < 2 ^ 19) && d.ybase % 16 == 0 && decide (d.n * yBytes f ≤ d.yld) && decide (fmtBytes f.bfmt d.k ≤ d.xld) &&
  bitsOf (w 9) 22 10 == 0 && bitsOf (w 9) 19 1 == 0 && (f.bsc != 0 || d.xsbase == 0) &&
  decide (d.b * fmtBytes f.bfmt d.k ≤ 262144)

/-- Bytes of the scale and sub-shift arrays of W. -/
def MvDesc.scaleLen (d : MvDesc) (f : FWord) : Nat :=
  let nb := blocksOf d.k
  if f.asc = 0 then 0 else d.n * nb + (if f.asc = 2 then 2 * d.n * nb else 0)

/-- The footprint of a JMV card. -/
def mvFoot (b : List Byte) (f : FWord) : List Range :=
  let d := MvDesc.of b
  [⟨1, d.wbase, 32 * d.rowb * ((d.n + 31) / 32), false⟩,
    if d.scaleLen f = 0 then Range.none else ⟨1, d.wsbase, d.scaleLen f, false⟩,
    hull [(d.xbase, rowsLen d.b d.xld (fmtBytes f.bfmt d.k)), (d.xsbase, if f.bsc = 0 then 0 else d.b * blocksOf d.k)] false,
    scratchRange d.ybase (rowsLen d.b d.yld (d.n * yBytes f)) true]

/-! ## Attention cards (R387 to R390) -/

/-- The formats of Q, K and V. -/
def attnFmt (c : Nat) : Bool := (decide (1 ≤ c) && decide (c ≤ 7)) || c == 0x20 || c == 0x21

/-- JATTN's own restrictions on its format word (R387). -/
def attnWord (f : FWord) : Bool :=
  f.ok && attnFmt f.afmt && attnFmt f.bfmt && (f.out == 1 || f.out == 2) && f.asc == 0 && f.bsc == 0 && !f.acc

/-- The descriptor block of JATTN (R388). -/
structure AttnDesc where
  d     : Nat
  qr    : Nat
  qbase : Nat
  old   : Nat
  qld   : Nat
  obase : Nat
  ring  : Bool
  causal : Bool
  final : Bool
  init  : Bool
  ml    : Nat
  scl   : Nat
  qpos  : Nat
  voff  : Nat
  koff  : Nat
  bcount : Nat
  bfirst : Nat
  bt    : Nat
  slots : Nat
  rbase : Nat
  table : Nat
  tpb   : Nat
  nblk  : Nat
  cv    : Bool
  cbase : Nat
  deriving DecidableEq, Repr

/-- The fields of a JATTN body. -/
def AttnDesc.of (b : List Byte) : AttnDesc :=
  let w (i : Nat) : Nat := cWord b (2 + i)
  ⟨32 * (bitsOf (w 0) 24 5 + 1), bitsOf (w 0) 19 5 + 1, bitsOf (w 0) 0 19, 16 * bitsOf (w 1) 15 15,
    16 * bitsOf (w 1) 0 15, bitsOf (w 2) 0 19, bitsOf (w 3) 22 1 == 1, bitsOf (w 3) 21 1 == 1, bitsOf (w 3) 20 1 == 1,
    bitsOf (w 3) 19 1 == 1, bitsOf (w 3) 0 19, w 4, w 5, 16 * bitsOf (w 6) 12 12, 16 * bitsOf (w 6) 0 12,
    bitsOf (w 7) 16 16, bitsOf (w 7) 0 16, 16 * 2 ^ bitsOf (w 7) 22 2, bitsOf (w 7) 19 3 + 1, bitsOf (w 7) 0 19,
    w 8 + w 9 * 2 ^ 32, 16 * bitsOf (w 8) 16 16, bitsOf (w 8) 0 16, bitsOf (w 9) 19 1 == 1, bitsOf (w 9) 0 19⟩

/-- Bytes of an element of a Q, K or V format. -/
def attnBytes (c : Nat) : Nat := if c ≥ 0x20 then 2 else 1

/-- The scratchpad ranges of R390 and of a slot ring with its counter word, as (base, bytes, written). -/
def attnRanges (d : AttnDesc) (f : FWord) : List Range :=
  [scratchRange d.qbase ((d.qr - 1) * d.qld + d.d * attnBytes f.afmt) false,
    scratchRange d.obase ((d.qr - 1) * d.old + 4 * d.d) true, scratchRange d.ml 272 true, Range.none]

/-- A JATTN body that its instruction accepts (R388, R389). -/
def attnBody (g : Workgroup) (b : List Byte) (f : FWord) : Bool :=
  let w (i : Nat) : Nat := cWord b (2 + i)
  let d := AttnDesc.of b
  let ring : List Range := if d.ring then
      [scratchRange d.rbase (d.slots * d.bt * d.tpb) true, if d.cv then scratchRange d.cbase 8 true else Range.none]
    else []
  bodyTail b 10 && bitsOf (w 0) 29 3 == 0 && decide (d.d ≤ 256) && d.qbase % 16 == 0 && bitsOf (w 1) 30 2 == 0 &&
  decide (4 * d.d ≤ d.old) && decide (d.d * attnBytes f.afmt ≤ d.qld) && bitsOf (w 2) 19 13 == 0 && d.obase % 16 == 0 &&
  bitsOf (w 3) 23 9 == 0 && d.ml % 16 == 0 && bitsOf (w 6) 24 8 == 0 && (d.final || f.out == 1) &&
  decide (d.scl % 2 ^ 31 < 0x7F800000) &&
  (if d.ring then
    bitsOf (w 7) 24 8 == 0 && bitsOf (w 7) 22 2 != 3 && decide (2 ≤ d.slots) && d.rbase % 16 == 0 &&
    decide (16 ≤ d.tpb) && decide (d.tpb ≤ 16 * 4095) && decide (1 ≤ d.nblk) && bitsOf (w 9) 20 12 == 0 &&
    (!d.cv || d.cbase % 8 == 0) && decide (d.koff + d.d * attnBytes f.bfmt ≤ d.tpb) &&
    decide (d.voff + d.d * attnBytes f.bfmt ≤ d.tpb)
  else d.table % 16 == 0 && canonical (BitVec.ofNat 64 d.table)) &&
  (attnRanges d f).all g.rangeOk && ring.all g.rangeOk

/-! ## Rotation cards (R412 to R416) -/

/-- The descriptor block of JROT (R413). -/
structure RotDesc where
  cons  : Nat
  slots : Nat
  ssp   : Nat
  nstep : Nat
  dsp   : Nat
  fgrp  : Nat
  rid   : Nat
  blk   : Nat
  rbase : Nat
  cbase : Nat
  src   : Nat
  dst   : Nat
  deriving DecidableEq, Repr

/-- The fields of a JROT body; `blk` is B in bytes. -/
def RotDesc.of (b : List Byte) : RotDesc :=
  let w (i : Nat) : Nat := cWord b (2 + i)
  let k := bitsOf (w 1) 0 11
  ⟨bitsOf (w 0) 30 2, bitsOf (w 0) 27 3 + 1, bitsOf (w 0) 24 2, bitsOf (w 0) 16 8, bitsOf (w 0) 6 2, bitsOf (w 0) 0 6,
    bitsOf (w 1) 16 16, 256 * (if k = 0 then 2048 else k), bitsOf (w 2) 0 19, bitsOf (w 3) 0 19, w 4 + w 5 * 2 ^ 32,
    w 6 + w 7 * 2 ^ 32⟩

/-- BLK256 of a body. -/
def RotDesc.blk256 (d : RotDesc) : Nat := if d.blk = 524288 then 0 else d.blk / 256

/-- JROT's own restrictions on its format word (R414). -/
def rotWord (x : Word) (cons : Nat) : Bool :=
  if cons = 2 then
    let f := FWord.of x
    f.afmt == 0x21 && f.bfmt == 0x21 && decide (1 ≤ f.out) && decide (f.rnd ≤ 4) && !f.ainf && !f.binf && f.asc == 0 &&
      f.bsc == 0 && !f.acc && f.ok
  else x == 0

/-- The footprint of a JROT card (R416), with G taken as NSTEP + 1. -/
def rotFoot (d : RotDesc) : List Range :=
  let g := d.nstep + 1
  let foot (sp base n : Nat) (w : Bool) : Range := ⟨sp, base, n, w⟩
  [foot d.ssp d.src (if d.cons = 2 then g * d.blk else d.blk) false,
    if d.cons = 0 then Range.none else foot d.dsp d.dst (if d.cons = 1 then g * d.blk else d.blk) true,
    if d.cons = 0 then scratchRange d.cbase 8 false else Range.none, Range.none]

/-- Two ranges of bytes that share one. -/
def overlaps (a n b m : Nat) : Bool := decide (0 < n) && decide (0 < m) && decide (a < b + m) && decide (b < a + n)

/-- An address of a space: canonical and global, or an offset with every other bit zero; 16-byte aligned. -/
def placeOk (sp a : Nat) : Bool :=
  a % 16 == 0 && (if sp = 1 then canonical (BitVec.ofNat 64 a) else decide (a < 2 ^ 19))

/-- A JROT body that its instruction accepts (R413, R415). -/
def rotBody (g : Workgroup) (b : List Byte) (x : Word) : Bool :=
  let w (i : Nat) : Nat := cWord b (2 + i)
  let d := RotDesc.of b
  let ringLen := d.slots * d.blk
  let ranges := rotFoot d
  bodyTail b 8 && cWord b 1 == 0 && d.cons != 3 && decide (2 ≤ d.slots) && bitsOf (w 0) 26 1 == 0 &&
  (d.ssp == 1 || d.ssp == 2) && decide (1 ≤ d.nstep) && bitsOf (w 0) 8 8 == 0 &&
  (if d.cons = 0 then d.dsp == 0 else d.dsp == 1 || d.dsp == 2) && bitsOf (w 1) 11 5 == 0 && decide (w 2 < 2 ^ 19) &&
  d.rbase % 16 == 0 && decide (w 3 < 2 ^ 19) && (if d.cons = 0 then d.cbase % 8 == 0 else d.cbase == 0) &&
  placeOk d.ssp d.src && (if d.cons = 0 then d.dst == 0 else placeOk d.dsp d.dst) &&
  g.rangeOk (scratchRange d.rbase ringLen true) && ranges.all g.rangeOk &&
  !(d.cons == 0 && overlaps d.rbase ringLen d.cbase 8) &&
  ranges.all (fun r => !(r.space == 2 && overlaps d.rbase ringLen r.base r.len)) &&
  (d.cons != 2 || d.blk % outBytes (FWord.of x).out == 0)

/-! ## Every kind -/

/-- The body rules of a card's kind (R291). -/
def State.bodyOk (s : State) (g : Workgroup) (b : List Byte) : Bool :=
  let x := BitVec.ofNat 32 (cWord b 0)
  let f := FWord.of x
  if isCopy (cKind b) then s.copyOk g b
  else if cKind b = 0x10 then mmaWord f && mmaBody b f && g.inAlloc (mmaFoot b f)
  else if cKind b = 0x11 then accWord f (accOp b) && accBody b f && g.inAlloc (accFoot b f)
  else if cKind b = 0x12 then mvWord f && mvBody b f && g.inAlloc (mvFoot b f)
  else if cKind b = 0x18 then attnWord f && attnBody g b f
  else rotWord x (RotDesc.of b).cons && rotBody g b x

end Sys2Proof.Machine
end

