-- ==== Sys2Proof/Machine/Pool.lean ====
section
/-! DEFINITION. Pool.lean: key-value block pools in global memory as the KV engines and the attention engines read and
change them: descriptors, tables, entries, free stacks, deferred lists and reader epochs (R397 to R399, R408). -/

namespace Sys2Proof.Machine

open Sys2Proof

/-! ## Global memory as an engine of the device reaches it -/

/-- The pieces of n bytes at an address of a context, where every page has a present translation to this device or the
host. -/
def State.peekSpan (s : State) (vd ctx : Nat) : Nat → Nat → Nat → Option (List Piece)
  | 0, _, n => if n = 0 then some [] else none
  | fuel + 1, va, n =>
    if n = 0 then some []
    else
      let len := min n (4096 - va % 4096)
      match s.peek vd ctx va with
      | none => none
      | some l =>
        if l.space = .fab then none
        else (State.peekSpan s vd ctx fuel (va + len) (n - len)).map (fun r => ⟨l, va, len⟩ :: r)

/-- n bytes at an address; zeros where a page is absent. -/
def State.vread (s : State) (g : Agent) (va n : Nat) : List Byte :=
  match s.peekSpan g.vd g.ctx (n / 4096 + 2) va n with
  | some ps => s.readPieces ps
  | none => List.replicate n 0

/-- Bytes written at an address; nothing where a page is absent. -/
def State.vwrite (s : State) (g : Agent) (va : Nat) (bs : List Byte) : State :=
  match s.peekSpan g.vd g.ctx (bs.length / 4096 + 2) va bs.length with
  | some ps => s.writePieces g ps bs false
  | none => s

/-- A little-endian value at an address. -/
def State.vnat (s : State) (g : Agent) (va n : Nat) : Nat := leNat (s.vread g va n)

/-- A value of n bytes written at an address. -/
def State.vput (s : State) (g : Agent) (va n x : Nat) : State := s.vwrite g va (leBytes x n)

/-! ## The pool descriptor (R397) -/

/-- A descriptor's fields. -/
def Pool.of (x : Nat) : Pool :=
  ⟨bitsOf x 896 128 == 0 && bitsOf x 706 62 == 0, bitsOf x 864 32, bitsOf x 832 32, bitsOf x 768 64, bitsOf x 704 2,
    bitsOf x 672 32, bitsOf x 640 32, bitsOf x 608 32, bitsOf x 576 32, bitsOf x 544 32, bitsOf x 512 32, bitsOf x 480 32,
    bitsOf x 448 32, bitsOf x 384 64, bitsOf x 320 64, bitsOf x 256 64, bitsOf x 192 64, bitsOf x 128 64, bitsOf x 64 64,
    bitsOf x 0 64⟩

/-- The descriptor at an address. -/
def State.poolAt (s : State) (g : Agent) (a : Nat) : Pool := Pool.of (s.vnat g a 128)

/-- Tokens per block. -/
def Pool.bs (p : Pool) : Nat := 16 * 2 ^ p.bsz
/-- Bytes of a token row. -/
def Pool.tpb (p : Pool) : Nat := p.bpb / p.bs
/-- Blocks of a tier. -/
def Pool.nblk (p : Pool) (t : Nat) : Nat := if t = 0 then p.nblk0 else p.nblk1
/-- Free blocks of a tier. -/
def Pool.top (p : Pool) (t : Nat) : Nat := if t = 0 then p.top0 else p.top1
/-- The address of a block. -/
def Pool.blockAt (p : Pool) (t b : Nat) : Nat := (if t = 0 then p.tb0 else p.tb1) + b * p.bpb
/-- The address of a block's count. -/
def Pool.countAt (p : Pool) (t b : Nat) : Nat := (if t = 0 then p.rc0 else p.rc1) + 2 * b
/-- The address of slot j of a tier's free stack. -/
def Pool.freeAt (p : Pool) (t j : Nat) : Nat := (if t = 0 then p.fl0 else p.fl1) + 4 * j
/-- Records on the deferred list. -/
def Pool.deferred (p : Pool) : Nat := (p.dftail + 2 ^ 32 - p.dfhead) % 2 ^ 32
/-- The address of a record. -/
def Pool.recordAt (p : Pool) (j : Nat) : Nat := p.dfbase + 8 * (j % p.dfcap)

/-- An address that a structure of a pool may have. -/
def poolAddr (a n : Nat) : Bool := a % n == 0 && canonical (BitVec.ofNat 64 a)

/-- A descriptor that obeys R397. -/
def Pool.ok (p : Pool) : Bool :=
  p.zero && p.bsz != 3 && p.bpb % (16 * p.bs) == 0 && decide (256 ≤ p.bpb) && decide (p.bpb ≤ 1048576) &&
  decide (1 ≤ p.dfcap) && decide (1 ≤ p.nblk0) && poolAddr p.tb0 65536 && poolAddr p.tb1 65536 && poolAddr p.fl0 4 && poolAddr p.fl1 4 &&
  poolAddr p.rc0 2 && poolAddr p.rc1 2 && poolAddr p.dfbase 8

/-- TOP of a tier set. -/
def State.setTop (s : State) (g : Agent) (a t x : Nat) : State := s.vput g (a + (if t = 0 then 64 else 68)) 4 x

/-- The number on top of a tier's free stack, popped. -/
def State.poolPop (s : State) (g : Agent) (a t : Nat) : Nat × State :=
  let p := s.poolAt g a
  (s.vnat g (p.freeAt t (p.top t - 1)) 4, s.setTop g a t (p.top t - 1))

/-- A block pushed on a tier's free stack. -/
def State.poolPush (s : State) (g : Agent) (a t b : Nat) : State :=
  let p := s.poolAt g a
  (s.vput g (p.freeAt t (p.top t)) 4 b).setTop g a t (p.top t + 1)

/-- RCNT of a parity. -/
def Pool.rcnt (p : Pool) (odd : Bool) : Nat := if odd then p.rcnt1 else p.rcnt0

/-- The records of a parity at the head of the deferred list return to their stacks. -/
def poolFree (g : Agent) (a : Nat) (par : Nat) : Nat → State → State
  | 0, s => s
  | n + 1, s =>
    let p := s.poolAt g a
    let r := s.vnat g (p.recordAt p.dfhead) 8
    if p.deferred = 0 ∨ bitsOf r 33 1 ≠ par then s
    else
      let s := s.poolPush g a (bitsOf r 32 1) (bitsOf r 0 32)
      poolFree g a par n (s.vput g (a + 76) 4 ((p.dfhead + 1) % 2 ^ 32))

/-- The advance of R408; every pass raises EPOCH. -/
def poolAdvanceGo (g : Agent) (a : Nat) : Nat → State → State
  | 0, s => s
  | n + 1, s =>
    let p := s.poolAt g a
    let par := (p.epoch + 1) % 2
    if p.deferred = 0 ∨ p.rcnt (par == 1) ≠ 0 then s
    else
      let s := poolFree g a par p.deferred s
      poolAdvanceGo g a n (s.vput g (a + 96) 8 ((p.epoch + 1) % 2 ^ 64))

/-- The advance after a registration, a withdrawal or a push. -/
def State.poolAdvance (s : State) (g : Agent) (a : Nat) : State :=
  poolAdvanceGo g a (2 * (s.poolAt g a).deferred + 2) s

/-- A record pushed: block, tier, and the parity of EPOCH; then the advance (R398, R408). -/
def State.poolDefer (s : State) (g : Agent) (a t b : Nat) : State :=
  let p := s.poolAt g a
  let s := s.vput g (p.recordAt p.dftail) 8 (b + t * 2 ^ 32 + p.epoch % 2 * 2 ^ 33)
  (s.vput g (a + 80) 4 ((p.dftail + 1) % 2 ^ 32)).poolAdvance g a

/-- The count of a parity changed by a reader. -/
def State.setRcnt (s : State) (g : Agent) (a : Nat) (odd : Bool) (x : Nat) : State :=
  s.vput g (a + (if odd then 108 else 104)) 4 (x % 2 ^ 32)

/-- A reader registers; the parity that it keeps. -/
def State.poolRegister (s : State) (g : Agent) (a : Nat) : Bool × State :=
  let p := s.poolAt g a
  let odd := p.epoch % 2 == 1
  (odd, (s.setRcnt g a odd (p.rcnt odd + 1)).poolAdvance g a)

/-- A reader withdraws. -/
def State.poolWithdraw (s : State) (g : Agent) (a : Nat) (odd : Bool) : State :=
  (s.setRcnt g a odd ((s.poolAt g a).rcnt odd + 2 ^ 32 - 1)).poolAdvance g a

/-! ## Pages before changes (R402) -/

/-- EXHAUST. -/
def kvExhaust : Nat := 1
/-- DEFER. -/
def kvDefer : Nat := 2
/-- TABLE. -/
def kvTable : Nat := 3
/-- COUNT. -/
def kvCount : Nat := 4
/-- BADARG. -/
def kvBadarg : Nat := 5
/-- BADDESC. -/
def kvBaddesc : Nat := 6

/-- How an operation ends: a result, a KVERR with the structure's address, another trap, a park on a page, a wait for a
line that a peer holds, or a copy that goes on. -/
inductive KvRes where
  | done (x : Nat)
  | err (addr code : Nat)
  | trap (c : Cause) (addr : Nat)
  | park (va : Nat) (w : Bool)
  | wait
  | copy (entry block tier : Nat)
  deriving DecidableEq, Repr

/-- A structure that an operation touches: its address, its bytes, whether they are written. -/
abbrev KvNeed := Nat × Nat × Bool

/-- Pages translated before anything is changed; a peer's page is no place for a structure, which is a BADDESC of the
structure at `own`. -/
def State.kvNeed (s : State) (g : Agent) (own : Nat) : List KvNeed → Option KvRes × State
  | [] => (none, s)
  | (a, n, w) :: r =>
    if n = 0 then s.kvNeed g own r
    else if !canonical (BitVec.ofNat 64 a) then (some (.trap .align a), s)
    else
      let x := s.span g (vaOf (BitVec.ofNat 64 a)) n w
      match x.1 with
      | .absent va => (some (.park va w), x.2)
      | .prot => (some (.trap .prot a), x.2)
      | .xlate => (some (.trap .xlate a), x.2)
      | .ok ps =>
        if ps.any Piece.isFab then (some (.err own kvBaddesc), x.2)
        else match x.2.recallPlaces w (ps.map (fun q => (q.loc, q.len))) with
          | some t => (some .wait, t)
          | none => x.2.kvNeed g own r

/-- `f` in the state in which every page of a list is translated. -/
def State.kvWith (s : State) (g : Agent) (own : Nat) (l : List KvNeed) (f : State → KvRes × State) : KvRes × State :=
  let x := s.kvNeed g own l
  match x.1 with
  | some r => (r, x.2)
  | none => f x.2

/-- Where the advance of R408 stands while its pages are sought: head, records left, epoch, free blocks of both tiers. -/
structure KvWalk where
  head  : Nat
  left  : Nat
  epoch : Nat
  top0  : Nat
  top1  : Nat

/-- The pages that an advance touches: the records it reads and the slots it pushes to. `last` is the record that a push has
still to write. -/
def State.kvAdvance (s : State) (g : Agent) (a : Nat) (p : Pool) (last : Option Nat) : Nat → KvWalk → Option KvRes × State
  | 0, _ => (none, s)
  | fuel + 1, w =>
    let par := (w.epoch + 1) % 2
    if w.left = 0 ∨ p.rcnt (par == 1) ≠ 0 then (none, s)
    else
      let new := if w.left = 1 then last else none
      let x := s.kvNeed g a (if new.isSome then [] else [(p.recordAt w.head, 8, false)])
      match x.1 with
      | some r => (some r, x.2)
      | none =>
        let s := x.2
        let rec' := new.getD (s.vnat g (p.recordAt w.head) 8)
        if bitsOf rec' 33 1 ≠ par then s.kvAdvance g a p last fuel { w with epoch := w.epoch + 1 }
        else
          let tier := bitsOf rec' 32 1
          let y := s.kvNeed g a [(p.freeAt tier (if tier = 0 then w.top0 else w.top1), 4, true)]
          match y.1 with
          | some r => (some r, y.2)
          | none => y.2.kvAdvance g a p last fuel { w with
              head := w.head + 1, left := w.left - 1
              top0 := if tier = 0 then w.top0 + 1 else w.top0, top1 := if tier = 0 then w.top1 else w.top1 + 1 }

/-- The pages of the descriptor and of the advance after the count of a parity has become `x`. -/
def State.kvCountNeed (s : State) (g : Agent) (a : Nat) (p : Pool) (odd : Bool) (x : Nat) : Option KvRes × State :=
  let y := s.kvNeed g a [(a, 128, true)]
  match y.1 with
  | some r => (some r, y.2)
  | none =>
    let p := if odd then { p with rcnt1 := x } else { p with rcnt0 := x }
    y.2.kvAdvance g a p none (3 * p.deferred + 3) ⟨p.dfhead, p.deferred, p.epoch, p.top0, p.top1⟩

/-! ## Readers that leave (R395, R408) -/

/-- Whether every page is there that a reader's withdrawal touches. -/
def State.canLeave (s : State) (l : Leaver) : Bool :=
  let g : Agent := ⟨l.vd, l.ctx, l.core, 4, .other⟩
  let p := s.poolAt g l.pool
  (s.kvCountNeed g l.pool p l.odd ((p.rcnt l.odd + 2 ^ 32 - 1) % 2 ^ 32)).1.isNone

/-- A reader withdraws, or waits for the pages of its pool. -/
def State.leavePool (s : State) (l : Leaver) : State :=
  if s.canLeave l then s.poolWithdraw ⟨l.vd, l.ctx, l.core, 4, .other⟩ l.pool l.odd else { s with leaving := s.leaving ++ [l] }

/-- The readers whose withdrawal waits try again. -/
def State.leavePools (s : State) : State := s.leaving.foldl State.leavePool { s with leaving := [] }

/-! ## Tables and entries (R399) -/

/-- An entry of a sequence table. -/
structure KvEntry where
  filled : Nat
  ver    : Nat
  block  : Nat
  tier   : Nat
  moving : Bool
  zero   : Bool
  v      : Bool
  deriving DecidableEq, Repr

/-- The fields of an entry. -/
def KvEntry.of (x : Nat) : KvEntry :=
  ⟨bitsOf x 48 16, bitsOf x 40 8, bitsOf x 4 36, bitsOf x 3 1, bitsOf x 2 1 == 1, bitsOf x 1 1 == 0, bitsOf x 0 1 == 1⟩

/-- An entry's bits. -/
def KvEntry.bits (e : KvEntry) : Nat :=
  e.filled * 2 ^ 48 + e.ver % 256 * 2 ^ 40 + e.block * 16 + e.tier * 8 + (if e.moving then 4 else 0) +
    (if e.v then 1 else 0)

/-- A valid entry that obeys R399. -/
def KvEntry.ok (e : KvEntry) (p : Pool) : Bool := e.zero && decide (e.filled ≤ p.bs) && decide (e.block < p.nblk e.tier)

/-- A word that stands for an entry: all zero, or a valid entry that obeys its fields. -/
def entryOk (p : Pool) (x : Nat) : Bool := if (KvEntry.of x).v then (KvEntry.of x).ok p else x == 0

/-- NB of a table. -/
def State.tabNb (s : State) (g : Agent) (t : Nat) : Nat := s.vnat g t 4
/-- CAP of a table. -/
def State.tabCap (s : State) (g : Agent) (t : Nat) : Nat := s.vnat g (t + 4) 4
/-- POOL of a table. -/
def State.tabPool (s : State) (g : Agent) (t : Nat) : Nat := s.vnat g (t + 8) 8
/-- The address of entry i. -/
def entryAt (t i : Nat) : Nat := t + 16 + 8 * i

/-- Whether a machine address lies in LPDDR 6 (R206). -/
def inLpddr (a : Nat) : Bool := decide (2 ^ 39 ≤ a)

/-- Whether every page of n bytes maps memory of a tier. -/
def State.tierOk (s : State) (g : Agent) (va n t : Nat) : Bool :=
  match s.peekSpan g.vd g.ctx (n / 4096 + 2) va n with
  | none => false
  | some ps => ps.all (fun p => p.loc.space == .dev && inLpddr p.loc.addr == (t == 1))

end Sys2Proof.Machine
end

