-- ==== Sys2Proof/Machine/Job.lean ====
section
/-! DEFINITION. Job.lean: the job ring, publication, guard slots, the end of a card, cancel and status (R278 to R294,
R302 to R309, R316 to R318, R386, R412, R422, R427). -/

namespace Sys2Proof.Machine

open Sys2Proof

/-! ## The ring and the notify granule (R282 to R284) -/

/-- Entries of a ring. -/
def Workgroup.ringN (g : Workgroup) : Nat := 2 ^ g.jlog
/-- PUB. -/
def State.pub (s : State) (g : Workgroup) : Nat := s.scratchNat g g.jnotify 8
/-- FREED. -/
def State.freed (s : State) (g : Workgroup) : Nat := s.scratchNat g (g.jnotify + 8) 8
/-- The free space of a ring. -/
def State.ringFree (s : State) (g : Workgroup) : Nat := g.ringN - (s.pub g - s.freed g)
/-- The scratchpad offset of byte `off` of the card whose sequence number is `seq`. -/
def Workgroup.cardAt (g : Workgroup) (seq off : Nat) : Nat := g.jbase + 32 * ((seq + off / 32) % g.ringN) + off % 32

/-- The bytes of a card as they stand in the ring from an entry on. -/
def State.ringBytes (s : State) (g : Workgroup) (seq n : Nat) : List Byte :=
  (List.range n).flatMap (fun e => s.scratchRead g (g.cardAt seq (32 * e)) 32)

/-- A card's entries written at their slots; full/empty bits stay as they are. -/
def State.writeEntries (s : State) (g : Workgroup) (seq : Nat) (bs : List Byte) : State :=
  (List.range (bs.length / 32)).foldl (fun s e => s.scratchWrite g (g.cardAt seq (32 * e)) ((bs.drop (32 * e)).take 32)) s

/-! ## States and status (R302) -/

/-- The code of a card's state. -/
def CardState.num : CardState → Nat
  | .published => 0
  | .admitted => 1
  | .queued => 2
  | .running => 3
  | .parked => 4
  | .done => 8
  | .failed => 9
  | .discarded => 10
  | .cancelled => 11

/-- Whether a card is final. -/
def Card.final (c : Card) : Bool := decide (8 ≤ CardState.num c.st)
/-- Whether a card is admitted and not final. -/
def Card.admitted (c : Card) : Bool := !c.final && c.st != .published
/-- The entries of a card. -/
def Card.entries (c : Card) : Nat := cEntries c.bytes
/-- The kind of a card. -/
def Card.kind (c : Card) : Nat := cKind c.bytes
/-- The status word. CODE stands in a final one only: a refusal that a running card has met shows when the card fails. -/
def Card.status (c : Card) : Nat :=
  CardState.num c.st * 2 ^ 28 + (if c.final then c.code else 0) * 2 ^ 16 + c.xflags.toNat * 2 ^ 8

/-- The failure codes. -/
def cardProt : Nat := 1
/-- XLATE. -/
def cardXlate : Nat := 2
/-- ALIGN. -/
def cardAlign : Nat := 3
/-- DESC. -/
def cardDesc : Nat := 4
/-- BOUNDS. -/
def cardBounds : Nat := 5
/-- TYPE. -/
def cardType : Nat := 6
/-- ENGRESET. -/
def cardReset : Nat := 7
/-- PEER. -/
def cardPeer : Nat := 8
/-- MDROP. -/
def cardMdrop : Nat := 9

/-- A card of a workgroup by its sequence number. -/
def Workgroup.card? (g : Workgroup) (seq : Nat) : Option Card := g.cards.find? (fun c => c.seq == seq)
/-- The card that a reference names, with its workgroup. -/
def State.card? (s : State) (r : CardRef) : Option (Workgroup × Card) :=
  match Tab.get? s.wgs r.wg with
  | none => none
  | some g => (g.card? r.seq).map (fun c => (g, c))

/-! ## Guard slots (R278, R279) -/

/-- A slot's state; slots are numbered 0 to 7. -/
def Workgroup.guardSt (g : Workgroup) (n : Nat) : GState := (Tab.getD g.guards n ⟨.free, 0⟩).st

/-- A slot changed; a resolved slot that no card names is FREE. -/
def State.modGuard (s : State) (gid n : Nat) (f : GuardSlot → GuardSlot) : State :=
  s.modWg gid (fun g =>
    let x := f (Tab.getD g.guards n ⟨.free, 0⟩)
    let x := if x.count = 0 ∧ (x.st = .yes ∨ x.st = .no) then ⟨.free, 0⟩ else x
    { g with guards := Tab.set ⟨.free, 0⟩ g.guards n x })

/-- A card that named a slot is final. -/
def State.guardLeave (s : State) (gid : Nat) (guard : Nat) : State :=
  if guard = 0 then s else s.modGuard gid (guard - 1) (fun x => { x with count := x.count - 1 })

/-- The lowest FREE slot. -/
def Workgroup.freeGuard (g : Workgroup) : Option Nat := (List.range 8).find? (fun n => g.guardSt n == .free)

/-! ## Rotation aborts (R421, R422) -/

/-- The devices before and after this one in a fabric group, with their VDIDs, where this device is a member of a group
of at least two. -/
def State.neighbours (s : State) (vd fg : Nat) : Option ((Nat × Nat) × (Nat × Nat) × Nat × Nat) :=
  match Tab.get? s.fgs (vd * 64 + fg) with
  | none => none
  | some f =>
    let n := f.members.length
    match f.members.find? (fun e => e.2.1 == s.devid) with
    | none => none
    | some e =>
      if n < 2 then none
      else
        match Tab.get? f.members ((e.1 + n - 1) % n), Tab.get? f.members ((e.1 + 1) % n) with
        | some p, some q => some (p, q, e.1, n)
        | _, _ => none

/-- The incarnation of a member, where the partition map names one (R343). -/
def State.memberInc (s : State) (vd dev : Nat) : Option Nat :=
  ((Tab.get? s.vds vd).bind (fun v => (Tab.get? v.pmap dev).filter PMap.v)).map (fun e => e.inc.toNat)

/-- A packet of the rotation class to a member; none where its stream cannot send, or where it is no member now. -/
def State.rotSend (s : State) (vd dev tvd op : Nat) (opnd : BitVec 192) (data : List Byte) : Option State :=
  (s.memberInc vd dev).bind (fun inc => s.sendPacket vd dev tvd inc op 4 opnd (dev * 2 ^ 56) data)

/-- A grant, an acknowledgement or an abort to a member, which waits for its stream where that cannot send it yet; a device
that is no member now is sent nothing. -/
def State.rotPost (s : State) (vd dev tvd op : Nat) (opnd : BitVec 192) : State :=
  match s.memberInc vd dev with
  | some inc => s.sendOrWait ⟨vd, dev, tvd, inc, op, 4, opnd, dev * 2 ^ 56, []⟩
  | none => s

/-- The OPND of a rotation packet, whose bits begin at bit 4 of the header. -/
def rotOpnd (rid fg block slot piece : Nat) (gr : Bool) (nstep blk256 : Nat) : BitVec 192 :=
  BitVec.ofNat 192 (rid * 2 ^ 53 + fg * 2 ^ 47 + block * 2 ^ 39 + slot * 2 ^ 36 + piece * 2 ^ 25 + (if gr then 1 else 0) +
    nstep * 2 ^ 80 + blk256 * 2 ^ 69)

/-- An abort of a rotation to both neighbours, and the loss of the grants held for it. -/
def State.rotAborts (s : State) (vd fg rid : Nat) : State :=
  let op := rotOpnd rid fg 0 0 0 false 0 0 ||| (BitVec.ofNat 192 6)
  let s := { s with fgs := Tab.modify s.fgs (vd * 64 + fg) (fun f => { f with held := f.held.filter (fun h => h.1 != rid) }) }
  match s.neighbours vd fg with
  | none => s
  | some (p, q, _, _) =>
    (s.rotPost vd p.1 p.2 opNack op).rotPost vd q.1 q.2 opNack op

/-! ## The end of a card (R284, R302 to R307) -/

/-- FREED advances over the final cards at the head of the ring. -/
def freedGo (gid : Nat) : Nat → State → State
  | 0, s => s
  | n + 1, s =>
    match Tab.get? s.wgs gid with
    | none => s
    | some g =>
      let f := s.freed g
      match g.card? f with
      | some c => if c.final then freedGo gid n (s.scratchWrite g (g.jnotify + 8) (leBytes (f + c.entries) 8)) else s
      | none => s

/-- A card's engine no longer has it. -/
def State.takeOff (s : State) (r : CardRef) : State :=
  let has (e : EngineSt) : Bool := e.queue.contains r || (e.run.map (fun x => x.card)) == some r
  let fix (e : EngineSt) : EngineSt :=
    { e with queue := e.queue.filter (fun c => c != r), run := e.run.filter (fun x => x.card != r) }
  let eng := (s.engines.map (fun e => (e.1, if has e.2 then fix e.2 else e.2))).filter (fun e => e.2 != EngineSt.idle)
  { s with
    engines := eng
    ismvq := (s.ismvq.map (fun e => (e.1, e.2.filter (fun c => c != r)))).filter (fun e => !e.2.isEmpty) }

/-- The agent of a workgroup's cards: SRC 1 copy, 2 matrix, 3 attention, 6 rotation (R451). -/
def Workgroup.cardAgent (g : Workgroup) (r : CardRef) (kind : Nat) : Agent :=
  ⟨g.vd, g.ctx, g.core, if isCopy kind then 1 else if kind = 0x18 then 3 else if kind = 0x20 then 6 else 2, .card r⟩

/-- PROG written in a card's entry (R304). -/
def State.writeProg (s : State) (g : Workgroup) (c : Card) : State :=
  if isCopy c.kind then s.scratchWrite g (g.cardAt c.seq 20) (leBytes c.prog 5) else s

/-- A card's registration as a reader ends (R408), once the pages of its pool are there. -/
def State.withdraw (s : State) (g : Workgroup) (c : Card) : State :=
  match c.reader with
  | none => s
  | some (a, odd) => s.leavePool ⟨g.vd, g.ctx, g.core, a, odd⟩

/-- A card's status word written over INCR, bytes 4 to 7 of its first entry. -/
def State.writeStatus (s : State) (g : Workgroup) (c : Card) : State := s.scratchWrite g (g.cardAt c.seq 4) (leBytes c.status 4)

/-- What the end of a card does, apart from its counter and from what a rotation's end brings with it. The status of a card
that is done stands since before its counter advanced (R303). -/
def State.endCard (s : State) (gid seq : Nat) (st : CardState) (code : Nat) : State :=
  match s.card? ⟨gid, seq⟩ with
  | none => s
  | some (g, c) =>
    if c.final then s
    else
      let d := { c with st := st, code := code, eng := none, page := none, reader := none, cancel := false, mv := none, adding := false }
      let s := if st = .failed ∨ st = .cancelled then s.writeProg g c else s
      let s := if st = .done then s else s.writeStatus g d
      let s := s.withdraw g c
      let s := s.takeOff ⟨gid, seq⟩
      let s := s.dropReqs (fun q => q.who == .card ⟨gid, seq⟩)
      let s := s.modCard gid seq (fun _ => d)
      let s := s.guardLeave gid c.guard
      let s := freedGo gid g.cards.length s
      let s := (s.countCore g.core g.vd 0x24 1).sample g.core g.vd 2 (s.clock - c.pubAt) 0
      let s := match Tab.get? s.wgs gid with
        | some g' => if g'.cards.any (fun x => !x.final && x.kind == 0x18) then s
          else s.modCore g.core (fun k => if k.attn = some gid then { k with attn := none } else k)
        | none => s
      if st = .failed then
        let s := if cCm c.bytes = 2 ∧ cCnt c.bytes ≠ 0 then
            let b := s.barGet g (cCnt c.bytes)
            (s.scratchWrite g (cCnt c.bytes) { b with err := true }.bytes).barWake gid (cCnt c.bytes)
          else s
        s.jobfailParked gid
      else if st = .done then s.modVd g.vd (fun v => { v with progress := s.clock })
      else s

/-- The attention cards of a workgroup whose slot ring starts where a failed rotation's does fail with PEER (R427). -/
def State.failReaders (s : State) (gid rbase : Nat) : State :=
  match Tab.get? s.wgs gid with
  | none => s
  | some g =>
    (g.cards.filter (fun c => !c.final && c.kind == 0x18 && (AttnDesc.of c.bytes).ring &&
        (AttnDesc.of c.bytes).rbase == rbase)).foldl (fun s c => s.endCard gid c.seq .failed cardPeer) s

/-- A card becomes final. A rotation that fails or is cancelled sends its aborts, and its attention cards fail with it. -/
def State.finalCard (s : State) (gid seq : Nat) (st : CardState) (code : Nat) : State :=
  match s.card? ⟨gid, seq⟩ with
  | none => s
  | some (g, c) =>
    if c.final then s
    else
      let t := s.endCard gid seq st code
      if c.kind = 0x20 ∧ (st = .failed ∨ st = .cancelled) then
        let d := RotDesc.of c.bytes
        let t := t.rotAborts g.vd d.fgrp d.rid
        if st = .failed ∧ d.cons = 0 then t.failReaders gid d.rbase else t
      else t

/-- A card fails. -/
def State.failCard (s : State) (r : CardRef) (code : Nat) : State := s.finalCard r.wg r.seq .failed code

/-! ## Publication (R290, R291, R309) -/

/-- One card enters the ring: its entries, PUB, its record, its guard slot. A card that a FALSE slot names is discarded at
once. A final card whose first entry is reused is forgotten, unless it failed and that is still to be reported (R306). -/
def State.publish (s : State) (gid : Nat) (bs : List Byte) (scope : Nat) (write : Bool) : State :=
  match Tab.get? s.wgs gid with
  | none => s
  | some g =>
    let p := s.pub g
    let n := cEntries bs
    let s := if write then s.writeEntries g p bs else s
    let s := (s.scratchWrite g g.jnotify (leBytes (p + n) 8)).countCore g.core g.vd 0x23 1
    let c : Card := ⟨p, bs, .published, 0, 0, if isCopy (cKind bs) then cProg bs else 0, cGuard bs, scope, none, none, false,
      false, false, none, [], none, false, none, false, s.clock⟩
    let s := s.modWg gid (fun g => { g with
      cards := g.cards.filter (fun x => !x.final || (x.st == .failed && !x.reported) || decide (p + n ≤ x.seq + g.ringN)) ++
        [c] })
    if cGuard bs = 0 then s
    else
      let s := s.modGuard gid (cGuard bs - 1) (fun x => { x with count := x.count + 1 })
      if g.guardSt (cGuard bs - 1) = .no then s.finalCard gid p .discarded 0 else s

/-- CM of a counter mode. -/
def CtrMode.num : CtrMode → Nat
  | .global => 0
  | .scratch => 1
  | .barrier => 2

/-- CNTADDR that a job instruction gives its card (R295). -/
def Iss.jobCounter (i : Iss) (j : JobOps) : Nat :=
  match j.ctr with
  | none => 0
  | some k =>
    let x := (i.w.getSw k.toNat).toNat
    if j.cm = .global then x else x % 2 ^ 19

/-- A card assembled and ready: its bytes, the seed state after its draw (R152). -/
structure JobDraft where
  bytes : List Byte
  w     : Wave
  deriving Repr

/-- A job instruction (R290, R309). `draft` assembles the card for the lowest participating lane under a guard slot and a
scope, or answers the trap that its checks raise. -/
def jobIssue (h : Hdr) (len : Nat) (j : JobOps) (s : State)
    (draft : Iss → Workgroup → State → Nat → Nat → JobDraft ⊕ State) : Res :=
  issue h len .proceeds true s (fun i s =>
    if i.part = 0 then s.setWave i.k (i.step i.w)
    else if i.w.blocked then i.hold s
    else match s.wgOf i.w with
      | none => s
      | some g =>
        let spec := i.w.spec.isSome
        let auto := match i.w.spec with
          | some sp => match sp.guard with
            | some n => some n
            | none => g.freeGuard
          | none => none
        if spec && (j.g != 0 || auto.isNone) then s.stallSpec i.k
        else
          let guard := match auto with
            | some n => n + 1
            | none => j.g.toNat
          let sc := s.scopeOf i.w j.scope
          match draft { i with w := sc.2 } g s guard sc.1 with
          | .inr t => t
          | .inl d =>
            if !g.cardOk d.bytes || !s.bodyOk g d.bytes then i.trap s .joberr i.part
            else if auto.isNone && guard != 0 && g.guardSt (guard - 1) == .free then i.trap s .joberr i.part
            else match i.releaseAt s sc.1 with
              | some t => t
              | none =>
                if s.ringFree g < cEntries d.bytes then s.setWave i.k { i.w with busy := .ring (cEntries d.bytes) }
                else
                  let gen := d.w.seed != i.w.seed
                  match s.permit d.w [] (match j.sd with | some r => [r.toNat] | none => []) gen 0 with
                  | none => s.stallSpec i.k
                  | some w =>
                    let s := match auto with
                      | some n => s.modGuard i.w.wg n (fun x => { x with st := .opened })
                      | none => s
                    let w := { w with spec := w.spec.map (fun sp => { sp with guard := auto }) }
                    let w := match j.sd with
                      | some r => w.setS r.toNat (BitVec.ofNat 32 (s.pub g))
                      | none => w
                    (s.publish i.w.wg d.bytes sc.1 true).setWave i.k (i.step w))

/-- The header of a job instruction's card. -/
def Iss.jobHeader (i : Iss) (s : State) (j : JobOps) (kind guard scope : Nat) : List Byte :=
  match kindShape kind with
  | some (n, f) =>
    hdrBytes kind n f (i.jobCounter j) ((i.rd s true).w32 j.inc i.lane).toNat (CtrMode.num j.cm) scope guard
  | none => []

/-- A copy-family instruction: descriptor, body, footprint (R295, R301). -/
def copyIssue (kind : Nat) (h : Hdr) (desc : Src) (j : JobOps) (s : State) : Res :=
  jobIssue h (instrLen [desc, j.inc]) j s (fun i g s guard scope =>
    let off := ((i.rd s true).w32 desc i.lane).toNat
    match (if off < 2 ^ 19 then s.descBytes g off else none) with
    | none => .inr (i.trap s .joberr i.part)
    | some x =>
      let d := CopyDesc.of x
      let pad := off + 64 + 16 * d.dims.length
      if !d.ok kind g.gangsz || (kind == 2 && decide (pad + 64 > g.salloc)) then .inr (i.trap s .joberr i.part)
      else
        let tag := if kind = 4 then g.tag else 0
        let body := leBytes (off + tag * 2 ^ 112) 16 ++ (if kind = 2 then s.scratchRead g pad 64 else [])
        .inl ⟨i.jobHeader s j kind guard scope ++ body ++ (d.footprint kind off).flatMap Range.bytes, i.w⟩)

/-- JCOPY. -/
def execJcopy (h : Hdr) (desc : Src) (j : JobOps) (s : State) : Res := copyIssue 1 h desc j s
/-- JGEN. -/
def execJgen (h : Hdr) (desc : Src) (j : JobOps) (s : State) : Res := copyIssue 2 h desc j s
/-- JFILL. -/
def execJfill (h : Hdr) (desc : Src) (j : JobOps) (s : State) : Res := copyIssue 3 h desc j s
/-- JMCAST. -/
def execJmcast (h : Hdr) (desc : Src) (j : JobOps) (s : State) : Res := copyIssue 4 h desc j s

/-- A matrix, attention or rotation instruction (R316 to R318): FMTDIV, FMTBAD, then the card. `word` accepts a format
word given the descriptor block's bytes, and `foot` gives the footprint of the card's bytes. -/
def engineIssue (kind n : Nat) (seed : Bool) (h : Hdr) (fw : Src) (db : BitVec 4) (j : JobOps)
    (word : Word → List Byte → Bool) (foot : List Byte → FWord → List Range) (s : State) : Res :=
  jobIssue h (instrLen [fw, j.inc]) j s (fun i _ s guard scope =>
    let rd := i.rd s false
    let x := rd.w32 fw i.lane
    let differ := Mask.ofFn (fun l => i.part.has l && rd.w32 fw l != x)
    let block := (List.range n).map (fun q => (i.w.getS (4 * db.toNat + q)).toNat)
    let z := i.w.seedOf i.lane
    let draws := seed && (FWord.of x).rnd == 5
    let ws := x.toNat :: (if draws then (drawFor .sr z).2.toNat else 0) :: block
    let bs := i.jobHeader s j kind guard scope ++ bodyBytes ws
    if differ ≠ 0 then .inr (i.trap s .fmtdiv differ)
    else if !word x bs then .inr (i.trap s .fmtbad i.part)
    else
      .inl ⟨bs ++ (foot bs (FWord.of x)).flatMap Range.bytes,
        if draws then i.w.setSeed i.lane (drawFor .sr z).2 else i.w⟩)

/-- JMMA. -/
def execJmma (h : Hdr) (fw : Src) (db : BitVec 4) (j : JobOps) (s : State) : Res :=
  engineIssue 0x10 10 true h fw db j (fun x _ => mmaWord (FWord.of x)) mmaFoot s
/-- JACC. -/
def execJacc (h : Hdr) (fw : Src) (db : BitVec 4) (j : JobOps) (s : State) : Res :=
  engineIssue 0x11 4 true h fw db j (fun x bs => accWord (FWord.of x) (accOp bs)) accFoot s
/-- JMV. -/
def execJmv (h : Hdr) (fw : Src) (db : BitVec 4) (j : JobOps) (s : State) : Res :=
  engineIssue 0x12 10 true h fw db j (fun x _ => mvWord (FWord.of x)) mvFoot s
/-- JATTN. -/
def execJattn (h : Hdr) (fw : Src) (db : BitVec 4) (j : JobOps) (s : State) : Res :=
  engineIssue 0x18 10 true h fw db j (fun x _ => attnWord (FWord.of x)) (fun b f => attnRanges (AttnDesc.of b) f) s
/-- JROT. -/
def execJrot (h : Hdr) (fw : Src) (db : BitVec 4) (j : JobOps) (s : State) : Res :=
  engineIssue 0x20 8 false h fw db j (fun x bs => rotWord x (RotDesc.of bs).cons) (fun b _ => rotFoot (RotDesc.of b)) s

/-- The cards that stand in the ring from entry `seq` on and end exactly after n entries, each well-formed and naming no
FREE guard slot; none where that fails (R291). -/
def State.parseCards (s : State) (g : Workgroup) : Nat → Nat → Nat → Option (List (List Byte))
  | 0, _, n => if n = 0 then some [] else none
  | fuel + 1, seq, n =>
    if n = 0 then some []
    else
      let k := cEntries (s.ringBytes g seq 1)
      let bs := s.ringBytes g seq k
      if k ≤ n && g.cardOk bs && s.bodyOk g bs && (cGuard bs == 0 || g.guardSt (cGuard bs - 1) != .free) then
        (s.parseCards g fuel (seq + k) (n - k)).map (fun r => bs :: r)
      else none

/-- JPUB. -/
def execJpub (h : Hdr) (n : Src) (s : State) : Res :=
  issue h (instrLen [n]) .stalls true s (fun i s =>
    if i.part = 0 then s.setWave i.k (i.step i.w)
    else if i.w.blocked then i.hold s
    else match s.wgOf i.w with
      | none => s
      | some g =>
        let k := ((i.rd s true).w32 n i.lane).toNat
        if k = 0 then s.setWave i.k (i.step i.w)
        else if k > s.ringFree g then i.trap s .joberr i.part
        else match s.parseCards g k (s.pub g) k with
          | none => i.trap s .joberr i.part
          | some l =>
            match i.releaseAt s (min ((l.map cScope).foldl max 0) (s.maxScope i.w)) with
            | some t => t
            | none =>
              let r := l.foldl (fun (r : State × Wave) bs =>
                let c := min (cScope bs) (s.maxScope i.w)
                let w := r.2
                let w := if c < cScope bs then { w with dscope := w.dscope ||| 0x100 } else w
                (r.1.publish i.w.wg bs c false, w)) (s, i.w)
              r.1.setWave i.k (i.step r.2))

/-! ## Guards (R278) -/

/-- GSET. -/
def execGset (h : Hdr) (sd : BitVec 6) (s : State) : Res :=
  issue h 8 .stalls true s (fun i s =>
    match s.wgOf i.w with
    | none => s
    | some g =>
      if i.part = 0 then s.setWave i.k (i.step i.w)
      else match g.freeGuard with
        | none => i.setS s sd.toNat 0xFFFFFFFF
        | some n => i.setS (s.modGuard i.w.wg n (fun x => { x with st := .opened })) sd.toNat (BitVec.ofNat 32 n))

/-- A slot resolved. On FALSE every card that names it and is not running is discarded. -/
def State.resolveGuard (s : State) (gid n : Nat) (val : Bool) : State :=
  match Tab.get? s.wgs gid with
  | none => s
  | some g =>
    let cs := g.cards.filter (fun c => c.guard == n + 1 && !c.final)
    let s := s.modGuard gid n (fun x => { x with st := if val then .yes else .no })
    if val then s else cs.foldl (fun s c => s.finalCard gid c.seq .discarded 0) s

/-- GRES. -/
def execGres (h : Hdr) (a : Src) (val : Bool) (s : State) : Res :=
  issue h (instrLen [a]) .stalls true s (fun i s =>
    match s.wgOf i.w with
    | none => s
    | some g =>
      let n := ((i.rd s true).w32 a i.lane).toNat
      if i.part = 0 then s.setWave i.k (i.step i.w)
      else if n ≥ 8 || g.guardSt n != .opened then i.trap s .qerr i.part
      else (s.resolveGuard i.w.wg n val).setWave i.k (i.step i.w))

/-! ## Cancel and status (R307, R308) -/

/-- The card of a ring whose sequence number has given low bits, the newest first: an outstanding card, or a final one whose
first entry has not been reused. -/
def State.findCard (s : State) (g : Workgroup) (x : Word) : Option Card :=
  g.cards.reverse.find? (fun c => BitVec.ofNat 32 c.seq == x && (!c.final || decide (s.pub g ≤ c.seq + g.ringN)))

/-- JCANCEL. -/
def execJcancel (h : Hdr) (sd : BitVec 6) (seq : Src) (s : State) : Res :=
  issue h (instrLen [seq]) .stalls true s (fun i s =>
    if i.part = 0 then s.setWave i.k (i.step i.w)
    else if i.w.blocked then i.hold s
    else match s.wgOf i.w with
      | none => s
      | some g =>
        match s.findCard g ((i.rd s true).w32 seq i.lane) with
        | none => i.setS s sd.toNat 2
        | some c =>
          if c.final then i.setS s sd.toNat 2
          else if c.st = .running then
            i.setS (s.modCard i.w.wg c.seq (fun c => { c with cancel := true })) sd.toNat 1
          else i.setS (s.finalCard i.w.wg c.seq .cancelled 0) sd.toNat 0)

/-- The result of a status read in the wave's own register. -/
def jobStat (h : Hdr) (len : Nat) (sd : BitVec 6) (s : State) (f : Iss → State → Workgroup → Word) : Res :=
  issue h len .proceeds true s (fun i s =>
    if i.part = 0 then s.setWave i.k (i.step i.w)
    else if i.w.blocked then i.hold s
    else match s.wgOf i.w, s.permit i.w [] [sd.toNat] false 0 with
      | none, _ => s
      | _, none => s.stallSpec i.k
      | some g, some w => s.setWave i.k (i.step (w.setS sd.toNat (f i s g))))

/-- JSTAT. -/
def execJstat (h : Hdr) (sd : BitVec 6) (seq : Src) (s : State) : Res :=
  jobStat h (instrLen [seq]) sd s (fun i s g =>
    match s.findCard g ((i.rd s true).w32 seq i.lane) with
    | some c => BitVec.ofNat 32 c.status
    | none => 0xFFFFFFFF)

/-- JSTAT.ring. -/
def execJstatRing (h : Hdr) (sd : BitVec 6) (s : State) : Res :=
  jobStat h 8 sd s (fun _ s g =>
    BitVec.ofNat 32 ((g.cards.filter Card.admitted).length * 2 ^ 16 + s.ringFree g))

end Sys2Proof.Machine
end

