-- ==== Sys2Proof/Machine/Admit.lean ====
section
/-! DEFINITION. Admit.lean: the job scheduler and the start and end of a card at its engine (R288, R292, R293, R303, R305,
R310, R313, R314, R326, R385, R417, R430). -/

namespace Sys2Proof.Machine

open Sys2Proof

/-! ## Rings of a core (R292) -/

/-- The workgroups resident on a core, by number. -/
def State.ringsOf (s : State) (core : Nat) : List (Nat × Workgroup) := s.wgs.filter (fun e => e.2.core == core)

/-- The same in round-robin order from a workgroup number. -/
def State.ringsFrom (s : State) (core start : Nat) : List (Nat × Workgroup) :=
  let l := s.ringsOf core
  l.filter (fun e => start ≤ e.1) ++ l.filter (fun e => e.1 < start)

/-- Whether the job scheduler leaves a workgroup's ring alone (R310). -/
def Workgroup.frozen (g : Workgroup) : Bool := g.preempt.isSome

/-- The implied range of a JGEN card, taken from its descriptor as it stands (R288). -/
def State.impliedRange (s : State) (g : Workgroup) (b : List Byte) : Option Range :=
  if cKind b = 2 then
    let nd := bfield (s.scratchRead g (cDesc b) 64) 144 8
    some ⟨2, cDesc b, 128 + 16 * nd, false⟩
  else none

/-- CARD_ADMIT: the scheduler visits the next ring and admits its oldest unadmitted card. -/
def execCardAdmit (core : Nat) (s : State) : Res :=
  match s.ringsFrom core (s.core core).nextRing with
  | [] => .next s
  | e :: _ =>
    let s := s.modCore core (fun c => { c with nextRing := e.1 + 1 })
    match e.2.cards.find? (fun c => c.st == .published) with
    | none => .next s
    | some c =>
      if e.2.frozen || decide ((e.2.cards.filter Card.admitted).length ≥ 32) then .next s
      else .next (s.modCard e.1 c.seq (fun c => { c with st := .admitted, implied := s.impliedRange e.2 c.bytes }))

/-! ## Release and placement (R292, R313, R314, R326, R385) -/

/-- Where a released card goes. -/
inductive Placing where
  | wait
  | to (l : List Engine) (s : State)
  | ismv (stack : Nat)
  | fail (code : Nat)
  deriving Repr

/-- The cards of an engine's queue: a running card is its head until it finishes or parks (R292, R293; log entry 81). -/
def EngineSt.load (e : EngineSt) : Nat := e.queue.length + (if e.run.isSome then 1 else 0)

/-- Whether an engine's queue, which holds 4 cards, has room. -/
def State.hasRoom (s : State) (e : Engine) : Bool := decide ((s.engine e).load < 4)

/-- The engine of a list with room and the fewest cards, the first on a tie. -/
def State.lightest (s : State) (l : List Engine) : Option Engine :=
  match l.filter s.hasRoom with
  | [] => none
  | e :: r => some (r.foldl (fun b x => if (s.engine x).load < (s.engine b).load then x else b) e)

/-- A half cleared: elements zero, tags float (R313). -/
def State.clearHalf (s : State) (core h : Nat) : State :=
  let k := core * 4 + h
  { s with
    acc := s.acc.filter (fun e => e.1 / 20480 != k)
    accInt := s.accInt.filter (fun e => e.1 / 40 != k) }

/-- The slots S, 0 or 2, for which S and S + 1 are bound to the two halves of one engine: the fused pairs (R314). -/
def pairsOf (slots : Tab Nat) : List Nat :=
  [0, 2].filter (fun sl => match Tab.get? slots sl, Tab.get? slots (sl + 1) with
    | some h, some h' => h / 2 == h' / 2 && h != h'
    | _, _ => false)

/-- A half bound to a slot of a workgroup. -/
def State.bindHalf (s : State) (gid : Nat) (core slot h : Nat) : State :=
  let s := s.clearHalf core h
  let s := s.modCore core (fun c => { c with halves := Tab.put c.halves h gid })
  s.modWg gid (fun g => { g with slots := Tab.put g.slots slot h, fused := pairsOf (Tab.put g.slots slot h) })

/-- The free halves that a workgroup may bind, those of H first. -/
def State.freeHalves (s : State) (g : Workgroup) : List Nat :=
  let free (h : Nat) : Bool := (Tab.get? (s.core g.core).halves h).isNone
  (List.range 4).filter (fun h => free h && g.h.contains h) ++
    (List.range 4).filter (fun h => free h && !g.h.contains h && (s.sp (4 * g.core + h)).holder == g.vd)

/-- The place of a card on one slot. -/
def State.placeSlot (s : State) (gid : Nat) (g : Workgroup) (slot : Nat) : Placing :=
  match Tab.get? g.slots slot with
  | some h => if s.hasRoom (.half g.core h) then .to [.half g.core h] s else .wait
  | none =>
    match s.freeHalves g with
    | [] => .wait
    | h :: _ => if s.hasRoom (.half g.core h) then .to [.half g.core h] (s.bindHalf gid g.core slot h) else .wait

/-- The place of a fused card: both halves of one engine. -/
def State.placeFused (s : State) (gid : Nat) (g : Workgroup) (slot : Nat) : Placing :=
  let room (h : Nat) : Bool := s.hasRoom (.half g.core h)
  match Tab.get? g.slots slot, Tab.get? g.slots (slot + 1) with
  | none, none =>
    let f := s.freeHalves g
    let both (e : Nat) : Bool := f.contains (2 * e) && f.contains (2 * e + 1)
    let mine (e : Nat) : Bool := both e && g.h.contains (2 * e) && g.h.contains (2 * e + 1)
    match ([0, 1].filter mine ++ [0, 1].filter both) with
    | [] => .wait
    | e :: _ =>
      if room (2 * e) && room (2 * e + 1) then
        let s := (s.bindHalf gid g.core slot (2 * e)).bindHalf gid g.core (slot + 1) (2 * e + 1)
        .to [.half g.core (2 * e), .half g.core (2 * e + 1)] s
      else .wait
  | some h, some h' =>
    if !g.fused.contains slot then .fail cardDesc
    else if room h && room h' then .to [.half g.core h, .half g.core h'] s
    else .wait
  | _, _ => .fail cardDesc

/-- The stack whose machine addresses hold the first byte of W; stack 0 where no translation says. -/
def State.stackOf (s : State) (g : Workgroup) (va : Nat) : Nat :=
  match s.peek g.vd g.ctx va with
  | some l => if l.space = .dev ∧ l.addr < 2 ^ 39 then l.addr / 2 ^ 36 else 0
  | none => 0

/-- The ISMV queue of a core at a stack. -/
def ismvKey (stack core : Nat) : Nat := stack * 160 + core

/-- The place of a card. -/
def State.placing (s : State) (gid : Nat) (g : Workgroup) (c : Card) : Placing :=
  let b := c.bytes
  let k := c.kind
  if isCopy k then
    match s.lightest (g.h.map (fun x => Engine.copy g.core x)) with
    | some e => .to [e] s
    | none => .wait
  else if k = 0x10 then
    let d := MmaDesc.of b
    if d.fuse then s.placeFused gid g d.slot else s.placeSlot gid g d.slot
  else if k = 0x11 then s.placeSlot gid g (bitsOf (cWord b 4) 12 2)
  else if k = 0x12 then
    let st := s.stackOf g (MvDesc.of b).wbase
    if !s.boot.ismv.getLsbD st then .fail cardBounds
    else if (Tab.getD s.ismvq (ismvKey st g.core) []).length < 4 then .ismv st else .wait
  else if k = 0x18 then
    let e := Engine.attn g.core
    let held := (s.core g.core).attn
    if !s.hasRoom e || !(held.isNone || held == some gid) then .wait
    else .to [e] (s.modCore g.core (fun c => { c with attn := some gid }))
  else
    let e := Engine.rot g.core
    if (s.engine e).queue.length < 4 then .to [e] s else .wait

/-- Whether every earlier card that a card depends on is final (R288). -/
def Workgroup.depsDone (g : Workgroup) (c : Card) : Bool :=
  g.cards.all (fun d => decide (c.seq ≤ d.seq) || d.final || !c.dependsOn d)

/-- Whether a pre-empted workgroup's card is still released: an attention card on the ring of a running rotation
(R430). -/
def Workgroup.feedsRotation (g : Workgroup) (c : Card) : Bool :=
  c.kind == 0x18 && (AttnDesc.of c.bytes).ring &&
    g.cards.any (fun d => d.kind == 0x20 && d.st == .running && (RotDesc.of d.bytes).cons == 0 &&
      (RotDesc.of d.bytes).rbase == (AttnDesc.of c.bytes).rbase)

/-- The package limit in force (R26, R514). -/
def Boot.limit (b : Boot) : Nat := if b.plimit = 0 ∨ 3000 < b.plimit then 3000 else max 500 b.plimit

/-- What the VCC measures at the end of each millisecond (R26, R473, R514). The mean power of the package and the hottest
temperature are free values (the manual gives no energy of any operation), and the package's energy rises by that power; a throttle
ends when the power no longer exceeds the limit. A virtual device's mean power is what its energy has risen by. -/
def State.measure (s : State) : State :=
  if s.clock % 1300000 ≠ 1299999 then s
  else
    let p := (s.fresh 245).toNat % 4096
    { s with
      vds := s.vds.map (fun (e : Nat × VDev) => (e.1, { e.2 with
        mark := e.2.energy, power := (e.2.energy - e.2.mark).toNat / 1000 }))
      boot := { s.boot with
        pnow := p, penergy := s.boot.penergy + BitVec.ofNat 64 p, temp := (s.fresh 247).toNat % 256
        throttle := s.boot.throttle && decide (s.boot.limit < p) } }

/-- Whether the package's throttle leaves a cycle to a virtual device: of every 256 cycles a number in proportion to its
weight (R26, R473). Which ones they are is the model's choice (log entry 71). -/
def State.throttleOpen (s : State) (v : VDev) : Bool :=
  !(s.boot.throttle || s.boot.hot) || decide (s.clock % 256 < Config.throttleLevel (s.clock / 1300000) * v.weight)

/-- Whether a virtual device's issue and card releases are withheld: by its power cap, or by its share of the package's
throttle (R26, R473). -/
def State.cappedVd (s : State) (vd : Nat) : Bool :=
  match Tab.get? s.vds vd with
  | some v => v.capped || !s.throttleOpen v
  | none => false

/-- The oldest card of a ring that can be released, with its place. -/
def State.releasable (s : State) (gid : Nat) (g : Workgroup) : Option (Card × Placing) :=
  g.cards.findSome? (fun c =>
    if !s.cappedVd g.vd && c.st == .admitted && g.depsDone c && (!g.frozen || g.feedsRotation c) then
      match s.placing gid g c with
      | .wait => none
      | p => some (c, p)
    else none)

/-- A card joins a queue. -/
def State.enqueue (s : State) (gid : Nat) (c : Card) (l : List Engine) : State :=
  let s := l.foldl (fun s e =>
    let x := s.engine e
    s.setEngine e { x with queue := x.queue ++ [⟨gid, c.seq⟩] }) s
  s.modCard gid c.seq (fun c => { c with st := .queued, eng := l.head? })

/-- CARD_RELEASE: the next ring in turn that has a card to release. -/
def execCardRelease (core : Nat) (s : State) : Res :=
  match (s.ringsFrom core (s.core core).nextRel).findSome? (fun e => (s.releasable e.1 e.2).map (fun r => (e.1, r))) with
  | none => .next s
  | some (gid, c, p) =>
    let turn (s : State) : State := s.modCore core (fun k => { k with nextRel := gid + 1 })
    match p with
    | .wait => .next s
    | .fail k => .next (turn (s.failCard ⟨gid, c.seq⟩ k))
    | .to l s => .next (turn (s.enqueue gid c l))
    | .ismv st =>
      let k := ismvKey st core
      let r : CardRef := ⟨gid, c.seq⟩
      let s := { s with ismvq := Tab.put s.ismvq k (Tab.getD s.ismvq k [] ++ [r]) }
      .next (turn (s.modCard gid c.seq (fun c => { c with st := .queued, eng := some (.ismv st) })))

/-! ## Start at an engine (R293, R310, R417) -/

/-- Whether a card's guard slot lets it start. -/
def Workgroup.guardOpen (g : Workgroup) (c : Card) : Bool := c.guard != 0 && g.guardSt (c.guard - 1) == .opened

/-- Whether a parked card's page lets it start again: it is mapped, or declared unresolvable. -/
def State.cardReady (s : State) (g : Workgroup) (c : Card) : Bool :=
  match c.page with
  | some (va, w) => s.pageReady g.vd g.ctx va w
  | none => true

/-- The copy channel that a gather or reduce rotation takes. -/
def Workgroup.rotChannel (g : Workgroup) (c : Card) : List Engine :=
  if c.kind = 0x20 ∧ (RotDesc.of c.bytes).cons ≠ 0 then [.copy g.core (g.h.headD 0)] else []

/-- Where a rotation runs at the endpoint: rotations of different groups of one core's queue run side by side (R417), each
at a number of its own. -/
def Workgroup.rotNum (g : Workgroup) (c : Card) : Nat := g.core + 160 * (1 + g.vd * 64 + (RotDesc.of c.bytes).fgrp)

/-- The endpoint's place for a rotation. -/
def Workgroup.rotPlace (g : Workgroup) (c : Card) : Engine := .rot (g.rotNum c)

/-- The numbers of the rotations that run for a core; with `alone`, of those that hold no copy channel. -/
def State.rotsOf (s : State) (core : Nat) (alone : Bool) : List Nat :=
  s.wgs.flatMap (fun g => if g.2.core ≠ core then [] else
    (g.2.cards.filter (fun c => c.kind == 0x20 && c.st == .running && !(alone && !(g.2.rotChannel c).isEmpty))).map g.2.rotNum)

/-- The engines that a card runs on, where the one that queued it is known. -/
def Workgroup.enginesOf (g : Workgroup) (c : Card) (e : Engine) : List Engine :=
  match e with
  | .rot _ => g.rotPlace c :: g.rotChannel c
  | .half core h =>
    if c.kind = 0x10 ∧ (MmaDesc.of c.bytes).fuse = true then [.half core (h / 2 * 2), .half core (h / 2 * 2 + 1)] else [e]
  | _ => e :: g.rotChannel c

/-- Whether another rotation of the same virtual device and group runs (R417). -/
def State.rotBusy (s : State) (g : Workgroup) (c : Card) : Bool :=
  c.kind == 0x20 && s.wgs.any (fun x => x.2.vd == g.vd && x.2.cards.any (fun d =>
    d.kind == 0x20 && d.st == .running && (RotDesc.of d.bytes).fgrp == (RotDesc.of c.bytes).fgrp))

/-- A card that begins to run. -/
def Run.fresh (r : CardRef) (c : Card) : Run := ⟨r, c.prog, c.atAdd, [], [], none, none, none⟩

/-- Whether a card may start now on its engines: each of them is idle and, if it came from a queue, has it at its head. -/
def State.canStart (s : State) (g : Workgroup) (c : Card) (r : CardRef) (l : List Engine) : Bool :=
  !g.guardOpen c && !s.rotBusy g c && (!g.frozen || g.feedsRotation c) &&
  l.all (fun e => (s.engine e).run.isNone && (s.engine e).stopAt.isNone &&
    (!(s.engine e).queue.contains r || (s.engine e).queue.head? == some r))

/-- A card starts on its engines. -/
def State.startOn (s : State) (r : CardRef) (c : Card) (l : List Engine) : State :=
  let s := l.foldl (fun s e => s.setEngine e { s.engine e with run := some (Run.fresh r c) }) (s.takeOff r)
  s.modCard r.wg r.seq (fun c => { c with st := .running, page := none })

/-- The next card of an engine that runs one card at a time. -/
def State.nextCard (s : State) (e : Engine) : Option CardRef := (s.engine e).queue.head?

/-- The cards of an ISMV's queues, from the core after the one served last. -/
def State.ismvTurn (s : State) (stack : Nat) : List (Nat × CardRef) :=
  let l := s.ismvq.filterMap (fun e => if e.1 / 160 = stack then (e.2.head?).map (fun r => (e.1 % 160, r)) else none)
  let last := (s.engine (.ismv stack)).last
  l.filter (fun e => last < e.1) ++ l.filter (fun e => e.1 ≤ last)

/-- The parked cards whose pages have come, each with its engine, in ring order. -/
def State.unparked (s : State) : List (Engine × CardRef) :=
  s.wgs.flatMap (fun g => if g.2.frozen then [] else
    g.2.cards.filterMap (fun c =>
      if c.st = .parked ∧ s.cardReady g.2 c = true then c.eng.map (fun e => (e, (⟨g.1, c.seq⟩ : CardRef))) else none))

/-- The queues that a card of an engine stands in: both halves' for a fused one. -/
def Card.queues (c : Card) (e : Engine) : List Engine :=
  match e with
  | .half core h => if c.kind = 0x10 ∧ (MmaDesc.of c.bytes).fuse = true then
      [.half core (h / 2 * 2), .half core (h / 2 * 2 + 1)] else [e]
  | _ => [e]

/-- A card put back at the head of a queue of an ISMV, behind the card that runs. -/
def State.ismvBack (s : State) (stack core : Nat) (r : CardRef) : State :=
  let k := ismvKey stack core
  let q := Tab.getD s.ismvq k []
  let runs (h : CardRef) : Bool := match s.card? h with
    | some (_, c) => c.st == .running
    | none => false
  { s with ismvq := Tab.put s.ismvq k (q.takeWhile runs ++ r :: q.dropWhile runs) }

/-- A parked card goes back to the head of its queue (R293). -/
def State.backToQueue (s : State) (e : Engine) (r : CardRef) : State :=
  match s.card? r with
  | none => s
  | some (g, c) =>
    let s := match e with
      | .ismv st => s.ismvBack st g.core r
      | _ => (c.queues e).foldl (fun (s : State) x =>
          let q := s.engine x
          s.setEngine x { q with queue := r :: q.queue }) s
    s.modCard r.wg r.seq (fun c => { c with st := .queued, page := none })

/-- Every parked card whose page has come is back in its queue, the oldest of a ring foremost. -/
def State.unpark (s : State) : State := s.unparked.foldr (fun e s => s.backToQueue e.1 e.2) s

/-- CARD_START: the card at the head of an engine's queue starts. -/
def execCardStart (e : Engine) (s : State) : Res :=
  match e with
  | .ismv st =>
    match (s.ismvTurn st).find? (fun x => match s.card? x.2 with
      | some (g, c) => c.st == .queued && !g.guardOpen c && !g.frozen && (s.engine e).stopAt.isNone
      | none => false) with
    | some x => .next (s.modCard x.2.wg x.2.seq (fun c => { c with st := .running, page := none }))
    | none => .next s
  | _ =>
    match s.nextCard e with
    | none => .next s
    | some r =>
      match s.card? r with
      | none => .next s
      | some (g, c) =>
        let l := g.enginesOf c e
        if s.canStart g c r l then .next (s.startOn r c l) else .next s

/-! ## What an engine does next -/

/-- What the card that an engine runs does next: nothing yet, work, a park on a page, a failure, or its end. -/
inductive EngOut where
  | idle
  | go (s : State)
  | park (va : Nat) (w : Bool) (s : State)
  | fail (code : Nat) (s : State)
  | fin (s : State)
  deriving Repr

/-- The failure code of a fault that cannot be replayed. -/
def XRes.code : XRes → Nat
  | .prot => cardProt
  | _ => cardXlate

/-- The run of a card changed on every engine that runs it. -/
def State.modRun (s : State) (r : CardRef) (f : Run → Run) : State :=
  { s with engines := s.engines.map (fun e => (e.1, { e.2 with
      run := e.2.run.map (fun x => if x.card = r then f x else x) })) }

/-- Whether requests of a card are outstanding on the fabric. -/
def State.cardBusy (s : State) (r : CardRef) : Bool :=
  s.reqs.any (fun q => match q.who with | .card c => c == r | _ => false)

/-- The number of nibbles that a granule's mask names. -/
def nibblesOf (m : BitVec 32) : Nat := popCount m

/-- The workgroup of a gang member that still holds its range under a tag (R300). -/
def State.gangMember (s : State) (g : Workgroup) (gid tag i : Nat) : Option Nat :=
  if i = g.wgid ∧ tag = g.tag then some gid
  else ((s.wgs.find? (fun e => e.2.vd == g.vd && e.2.tag == tag && e.2.wgid == i)).map Prod.fst)

/-- A granule of a receiving range gets its full bit, and CM 2 delivers the bytes written (R267, R303). -/
def State.landGranule (s : State) (c : Card) (gid granule bytes : Nat) : State :=
  match Tab.get? s.wgs gid with
  | none => s
  | some g =>
    let s := s.setFe (granuleOf g (16 * granule)) true
    if cCm c.bytes = 2 ∧ cCnt c.bytes ≠ 0 then s.deliver gid (cCnt c.bytes) bytes else s

/-- The key of a granule's mask: the gang member and the granule of its range. -/
def wroteKey (member granule : Nat) : Nat := member * 2 ^ 20 + granule

/-- Bytes written by a card in a receiving range, in nibbles: the mask grows, and a granule written whole lands. -/
def State.noteWrite (s : State) (r : CardRef) (gid member off : Nat) (mask : BitVec 32) : State :=
  match s.card? r with
  | none => s
  | some (_, c) =>
    let k := wroteKey member (off / 16)
    let old : BitVec 32 := Tab.getD c.wrote k 0
    let new := old ||| mask
    let s := s.modCard r.wg r.seq (fun c => { c with wrote := Tab.put c.wrote k new })
    if new == 0xFFFFFFFF && old != new then s.landGranule c gid (off / 16) 16 else s

/-- The nibble mask of n bytes from an offset within its granule. -/
def byteMask (off n : Nat) : BitVec 32 := BitVec.ofNat 32 ((2 ^ (2 * n) - 1) * 2 ^ (2 * (off % 16)))

/-- Whole bytes written in the card's own workgroup, granule by granule. -/
def State.cardStore (s : State) (r : CardRef) (g : Workgroup) (off : Nat) (bs : List Byte) : State :=
  let s := s.scratchWrite g off bs
  if bs.isEmpty then s
  else (List.range ((off + bs.length - 1) / 16 - off / 16 + 1)).foldl (fun s j =>
    let lo := max off ((off / 16 + j) * 16)
    let hi := min (off + bs.length) ((off / 16 + j + 1) * 16)
    s.noteWrite r r.wg g.wgid lo (byteMask lo (hi - lo))) s

/-- The granules that a card wrote in part land at its finish. -/
def State.landRest (s : State) (r : CardRef) (g : Workgroup) (c : Card) : State :=
  c.wrote.foldl (fun (s : State) (e : Nat × BitVec 32) =>
    if e.2 = 0xFFFFFFFF then s
    else match s.gangMember g r.wg (cTag c.bytes) (e.1 / 2 ^ 20) with
      | some gid => s.landGranule c gid (e.1 % 2 ^ 20) ((nibblesOf e.2 + 1) / 2)
      | none => s) s

/-- A card whose every access has been made finishes: full bits, the counter page's translation, the status word, the counter,
then its end (R303). Once the add has gone out to a peer the card waits for the answer alone. -/
def State.finishCard (s : State) (r : CardRef) : EngOut :=
  match s.card? r with
  | none => .idle
  | some (g, c) =>
    if s.cardBusy r then .idle
    else if c.code ≠ 0 then .fail c.code s
    else if c.adding then .fin (s.finalCard r.wg r.seq .done (if c.mdrop then cardMdrop else 0))
    else
      let s := if c.atAdd then s else
        (s.landRest r g c).modCard r.wg r.seq (fun c => { c with atAdd := true, wrote := [] })
      let a := cCnt c.bytes
      let k := cIncr c.bytes
      let code := if c.mdrop then cardMdrop else 0
      let told (s : State) : State := s.writeStatus g { c with st := .done, code := code }
      let fin (s : State) : EngOut := .fin (s.finalCard r.wg r.seq .done code)
      if a = 0 ∨ cCm c.bytes = 2 then fin (told s)
      else if cCm c.bytes = 1 then
        let s := told s
        fin (s.scratchWrite g a (leBytes ((s.scratchNat g a 8 + k) % 2 ^ 64) 8))
      else if !canonical (BitVec.ofNat 64 a) then .fail cardAlign s
      else
        let ag := g.cardAgent r c.kind
        let va := vaOf (BitVec.ofNat 64 a)
        let x := s.xlate ag va true
        match x.1 with
        | .absent => .park va true x.2
        | .prot => .fail cardProt x.2
        | .xlate => .fail cardXlate x.2
        | .at l =>
          let add (s : State) (l : Loc) : EngOut := fin ((told s).rmw ag va l 8 0 0 (leBytes k 8)).2
          if l.space ≠ .fab then
            match x.2.recallPlaces true [(l, 8)] with
            | some t => .go t
            | none => add x.2 l
          else match x.2.fabPlace g.vd l.addr 8 (windowNeed opAtm false) with
            | .own m =>
            (match x.2.recallPlaces true [(⟨.dev, m⟩, 8)] with
            | some t => .go t
            | none => add x.2 ⟨.dev, m⟩)
            | .refused _ => .fail cardPeer x.2
            | .peer dev _ _ =>
              let s := (told (x.2.recallPeerLine g.vd l.addr)).modCard r.wg r.seq (fun c => { c with adding := true })
              .go (s.request ⟨.card r, 0, 0, 8, opAtm, atomAttrs 0 0 8 false, leBytes k 8, l.addr, va, g.vd, dev, false⟩)

/-- A card parks (R293, R305). -/
def State.parkCard (s : State) (r : CardRef) (va : Nat) (w : Bool) : State :=
  match s.card? r with
  | none => s
  | some (g, c) =>
    let s := s.takeOff r
    let s := s.modCard r.wg r.seq (fun c => { c with st := .parked, page := some (va, w) })
    let s := s.writeProg g c
    s.pageFault (g.cardAgent r c.kind) va (!w) w false

end Sys2Proof.Machine
end

