-- ==== Sys2Proof/Machine/Kv.lean ====
section
/-! DEFINITION. Kv.lean: the key-value block instructions and the KV engines that perform them (R400 to R409). -/

namespace Sys2Proof.Machine

open Sys2Proof

/-! ## Issue (R401) -/

/-- The die whose KV engine is the home of a pool (R400); the die of the core where the pool, or the table that names it, has no
translation: an operation that comes there parks its wave, or goes on to the home engine. -/
def State.kvDie (s : State) (g : Agent) (pool : Nat) : Nat :=
  match s.peek g.vd g.ctx (vaOf (BitVec.ofNat 64 pool)) with
  | some l => homeSlice l.addr / 96
  | none => dieOf g.core

/-- A KV instruction: it stalls in a speculation, it is a full fence, and it sends its operation to the home engine. -/
def kvIssue (h : Hdr) (len : Nat) (sd : Nat) (scope : Option Scope) (s : State) (ask : Iss → Rd → KvAsk)
    (pool : Iss → State → Agent → Nat) (src : Iss → Rd → Option Word) : Res :=
  issue h len .stalls true s (fun i s =>
    if i.part = 0 then s.setWave i.k (i.step i.w)
    else
      let rd := i.rd s true
      let bad := match src i rd with
        | some o => o.toNat % 16 != 0
        | none => false
      if bad then i.laneTrap s .align (Mask.one i.lane) [(i.lane, ((src i rd).getD 0).setWidth 64)]
      else match i.release s true scope with
        | some t => t
        | none =>
          let g := s.agentOf i.k i.w 4
          let a := pool i s g
          let d := s.kvDie g a
          let w := (s.scopeOf i.w scope).2
          let op : KvOp := ⟨i.k, i.w.wg, sd, i.part, i.pc, i.next, a, ask i rd, none⟩
          State.setWave { s with kvops := Tab.put s.kvops d (Tab.getD s.kvops d [] ++ [op]) } i.k { w with busy := .kv })

/-- The pair that a source names. -/
def Iss.pairOf (i : Iss) (s : State) (a : Src) : Nat := ((i.rd s true).val a .w64 i.lane).toNat

/-- KVAPP. -/
def execKvapp (h : Hdr) (sd : BitVec 6) (t n src : Src) (scope : Option Scope) (s : State) : Res :=
  kvIssue h (instrLen [t, n, src]) sd.toNat scope s
    (fun i rd => .app (rd.val t .w64 i.lane).toNat (rd.w32 n i.lane).toNat (rd.w32 src i.lane).toNat)
    (fun i s g => s.tabPool g (i.pairOf s t)) (fun i rd => some (rd.w32 src i.lane))

/-- KVREF. -/
def execKvref (h : Hdr) (sd : BitVec 6) (pool ent : Src) (rel : Bool) (scope : Option Scope) (s : State) : Res :=
  kvIssue h (instrLen [pool, ent]) sd.toNat scope s
    (fun i rd => .ref (rd.val pool .w64 i.lane).toNat (rd.val ent .w64 i.lane) rel)
    (fun i s _ => i.pairOf s pool) (fun _ _ => none)

/-- KVDEM. -/
def execKvdem (h : Hdr) (sd : BitVec 6) (t i : Src) (pro : Bool) (scope : Option Scope) (s : State) : Res :=
  kvIssue h (instrLen [t, i]) sd.toNat scope s
    (fun x rd => .dem (rd.val t .w64 x.lane).toNat (rd.w32 i x.lane).toNat pro)
    (fun x s g => s.tabPool g (x.pairOf s t)) (fun _ _ => none)

/-- KVLOOK. -/
def execKvlook (h : Hdr) (dd : BitVec 6) (t i : Src) (scope : Option Scope) (s : State) : Res :=
  kvIssue h (instrLen [t, i]) dd.toNat scope s
    (fun x rd => .look (rd.val t .w64 x.lane).toNat (rd.w32 i x.lane).toNat)
    (fun x s g => s.tabPool g (x.pairOf s t)) (fun _ _ => none)

/-- KVFORK. -/
def execKvfork (h : Hdr) (sd : BitVec 6) (dst src : Src) (scope : Option Scope) (s : State) : Res :=
  kvIssue h (instrLen [dst, src]) sd.toNat scope s
    (fun i rd => .fork (rd.val dst .w64 i.lane).toNat (rd.val src .w64 i.lane).toNat)
    (fun i s g => s.tabPool g (i.pairOf s dst)) (fun _ _ => none)

/-! ## The home engine (R402) -/

/-- The 16-byte place of a structure: the address that `%taddr` shows beside a code. -/
def kvPlace (a : Nat) : Nat := a / 16 * 16

/-- An operation on a table: the header and the pool descriptor translated and checked, then `f`. -/
def State.kvTab (s : State) (g : Agent) (t : Nat) (f : Pool → Nat → Nat → State → KvRes × State) : KvRes × State :=
  s.kvWith g (kvPlace t) [(t, 16, false)] (fun s =>
    let a := s.tabPool g t
    if t % 16 ≠ 0 then (.err (kvPlace t) kvBaddesc, s)
    else if !poolAddr a 128 then (.err t kvBaddesc, s)
    else s.kvWith g a [(a, 128, false)] (fun s =>
      let p := s.poolAt g a
      let nb := s.tabNb g t
      let cap := s.tabCap g t
      if !p.ok then (.err a kvBaddesc, s)
      else if cap = 0 ∨ nb > cap then (.err t kvBaddesc, s)
      else f p a nb s))

/-- The pages of the descriptor, of the record of block b of tier t pushed, and of the advance after it, once `pop` blocks of
the tier `pt` are popped. -/
def State.kvDeferNeed (s : State) (g : Agent) (a : Nat) (p : Pool) (t b pt pop : Nat) : Option KvRes × State :=
  let x := s.kvNeed g a [(a, 128, true), (p.recordAt p.dftail, 8, true)]
  match x.1 with
  | some r => (some r, x.2)
  | none =>
    let n := p.deferred + 1
    x.2.kvAdvance g a p (some (b + t * 2 ^ 32 + p.epoch % 2 * 2 ^ 33)) (3 * n + 3)
      ⟨p.dfhead, n, p.epoch, if pt = 0 then p.top0 - pop else p.top0, if pt = 0 then p.top1 else p.top1 - pop⟩

/-- A block's count. -/
def State.kvCountAt (s : State) (g : Agent) (p : Pool) (t b : Nat) : Nat := s.vnat g (p.countAt t b) 2
/-- A count set. -/
def State.kvSetCount (s : State) (g : Agent) (p : Pool) (t b x : Nat) : State := s.vput g (p.countAt t b) 2 x

/-- Rows written to a block from the workgroup's scratchpad. -/
def State.kvRows (s : State) (g : Agent) (wg : Workgroup) (p : Pool) (t b row src n : Nat) : State :=
  s.vwrite g (p.blockAt t b + row * p.tpb) (s.scratchRead wg src (n * p.tpb))

/-- The blocks on top of the tier 0 stack, from the top down. -/
def State.kvTops (s : State) (g : Agent) (p : Pool) (n : Nat) : List Nat :=
  (List.range n).map (fun j => s.vnat g (p.freeAt 0 (p.top0 - 1 - j)) 4)

/-- What KVAPP is about to do (R403): the last entry, whether it copies the last block, whether it takes a new one, the rows
that go to the last block, the blocks popped. -/
structure KvApp where
  e    : KvEntry
  cow  : Bool
  new  : Bool
  k    : Nat
  pops : List Nat

/-- The blocks that KVAPP touches, each with its tier, the first row, the rows, whether it writes them. -/
def KvApp.rows (x : KvApp) (n : Nat) : List (Nat × Nat × Nat × Nat × Bool) :=
  let into : List (Nat × Nat × Nat × Nat × Bool) :=
    if x.cow then
      (x.e.tier, x.e.block, 0, x.e.filled, false) ::
        (x.pops.take 1).map (fun b => (0, b, 0, x.e.filled + x.k, true))
    else if x.k = 0 then [] else [(x.e.tier, x.e.block, x.e.filled, x.k, true)]
  into ++ (if x.new then (x.pops.drop (if x.cow then 1 else 0)).map (fun b => (0, b, 0, n - x.k, true)) else [])

/-- KVAPP's effect, once every page is translated and every check has passed. -/
def State.kvAppend (s : State) (g : Agent) (wg : Workgroup) (t n src : Nat) (p : Pool) (a nb : Nat) (x : KvApp) :
    KvRes × State :=
  -- copy on write
  let c : KvEntry × State := if x.cow then
      let pop := s.poolPop g a 0
      let s := pop.2.vwrite g (p.blockAt 0 pop.1) (pop.2.vread g (p.blockAt x.e.tier x.e.block) (x.e.filled * p.tpb))
      let s := s.kvSetCount g p 0 pop.1 1
      let s := s.kvSetCount g p x.e.tier x.e.block (s.kvCountAt g p x.e.tier x.e.block - 1)
      (⟨x.e.filled, x.e.ver + 1, pop.1, 0, false, true, true⟩, s)
    else (x.e, s)
  -- into the last block: data before entry
  let s := if x.k = 0 then c.2 else
    (c.2.kvRows g wg p c.1.tier c.1.block c.1.filled src x.k).vput g (entryAt t (nb - 1)) 8
      (KvEntry.bits { c.1 with filled := c.1.filled + x.k })
  -- a new block
  let s := if x.new then
      let pop := s.poolPop g a 0
      let s := (pop.2.kvSetCount g p 0 pop.1 1).kvRows g wg p 0 pop.1 0 (src + x.k * p.tpb) (n - x.k)
      let s := s.vput g (entryAt t nb) 8 (KvEntry.bits ⟨n - x.k, 0, pop.1, 0, false, true, true⟩)
      s.vput g t 4 (nb + 1)
    else s
  (.done ((if x.new then nb + 1 else nb) % 65536 + (if x.cow then 2 ^ 31 else 0) + (if x.new then 2 ^ 30 else 0)), s)

/-- KVAPP once its pool is known (R403): every page that it will touch is translated, then the structures are checked. -/
def State.kvApp (s : State) (g : Agent) (wg : Workgroup) (t n src : Nat) (p : Pool) (a nb : Nat) : KvRes × State :=
  match s.scratchFault wg src (n * p.tpb) 16 false true with
  | some c => (.trap c src, s)
  | none =>
  s.kvWith g t (if nb = 0 then [] else [(entryAt t (nb - 1), 8, false)]) (fun s =>
  let e := KvEntry.of (if nb = 0 then 0 else s.vnat g (entryAt t (nb - 1)) 8)
  if nb ≠ 0 ∧ !(e.v && e.ok p) then (.err t kvBaddesc, s)
  else
  let room := if nb = 0 then 0 else p.bs - e.filled
  let new := decide (n > room)
  let k := min room n
  s.kvWith g a (if room = 0 then [] else [(p.countAt e.tier e.block, 2, false)]) (fun s =>
  let cow := decide (room > 0) && decide (s.kvCountAt g p e.tier e.block > 1)
  let want := (if cow then 1 else 0) + (if new then 1 else 0)
  let have' := min want p.top0
  s.kvWith g a [(a, if want = 0 then 0 else 128, true), (p.freeAt 0 (p.top0 - have'), 4 * have', false)] (fun s =>
  let x : KvApp := ⟨e, cow, new, k, s.kvTops g p have'⟩
  if x.pops.any (fun b => decide (b ≥ p.nblk0)) then (.err a kvBaddesc, s)
  else
  s.kvWith g t ((if new then [(t, 16, true)] else []) ++
    (if new && decide (nb < s.tabCap g t) then [(entryAt t nb, 8, true)] else []) ++
    (if k = 0 then [] else [(entryAt t (nb - 1), 8, true)])) (fun s =>
  s.kvWith g a ((if cow then [(p.countAt e.tier e.block, 2, true)] else []) ++ x.pops.map (fun b => (p.countAt 0 b, 2, true)) ++
    (x.rows n).map (fun b => (p.blockAt b.1 b.2.1 + b.2.2.1 * p.tpb, b.2.2.2.1 * p.tpb, b.2.2.2.2))) (fun s =>
  if n = 0 ∨ n > p.bs then (.err t kvBadarg, s)
  else if want > p.top0 then (.err a kvExhaust, s)
  else if new && decide (nb ≥ s.tabCap g t) then (.err t kvTable, s)
  else if !(x.rows n).all (fun b => s.tierOk g (p.blockAt b.1 b.2.1 + b.2.2.1 * p.tpb) (b.2.2.2.1 * p.tpb) b.1) then
    (.err a kvBaddesc, s)
  else s.kvAppend g wg t n src p a nb x)))))

/-- KVREF (R404). -/
def State.kvRef (s : State) (g : Agent) (a : Nat) (ent : BitVec 64) (rel : Bool) : KvRes × State :=
  s.kvWith g (kvPlace a) [(a, 128, false)] (fun s =>
  if !poolAddr a 128 then (.err (kvPlace a) kvBaddesc, s)
  else
  let p := s.poolAt g a
  let e := KvEntry.of ent.toNat
  if !p.ok then (.err a kvBaddesc, s)
  else if !e.v || decide (e.block ≥ p.nblk e.tier) then (.err a kvBadarg, s)
  else
  s.kvWith g a [(p.countAt e.tier e.block, 2, true)] (fun s =>
  let n := s.kvCountAt g p e.tier e.block
  if (rel && n == 0) || (!rel && decide (n ≥ 65535)) then (.err a kvCount, s)
  else if !rel then (.done (n + 1), s.kvSetCount g p e.tier e.block (n + 1))
  else if n > 1 then (.done (n - 1), s.kvSetCount g p e.tier e.block (n - 1))
  else
  let z := s.kvDeferNeed g a p e.tier e.block 0 0
  match z.1 with
  | some r => (r, z.2)
  | none =>
    if p.deferred ≥ p.dfcap then (.err a kvDefer, z.2)
    else (.done 0, (z.2.kvSetCount g p e.tier e.block 0).poolDefer g a e.tier e.block)))

/-- KVLOOK (R406). -/
def State.kvLook (s : State) (g : Agent) (t i : Nat) (p : Pool) (_a nb : Nat) : KvRes × State :=
  if i ≥ nb then (.done 0, s)
  else s.kvWith g t [(entryAt t i, 8, false)] (fun s =>
    let w := s.vnat g (entryAt t i) 8
    if !entryOk p w then (.err t kvBaddesc, s) else (.done w, s))

/-- The counts that a fork raises: each block with the number of entries that name it. -/
def forkBlocks (es : List KvEntry) : List (Nat × Nat × Nat) :=
  let l := (es.filter KvEntry.v).map (fun e => (e.tier, e.block))
  l.eraseDups.map (fun b => (b.1, b.2, (l.filter (fun c => c == b)).length))

/-- KVFORK (R405). -/
def State.kvFork (s : State) (g : Agent) (dst src : Nat) (p : Pool) (a nb : Nat) : KvRes × State :=
  s.kvWith g (kvPlace src) [(src, 16, false)] (fun s =>
  let n := s.tabNb g src
  if src % 16 ≠ 0 then (.err (kvPlace src) kvBaddesc, s)
  else if s.tabPool g src ≠ a then (.err dst kvBaddesc, s)
  else if s.tabCap g src = 0 ∨ n > s.tabCap g src then (.err src kvBaddesc, s)
  else
  let fits := decide (n ≤ s.tabCap g dst)
  s.kvWith g src [(entryAt src 0, 8 * n, false)] (fun s =>
  s.kvWith g dst [(dst, 16, true), (entryAt dst 0, if fits then 8 * n else 0, true)] (fun s =>
  let ws := (List.range n).map (fun i => s.vnat g (entryAt src i) 8)
  if ws.any (fun w => !entryOk p w) then (.err src kvBaddesc, s)
  else
  let bl := forkBlocks (ws.map KvEntry.of)
  s.kvWith g a (bl.map (fun b => (p.countAt b.1 b.2.1, 2, true))) (fun s =>
  if nb ≠ 0 ∨ !fits then (.err dst kvTable, s)
  else if bl.any (fun b => decide (s.kvCountAt g p b.1 b.2.1 + b.2.2 > 65535)) then (.err a kvCount, s)
  else
    let s := bl.foldl (fun s b => s.kvSetCount g p b.1 b.2.1 (s.kvCountAt g p b.1 b.2.1 + b.2.2)) s
    let s := s.vwrite g (entryAt dst 0) (ws.flatMap (fun w => leBytes w 8))
    (.done n, s.vput g dst 4 n)))))

/-- KVDEM up to its copy (R407). -/
def State.kvDem (s : State) (g : Agent) (t i : Nat) (pro : Bool) (p : Pool) (a nb : Nat) : KvRes × State :=
  let tgt := if pro then 0 else 1
  if i ≥ nb ∨ p.nblk tgt = 0 then (.err t kvBadarg, s)
  else
  s.kvWith g t [(entryAt t i, 8, false)] (fun s =>
  let w := s.vnat g (entryAt t i) 8
  let e := KvEntry.of w
  if !e.v then (if w = 0 then .done 3 else .err t kvBaddesc, s)
  else if !e.ok p then (.err t kvBaddesc, s)
  else if e.tier = tgt then (.done 1, s)
  else
  s.kvWith g a [(p.countAt e.tier e.block, 2, false)] (fun s =>
  if s.kvCountAt g p e.tier e.block > 1 then (.done 2, s)
  else
  let have' := min 1 (p.top tgt)
  s.kvWith g t [(entryAt t i, 8, true)] (fun s =>
  s.kvWith g a [(p.countAt e.tier e.block, 2, true), (p.blockAt e.tier e.block, p.bpb, false),
    (p.freeAt tgt (p.top tgt - 1), 4 * have', false)] (fun s =>
  let b := s.vnat g (p.freeAt tgt (p.top tgt - 1)) 4
  if have' = 1 ∧ b ≥ p.nblk tgt then (.err a kvBaddesc, s)
  else
  s.kvWith g a [(p.countAt tgt b, 2 * have', true), (p.blockAt tgt b, p.bpb * have', true)] (fun s =>
  let z := s.kvDeferNeed g a p e.tier e.block tgt have'
  match z.1 with
  | some r => (r, z.2)
  | none =>
  let s := z.2
  if have' = 0 then (.err a kvExhaust, s)
  else if p.deferred ≥ p.dfcap then (.err a kvDefer, s)
  else if !s.tierOk g (p.blockAt e.tier e.block) p.bpb e.tier || !s.tierOk g (p.blockAt tgt b) p.bpb tgt then (.err a kvBaddesc, s)
  else
    let s := (s.poolPop g a tgt).2
    (.copy (entryAt t i) b tgt, s.vput g (entryAt t i) 8 (KvEntry.bits { e with moving := true })))))))

/-- An operation performed by the home engine of its pool. -/
def State.kvRun (s : State) (g : Agent) (wg : Workgroup) (op : KvOp) : KvRes × State :=
  match op.ask with
  | .app t n src => s.kvTab g t (fun p a nb s => s.kvApp g wg t n src p a nb)
  | .ref a e rel => s.kvRef g a e rel
  | .dem t i pro => s.kvTab g t (fun p a nb s => s.kvDem g t i pro p a nb)
  | .look t i => s.kvTab g t (fun p a nb s => s.kvLook g t i p a nb)
  | .fork dst src => s.kvTab g dst (fun p a nb s => s.kvFork g dst src p a nb)

/-- The wave of an operation, while it still waits for it. -/
def State.kvWave (s : State) (op : KvOp) : Option Wave :=
  match Tab.get? s.waves op.wave with
  | some w => if w.wg = op.wg ∧ w.busy = .kv ∧ op.gone = none then some w else none
  | none => none

/-- The result of an operation reaches its wave. -/
def State.kvAnswer (s : State) (op : KvOp) (r : KvRes) : State :=
  match s.kvWave op with
  | none => s
  | some w =>
    let w := { w with busy := .no }
    let who := op.mask.lanes
    let taddr (m : Mask) (a : Nat) : Tab DWord := m.lanes.map (fun l => (l, BitVec.ofNat 64 a))
    match r with
    | .done x =>
      let w := match op.ask with
        | .look _ _ => w.setSw op.sd (BitVec.ofNat 64 x)
        | _ => w.setS op.sd (BitVec.ofNat 32 x)
      s.setWave op.wave (w.goto (w.atPc w.runnable op.pc) op.next)
    | .err a code =>
      (s.setWave op.wave w).raise op.wave
        { addrTrap .kverr op.mask op.pc (taddr op.mask (a + code)) with detail := BitVec.ofNat 8 code }
    | .trap c a =>
      let m := if c = .xlate then op.mask else Mask.one (who.headD 0)
      (s.setWave op.wave w).raise op.wave (addrTrap c m op.pc (taddr m a))
    | .park va b =>
      let s := State.setWave { s with nextId := s.nextId + 1 } op.wave (w.park op.mask 1 (.page va b) s.nextId)
      (s.pageFault (s.agentOf op.wave w 4) va (!b) b false).countSp (spOf op.wave) 6 who.length
    | .wait | .copy _ _ _ => s

/-- The workgroup for which an operation is performed: it may be gone (R409). -/
def State.kvHome (s : State) (op : KvOp) : Option Workgroup :=
  match op.gone with
  | some g => some g
  | none => Tab.get? s.wgs op.wg

/-- The agent of an operation's accesses. -/
def KvOp.agent (op : KvOp) (g : Workgroup) : Agent :=
  ⟨g.vd, g.ctx, g.core, 4, if op.gone.isSome then .other else .thread op.wave op.pc⟩

/-- The pool that an operation names now: its own operand, or what the header of its table holds. -/
def State.kvNames (s : State) (g : Agent) (op : KvOp) : Nat :=
  match op.ask with
  | .app t _ _ | .dem t _ _ | .look t _ | .fork t _ => s.tabPool g t
  | .ref a _ _ => a

/-- An operation with the pool that it names now. -/
def State.kvAimed (s : State) (op : KvOp) : KvOp :=
  match s.kvHome op with
  | none => op
  | some wg => { op with pool := s.kvNames (op.agent wg) op }

/-- Where an operation's pool lies. -/
def State.kvPoolAt (s : State) (op : KvOp) : Option Loc :=
  (s.kvHome op).bind (fun g => s.peek g.vd g.ctx (vaOf (BitVec.ofNat 64 op.pool)))

/-- Whether a copy of an operation's pool is in progress at a die. -/
def State.kvHeld (s : State) (die : Nat) (op : KvOp) : Bool :=
  let at' := s.kvPoolAt (s.kvAimed op)
  at'.isSome && (Tab.getD s.kvcopies die []).any (fun c => s.kvPoolAt c.op == at')

/-- An operation performed by the home engine of its pool, which held it in its queue. One that waits at another die than its
pool's goes on to the home engine. -/
def State.kvPerform (s : State) (die : Nat) (op : KvOp) : State :=
  let aim := s.kvAimed op
  let s := { s with kvops := Tab.set [] s.kvops die ((Tab.getD s.kvops die []).erase op) }
  match s.kvHome op with
  | none => s
  | some wg =>
    let g := op.agent wg
    let home := s.kvDie g aim.pool
    if home ≠ die then { s with kvops := Tab.put s.kvops home (Tab.getD s.kvops home [] ++ [aim]) }
    else
      let r := s.kvRun g wg aim
      let s := r.2
      match r.1 with
      | .copy entry block tier =>
        { s with kvcopies := Tab.put s.kvcopies die (Tab.getD s.kvcopies die [] ++ [⟨aim, entry, block, tier⟩]) }
      | .wait => { s with kvops := Tab.put s.kvops die (op :: Tab.getD s.kvops die []) }
      | x => s.kvAnswer op x

/-- KV_HOME_OPERATION: the oldest operation of a die whose pool is not busy. -/
def execKvHomeOperation (die : Nat) (s : State) : Res :=
  match (Tab.getD s.kvops die []).find? (fun op => !s.kvHeld die op) with
  | none => .next s
  | some op => .next (s.kvPerform die op)

/-- The pages that the end of a copy touches. -/
def State.kvCopyNeed (s : State) (g : Agent) (c : KvCopy) : Option KvRes × State :=
  let a := c.op.pool
  let x := s.kvNeed g a [(a, 128, true), (c.entry, 8, true)]
  match x.1 with
  | some r => (some r, x.2)
  | none =>
    let s := x.2
    let p := s.poolAt g a
    let e := KvEntry.of (s.vnat g c.entry 8)
    let y := s.kvNeed g a [(p.blockAt e.tier e.block, p.bpb, false), (p.blockAt c.tier c.block, p.bpb, true),
      (p.countAt c.tier c.block, 2, true), (p.countAt e.tier e.block, 2, true)]
    match y.1 with
    | some r => (some r, y.2)
    | none => y.2.kvDeferNeed g a p e.tier e.block 0 0

/-- A copy that is complete: the block's bytes stand in the new place, the entry swaps in one store, and the old block is
deferred (R407). A copy of which a page is gone goes on once it is there. -/
def State.kvCopied (s : State) (die : Nat) (c : KvCopy) : State :=
  match s.kvHome c.op with
  | none => { s with kvcopies := Tab.set [] s.kvcopies die ((Tab.getD s.kvcopies die []).erase c) }
  | some wg =>
    let g := c.op.agent wg
    let a := c.op.pool
    let need := s.kvCopyNeed g c
    if need.1.isSome then need.2
    else
      let s := { need.2 with kvcopies := Tab.set [] s.kvcopies die ((Tab.getD s.kvcopies die []).erase c) }
      let p := s.poolAt g a
      let e := KvEntry.of (s.vnat g c.entry 8)
      let s := s.vwrite g (p.blockAt c.tier c.block) (s.vread g (p.blockAt e.tier e.block) p.bpb)
      let s := s.kvSetCount g p c.tier c.block 1
      let s := s.vput g c.entry 8 (KvEntry.bits ⟨e.filled, e.ver + 1, c.block, c.tier, false, true, true⟩)
      let s := s.kvSetCount g p e.tier e.block 0
      let s := s.poolDefer g a e.tier e.block
      s.kvAnswer c.op (.done 0)

/-- KVDEM_COPY_DONE: the oldest copy of a die whose pages are there completes. -/
def execKvdemCopyDone (die : Nat) (s : State) : Res :=
  match Tab.getD s.kvcopies die [] with
  | [] => .next s
  | c :: _ => .next (s.kvCopied die c)

/-- Whether an operation at a home engine has lost its workgroup. -/
def State.kvOrphans (s : State) : Bool :=
  s.kvops.any (fun e => e.2.any (fun o => o.gone.isSome)) || s.kvcopies.any (fun e => e.2.any (fun c => c.op.gone.isSome))

/-- The operations of a die performed in their order, until none that has lost its workgroup is left or one must wait. -/
def kvTurns (die : Nat) : Nat → State → State
  | 0, s => s
  | n + 1, s =>
    let q := Tab.getD s.kvops die []
    if !q.any (fun o => o.gone.isSome) then s
    else match q.find? (fun op => !s.kvHeld die op) with
      | none => s
      | some op => kvTurns die n (s.kvPerform die op)

/-- The operations and copies that a kill or a context fault left without their workgroup complete in their turn, and their
results are discarded (R409). -/
def State.finishKv (s : State) : State :=
  let copies (s : State) : State := s.kvcopies.foldl (fun s e =>
    (e.2.filter (fun c => c.op.gone.isSome)).foldl (fun s c => s.kvCopied e.1 c) s) s
  let s := copies s
  copies (s.kvops.foldl (fun s e => kvTurns e.1 e.2.length s) s)

end Sys2Proof.Machine
end

