-- ==== Sys2Proof/Machine/Ports.lean ====
section
/-! DEFINITION. Ports.lean: how packets leave the device: the dwells of the ports, the consensus slot, direct and two-hop routes, and the order of
the classes and of the virtual devices within one (R20, R333 to R335). -/

namespace Sys2Proof.Machine

open Sys2Proof

/-- A port as it stands. -/
def State.port (s : State) (n : Nat) : Port := Tab.getD s.ports n Port.init

/-! ## Dwells (R333, R362) -/

/-- The cycle at which the dwell of a port began by the staggering of the rotors: 3,250 cycles each, those of port n beginning
n phases of 156.25 ns after those of port 0. -/
def dwellBegan (n clock : Nat) : Nat :=
  let phase := clock * 16 / 3250
  if phase < n then 0 else ((n + (phase - n) / 16 * 16) * 3250 + 15) / 16

/-- A dwell of a port begins now. -/
def State.dwellDue (s : State) (n : Nat) : Bool :=
  (s.port n).up && decide ((s.port n).since < dwellBegan n s.clock)

/-- The flits that a port can have sent t cycles into a dwell: none in the guard and the consensus slot, 9,200 in the data
window. -/
def windowFlits (t : Nat) : Nat := Nat.min 9200 ((t - 260) * 9200 / 2990)

/-- The consensus flits that a port can have sent t cycles into a dwell: 1,600 in the consensus slot (R333). -/
def slotFlits (t : Nat) : Nat := if t < 260 then Nat.min 1600 ((t - 130) * 1600 / 130) else 0

/-- A port sends the consensus flits that wait for its slot, as far as the slot lets it. -/
def State.slotSend (s : State) (n : Nat) : State :=
  let x := s.port n
  match (s.cwait.filter (fun e => e.1 == n)).take (slotFlits (s.clock - x.since) - x.cons) with
  | [] => s
  | l =>
    State.countPort { s with
      cwait := l.foldl (fun w e => w.erase e) s.cwait, cout := s.cout ++ l.map Prod.snd
      ports := Tab.put s.ports n { x with cons := x.cons + l.length } } n 0x80 l.length

/-- Every port that is up does so. -/
def State.sendSlots (s : State) : State :=
  if s.cwait.isEmpty then s else ((List.range 16).filter (fun n => (s.port n).up)).foldl State.slotSend s

/-! ## Routes (R20, R335) -/

/-- Whether the rotor of a port connects this device to another in the d-th dwell from the current one. -/
def State.connects (s : State) (n dev d : Nat) : Bool :=
  (s.port n).up && Config.matchedTo s.devid n (((s.port n).dwell + d) % 16) == dev

/-- Whether some port connects this device to another in the d-th dwell from the current one. -/
def State.direct (s : State) (dev d : Nat) : Bool := (List.range 16).any (fun n => s.connects n dev d)

/-- The dwells until the rotors connect two devices next. -/
def State.meeting (s : State) (x dev : Nat) : Option Nat :=
  (List.range 16).find? (fun d => (List.range 16).any (fun m =>
    Config.matchedTo x m (((s.port m).dwell + d + 1) % 16) == dev))

/-- The port to the intermediate device: one that is connected now and will be connected to the target earliest; of several
the lowest port. -/
def State.relayPort (s : State) (dev : Nat) : Option Nat :=
  let l := (List.range 16).filterMap (fun n =>
    if (s.port n).up then (s.meeting (Config.matchedTo s.devid n ((s.port n).dwell % 16)) dev).map (fun d => (n, d)) else none)
  (l.foldl (fun (b : Option (Nat × Nat)) x => match b with
    | none => some x
    | some y => if x.2 < y.2 then some x else b) none).map Prod.fst

/-- A packet as it leaves by a port, where it travels by that port now: direct in its original class; else, where neither this
dwell nor the next connects the devices, by an intermediate in the relay class, a rotation packet in its own. A packet on its
second hop only travels directly. -/
def State.viaPort (s : State) (n : Nat) (p : Packet) : Option Packet :=
  let dev := p.tdev.toNat
  if s.connects n dev 0 then some { p with cls := p.oclass, hop := false }
  else if p.sdev.toNat ≠ s.devid ∨ s.direct dev 0 = true ∨ s.direct dev 1 = true then none
  else if s.relayPort dev = some n then some { p with cls := if p.oclass = 4 then 4 else 5, hop := true }
  else none

/-! ## The order of the classes (R334) -/

/-- The key of a rotation packet's group. -/
def State.rotKey (s : State) (p : Packet) : Nat := s.localVd p * 64 + rotGrp p

/-- The flits per dwell that are reserved for a fabric group. -/
def State.rotShare (s : State) (k : Nat) : Nat :=
  match Tab.get? s.fgs k with
  | some f => f.share * 92
  | none => 0

/-- The rotation flits that a port's dwell reserves: the largest share among the groups whose rotation flits wait to leave by
it, at most half the window (R429). -/
def State.rotReserve (s : State) (n : Nat) : Nat :=
  Nat.min 4600 (((s.halo ++ s.out).filter (fun p => p.oclass == 4 && (s.viaPort n p).isSome)).foldl
    (fun m p => Nat.max m (s.rotShare (s.rotKey p))) 0)

/-- The place of a packet in the precedence of a port: management up to 64 flits a dwell, rotation up to the reserve,
invalidate, response, relay, and requests with the other rotation flits. -/
def Port.placeAt (x : Port) (reserve : Nat) (p : Packet) : Option Nat :=
  let n := Packet.flits p
  match p.cls.toNat with
  | 6 => if x.mgmt + n ≤ 64 then some 0 else none
  | 4 => some (if x.rot + n ≤ reserve then 1 else 5)
  | 2 => some 2
  | 1 => some 3
  | 5 => some 4
  | _ => some 5

/-- The weight of a virtual device at the ports: its slice-scheduler weight. -/
def State.portWeight (s : State) (vd : Nat) : Nat :=
  match Tab.get? s.vds vd with
  | some v => Nat.max 1 v.weight
  | none => 1

/-- The virtual device that follows another in turn among those that wait. -/
def turnAfter (l : List Nat) (c : Nat) : Nat :=
  let least (l : List Nat) : Option Nat := l.foldl (fun b x => match b with
    | none => some x
    | some y => some (Nat.min x y)) none
  ((least (l.filter (fun x => c < x))).or (least l)).getD 0

/-- Weighted deficit round robin: from the virtual device served last, the turn goes round until the deficit of one covers
the flits of its first packet; each that gets its turn gains its weight in flits. -/
def drr (weight need : Nat → Nat) (l : List Nat) : Nat → Nat → Tab Nat → Nat × Tab Nat
  | 0, c, t => (c, t)
  | n + 1, c, t =>
    if l.contains c && decide (need c ≤ Tab.getD t c 0) then (c, Tab.put t c (Tab.getD t c 0 - need c))
    else
      let d := turnAfter l c
      drr weight need l n d (Tab.put t d (Tab.getD t d 0 + weight d))

/-! ## Sending -/

/-- Whether a packet keeps its place behind another: the same source, virtual device, target and class. A class never holds
another back (R334, R336). -/
def Packet.follows (p q : Packet) : Bool :=
  p.sdev == q.sdev && p.svd == q.svd && p.tdev == q.tdev && p.oclass == q.oclass

/-- The packets that wait behind no other: each the first of its kind. -/
def firstOnes : List Packet → List Packet → List Packet
  | [], _ => []
  | p :: r, seen => if seen.any (fun q => Packet.follows p q) then firstOnes r (seen ++ [p]) else p :: firstOnes r (seen ++ [p])

/-- Whether allowances cover a packet that leaves by a port as `q` (R340): what receivers have handed out is theirs to know.
Responses have their slots already, and management flits need none; a first hop needs halo slots of the intermediate, those of its
fabric group for a rotation (R335, R429). A packet on its second hop leaves against what its source had. -/
def State.allowed (s : State) (n : Nat) (p q : Packet) : Bool :=
  let k := Packet.flits p
  p.sdev.toNat != s.devid ||
    ((p.oclass == 1 || p.oclass == 6 || decide (k ≤ Config.allowanceLeft p.tdev.toNat p.svd.toNat p.oclass.toNat s.free)) &&
      (!q.hop || decide (k ≤ Config.haloLeft (Config.matchedTo s.devid n ((s.port n).dwell % 16)) p.svd.toNat
        (if p.oclass = 4 then rotGrp p + 1 else 0) s.free)))

/-- The packet that a port sends next: as it waits, as it leaves, with the port's counts after it. -/
def State.portPick (s : State) (n : Nat) : Option (Packet × Packet × Port) :=
  let x := s.port n
  let ok (p : Packet) : Bool := decide (x.sent + Packet.flits p ≤ windowFlits (s.clock - x.since))
  let reserve := s.rotReserve n
  let l := (firstOnes (s.halo ++ s.out) []).filterMap (fun p => if ok p then (s.viaPort n p).bind (fun q =>
    if s.allowed n p q then (x.placeAt reserve q).map (fun r => (r, p, q)) else none) else none)
  match l with
  | [] => none
  | e :: rest =>
    let r := rest.foldl (fun b y => Nat.min b y.1) e.1
    let mine := l.filter (fun y => y.1 == r)
    let vds := (mine.map (fun y => s.localVd y.2.1)).eraseDups
    let first (vd : Nat) : Option (Nat × Packet × Packet) := mine.find? (fun y => s.localVd y.2.1 == vd)
    let need (vd : Nat) : Nat := match first vd with
      | some y => Packet.flits y.2.1
      | none => 0
    let t := (x.deficit.filter (fun z => z.1 / 512 == r && vds.contains (z.1 % 512))).map (fun z => (z.1 % 512, z.2))
    let d := drr s.portWeight need vds (6 * vds.length + 1) (Tab.getD x.last r 0) t
    (first d.1).map (fun y =>
      let p := y.2.1
      let q := y.2.2
      let k := Packet.flits p
      (p, q, { x with
        sent := x.sent + k
        mgmt := if q.cls = 6 then x.mgmt + k else x.mgmt
        rot := if r = 1 then x.rot + k else x.rot
        deficit := d.2.foldl (fun t z => Tab.put t (r * 512 + z.1) z.2) (x.deficit.filter (fun z => z.1 / 512 != r))
        last := Tab.put x.last r d.1 }))

/-- Energy goes to a virtual device (R473). -/
def State.spend (s : State) (vd what : Nat) : State :=
  s.modVd vd (fun v => { v with energy := v.energy + BitVec.ofNat 64 (Config.energy what s.free) })

/-- A port sends the packets that can go in one cycle, one after another; a relayed one leaves the halo buffer as it goes. A
packet's energy is its owner's. -/
def State.portSend (n : Nat) : Nat → State → State
  | 0, s => s
  | fuel + 1, s =>
    match s.portPick n with
    | none => s
    | some (p, q, x) =>
      State.portSend n fuel (State.countPort { s.spend (s.localVd p) (4096 * x.sent + 16 * 128 + n) with
        halo := if p.sdev.toNat = s.devid then s.halo else s.halo.erase p
        out := if p.sdev.toNat = s.devid then s.out.erase p else s.out
        wire := s.wire ++ [(n, q)], ports := Tab.put s.ports n x } n 0x80 (Packet.flits p))

/-- Every port sends what it can send in one cycle. -/
def State.sendPorts (s : State) : State :=
  if s.out.isEmpty && s.halo.isEmpty then s
  else ((List.range 16).filter (fun n => (s.port n).up)).foldl (fun s n =>
    State.portSend n (s.out.length + s.halo.length) s) s

end Sys2Proof.Machine
end

