-- ==== Sys2Proof/Machine/Fabric.lean ====
section
/-! DEFINITION. Fabric.lean: the fabric instructions, and what the endpoint does with the packets that arrive: requests at
this home, the directory, and the answers to this device's own requests (R335 to R359). -/

namespace Sys2Proof.Machine

open Sys2Proof

/-! ## RSIG and RFLUSH (R350 to R353) -/

/-- RSIG. -/
def execRsig (h : Hdr) (m : MemRef) (a : Src) (w : Bool) (scope : Option Scope) (s : State) : Res :=
  issue h (instrLen [m.base, a, m.off]) .stalls true s (fun i s =>
    if i.part = 0 then s.setWave i.k (i.step i.w)
    else match i.release s true scope with
      | some t => t
      | none =>
        let sc := scalarFields [m.base, a, m.off]
        let rd := i.rd s sc
        i.global s sc (rd.gaddr m) 8 8 true (fun i ok mv s =>
          i.atomLanes s sc none 8 0 0 true scope ok mv (rd.gaddr m) (rd.addend a w)))

/-- RFLUSH over a range: peer lines only. -/
def execRflush (h : Hdr) (m : MemRef) (len : Src) (inv : Bool) (scope : Option Scope) (s : State) : Res :=
  rangeIssue h m len scope s (fun i g a n s =>
    let ls := (s.rangeLines g.vd g.ctx a n).filter (fun e => e.2.space == .fab && ifaDev e.2.addr != s.devid)
    let t := ls.foldl (fun s e => s.flushLine i.k g.vd (lineKey .fab e.2.addr) inv) s
    i.flushed t (s.scopeOf i.w scope).2)

/-- RFLUSH.all: every peer line of the virtual device that is homed on one device. -/
def execRflushAll (h : Hdr) (n : Src) (inv : Bool) (scope : Option Scope) (s : State) : Res :=
  issue h (instrLen [n]) .stalls true s (fun i s =>
    if i.part = 0 then s.setWave i.k (i.step i.w)
    else match i.release s true scope with
      | some t => t
      | none =>
        let g := s.agentOf i.k i.w 0
        let d := ((i.rd s true).w32 n i.lane).toNat
        let member := match Tab.get? s.vds g.vd with
          | some v => (Tab.getD v.pmap d ⟨false, 0, 0⟩).v
          | none => false
        let w := (s.scopeOf i.w scope).2
        if d ≥ 256 ∨ d = s.devid ∨ member = false then s.setWave i.k (i.step w)
        else
          let ls := s.llc.filter (fun e => e.1 / 2 ^ 60 == 3 && e.2.vd == g.vd && ifaDev (e.1 % 2 ^ 60 * 64) == d)
          i.flushed (ls.foldl (fun s e => s.flushLine i.k g.vd e.1 inv) s) w)

/-! ## The answers to this device's requests (R346, R347) -/

/-- A virtual address as the 64-bit canonical address that a trap reports. -/
def canonOf (va : Nat) : Nat := ((BitVec.ofNat 57 va).signExtend 64).toNat

/-- The lanes that a load of a lane stands for: its own, or every runnable lane at its PC where the result is scalar. -/
def Wave.served' (w : Wave) (d : BitVec 7) (lane : Nat) : Mask :=
  if d.toNat ≥ 64 then w.atPc w.runnable (w.pcOf lane) else Mask.one lane

/-- A wave whose accesses are all answered goes on: refused lanes raise PROT at the instruction (R346). -/
def State.wakeRemote (s : State) (k : Nat) : State :=
  match Tab.get? s.waves k with
  | none => s
  | some w =>
    if w.busy != .remote || s.outstanding k then s
    else
      let s := s.setWave k { w with busy := .no }
      match w.rejected with
      | [] => s
      | e :: _ => s.reportRejected k (w.pcOf e.1)

/-- Every wave that waits for the fabric and for nothing outstanding looks again. -/
def State.wakeAll (s : State) : State := s.waves.foldl (fun s e => s.wakeRemote e.1) s

/-- Lanes refused with a reason. -/
def Wave.reject (w : Wave) (m : Mask) (addr why : Nat) : Wave :=
  { w with rejected := w.rejected ++ m.lanes.map (fun l => (l, addr, why)) }

/-- The end of a lane's access: registers written, lanes moved on; a refused lane stays. -/
def State.laneDone (s : State) (k lane : Nat) (d : BitVec 7) (next : BitVec 64) (ws : List Word) : State :=
  s.modWave k (fun w =>
    let m := w.served' d lane
    let w := { w with inbuf := w.inbuf.filter (fun e => e.1 != lane) }
    if w.rejected.any (fun e => m.has e.1) then w else (w.setRegs d lane ws).goto m next)

/-- The bytes of a line as they become when some of them are written: mask zero stands for all. -/
def maskLine (mask : BitVec 64) (old new : List Byte) : List Byte :=
  (List.zip old new).mapIdx (fun j e => if mask = 0 ∨ mask.getLsbD j = true then e.2 else e.1)

/-- A line that arrives from its home, held here from now on. What was written on a copy held shared stays on it: those writes
come later in the order of the line than what its home holds (R241, R347). A streaming access fills at the priority of R221. -/
def State.installPeer (s : State) (vd ctx va ifa : Nat) (bs : List Byte) (h : Hold) (low : Bool) : State :=
  let a := ifa / 64 * 64
  let key := lineKey .fab a
  let s := s.claimPeer vd a
  let old := Tab.get? s.llc key
  if old.map Line.hold == some .owned then s
  else
    let mine := (old.map Line.wrote).getD 0
    let bs := if mine = 0 then bs.take 64 else maskLine mine (bs.take 64) (cellsGet s.peer a 64)
    let s := s.touch vd ctx va ⟨.fab, a⟩ false low
    { s with
      llc := Tab.modify s.llc key (fun l => { l with hold := h })
      peer := cellsSet s.peer a bs }

/-- The context of the workgroup of a wave. -/
def State.ctxOfWave (s : State) (k : Nat) : Nat :=
  match (Tab.get? s.waves k).bind s.wgOf with
  | some g => g.ctx
  | none => 0

/-- A wave's access to a line that has come from its home looks in the L1 of its core (R221). -/
def State.fillL1 (s : State) (k vd ifa : Nat) (store low : Bool) : State :=
  if (Tab.get? s.waves k).isSome then (s.l1Access (coreOf k) vd ⟨.fab, ifa⟩ store low).2 else s

/-- A copy card's last write to a peer is performed: PROG takes it in (R304). -/
def State.noteProg (s : State) (r : CardRef) : State :=
  match s.card? r, s.engines.findSome? (fun x => x.2.run.filter (fun q => q.card == r)) with
  | some (_, c), some q =>
    if isCopy c.kind && !c.atAdd then s.modCard r.wg r.seq (fun c => { c with prog := (CopyDesc.of q.desc).progOf q.prog }) else s
  | _, _ => s

/-- The answer to a request: the reason of its refusal, or its data. -/
def State.answered (s : State) (r : FabReq) (res : Nat ⊕ List Byte) : State :=
  match r.who with
  | .load k lane d n sx low =>
    let s := match res with
      | .inl why => s.modWave k (fun w => w.reject (w.served' d lane) (canonOf (r.va - r.off)) why)
      | .inr bs =>
        let s := if r.op = opRds then State.fillL1
          (s.installPeer r.vd (s.ctxOfWave k) r.va r.ifa bs .shared low) k r.vd r.ifa false low else s
        let got := if r.op = opRds then s.readBytes ⟨.fab, r.ifa / 64 * 64 + r.va % 64⟩ r.len else bs.take r.len
        s.modWave k (fun w => { w with inbuf := w.inbuf ++ got.mapIdx (fun j b => (lane, r.off + j, b)) })
    let more := s.reqs.any (fun q => match q.who with | .load x l _ _ _ _ => x == k && l == lane | _ => false)
    let s := if more || n == 0 then s
      else match Tab.get? s.waves k with
        | none => s
        | some w =>
          let bs := bytesAt ((w.inbuf.filter (fun e => e.1 == lane)).map Prod.snd) n
          (((s.laneDone k lane d r.next (loadWords sx bs)).sampleFree (coreOf k) r.vd 1 240).sampleFree
            (162 + (s.fresh 250).toNat % 16) r.vd 1 240)
    s.wakeRemote k
  | .atomic k lane d n =>
    let s := match res with
      | .inl why => s.modWave k (fun w => w.reject (w.served' d lane) (canonOf r.va) why)
      | .inr bs => s.laneDone k lane d r.next (wordsOf (bs.take n))
    s.wakeRemote k
  | .store k lane since a =>
    let s := match res with
      | .inl why => s.modWave k (fun w => w.noteRefused since lane (canonOf a) why)
      | .inr _ => s
    s.wakeRemote k
  | .own k lane since a bytes low =>
    let s := match res with
      | .inl why => s.modWave k (fun w => w.noteRefused since lane (canonOf a) why)
      | .inr bs =>
        let c := s.ctxOfWave k
        let s := (s.installPeer r.vd c r.va r.ifa bs .owned low).fillL1 k r.vd r.ifa true low
        s.storeAt r.vd c r.va ⟨.fab, r.ifa / 64 * 64 + r.va % 64⟩ bytes low
    s.wakeRemote k
  | .flush k =>
    let s := match res with
      | .inl why => s.modWave k (fun w => w.reject w.active (canonOf r.va) why)
      | .inr _ => s
    s.wakeRemote k
  | .card c =>
    match res with
    | .inl _ => s.modCard c.wg c.seq (fun x => { x with code := cardPeer })
    | .inr bs =>
      if r.op = opWru then s.noteProg c else s.modRun c (fun q => { q with got := some (bs.take r.len) })
  | .evict vd ctx =>
    match res with
    | .inl _ => s.pageFault ⟨vd, ctx, 0, 0, .other⟩ r.va false true false
    | .inr _ => s

/-! ## The bounce buffer (R305) -/

/-- Where the bytes of a bounce entry go, once its page is mapped. -/
def State.bounceTo (s : State) (b : Bounce) : Option Loc :=
  match s.ctx? b.vd b.ctx with
  | none => none
  | some c =>
    match s.walk c.format b.va with
    | .leaf base _ frame kind _ _ => (match s.place b.vd c.format base frame kind b.va with
      | .at l => some l
      | _ => none)
    | _ => none

/-- One bounce entry merged into its page: a page on a peer takes it through a write request of its own. -/
def State.mergeEntry (s : State) (b : Bounce) (l : Loc) : State :=
  let n := b.bytes.length
  let put (s : State) (l : Loc) : State := s.writeRaw l (maskBytes b.mask (s.readBytes l n) b.bytes)
  if l.space ≠ .fab then put s l
  else match s.fabPlace b.vd l.addr n 4 with
    | .own m => put s ⟨.dev, m⟩
    | .refused _ => s
    | .peer dev _ _ =>
      let s := s.recallPeerLine b.vd l.addr
      s.request ⟨.evict b.vd b.ctx, 0, 0, n, opWru, attrs n 0 b.mask.toNat 0, b.bytes, l.addr, b.va, b.vd, dev, false⟩

/-- The bounce entries of pages that the pager has mapped are merged into them, oldest first, before any later access. -/
def State.mergeBounced (s : State) : State :=
  s.bounce.foldl (fun s b => match s.bounceTo b with
    | some l => State.mergeEntry { s with bounce := s.bounce.erase b } b l
    | none => s) s

/-- Whether a request is answered by data. -/
def FabReq.wantsData (r : FabReq) : Bool :=
  r.op == opRds || r.op == opRdo || r.op == opRdu || (r.op == opAtm && !r.opnd.getLsbD 64)

/-- Some requests end as refusals. -/
def State.refuseWhere (s : State) (f : FabReq → Bool) (why : Nat) : State :=
  let l := s.reqs.filter f
  let s := { s with reqs := s.reqs.filter (fun r => !f r) }
  l.foldl (fun s r => (if r.sent then s.freeSlots r.vd 1 (replySlots r.op) else s).answered r (.inl why)) s

/-- Every request of a virtual device to a device ends as a refusal. -/
def State.refuseAll (s : State) (vd dev why : Nat) : State := s.refuseWhere (fun r => r.vd == vd && r.dev == dev) why

/-- Requests not yet sent are refused locally where their target is no member any more, or their stream is faulted (R343,
R359). -/
def State.refuseLost (s : State) : State :=
  let is (f : VDev → Nat → Bool) (r : FabReq) : Bool := !r.sent && (match Tab.get? s.vds r.vd with
    | some v => f v r.dev
    | none => false)
  let gone := is (fun v d => !(Tab.getD v.pmap d ⟨false, 0, 0⟩).v)
  let dead := is (fun v d => (v.stream d).fault)
  let s := if s.reqs.any gone then s.refuseWhere gone nackUnreach else s
  if s.reqs.any dead then s.refuseWhere dead nackStream else s

/-! ## Streams that fault (R359) -/

/-- The rotation cards of a virtual device that run, or are parked at their start, and have a device as their neighbour. -/
def State.rotNeighbour (s : State) (vd dev : Nat) : List CardRef :=
  s.wgs.flatMap (fun g => if g.2.vd ≠ vd then [] else (g.2.cards.filter (fun c =>
    c.kind == 0x20 && [CardState.running, .parked].contains c.st &&
      (match s.neighbours vd (RotDesc.of c.bytes).fgrp with
        | some (p, n, _, _) => p.1 == dev || n.1 == dev
        | none => false))).map (fun c => ⟨g.1, c.seq⟩))

/-- Whether a packet that waits at the ports belongs to the stream of a virtual device to a device. -/
def Packet.onStream (p : Packet) (self vd dev : Nat) : Bool :=
  p.sdev.toNat == self && p.svd.toNat == vd && p.tdev.toNat == dev

/-- What waits on a stream is discarded. An INV is asked again once the stream sends, since its directory still waits for it
(R348, R359). -/
def State.dropStream (s : State) (vd dev : Nat) : State :=
  let mine := s.out.filter (fun p => Packet.onStream p s.devid vd dev)
  let again := (mine.filter (fun p => p.op.toNat == opInv)).map (fun p =>
    (⟨vd, dev, p.tvd.toNat, p.tinc.toNat, opInv, 2, p.opnd, p.ifa.toNat, []⟩ : Unsent))
  { s with
    out := s.out.filter (fun p => !Packet.onStream p s.devid vd dev)
    unsent := again ++ s.unsent.filter (fun m => !(m.vd == vd && m.dev == dev && m.op != opInv)) }

/-- A stream faults: what waits on it is discarded, what is outstanding on it is refused, and the owner is interrupted. -/
def State.faultStream (s : State) (vd dev : Nat) : State :=
  match Tab.get? s.vds vd with
  | none => s
  | some v =>
    if (v.stream dev).fault then s
    else
      let s := s.modVd vd (fun v => { v with streams := Tab.put v.streams dev { v.stream dev with fault := true, stallAt := none } })
      ((s.dropStream vd dev).refuseAll vd dev nackStream).irq vd 4 1

/-! ## What arrives (R336, R354, R357, R358) -/

/-- A port's error counter rises, with its counter of dropped flits. -/
def State.portError (s : State) (n : Nat) : State :=
  let x := s.port n
  State.countPort { s with ports := Tab.put s.ports n { x with err := x.err + 1 } } n 0x83 1

/-- A flit that its receiver drops and counts (R336, R337, R338). -/
def Packet.reserved (p : Packet) : Bool :=
  p.cls == 7 || p.oclass == 5 || p.oclass == 7 || p.ndata == 3 || p.op == 15

/-- An endpoint that answers requests: READY or RUNNING, not retired, of the incarnation asked (R345). -/
def VDev.answers (v : VDev) (inc : BitVec 16) : Bool :=
  (v.st == .ready || v.st == .running) && !v.retired && v.inc == inc

/-- Whether a packet's EPOCH says that it was sent under the newest key: its source has taken that key up, or flips EPOCH with
this packet (R358). -/
def VDev.newEpoch (v : VDev) (p : Packet) : Bool :=
  let st := v.stream p.sdev.toNat
  if st.rgen = v.gen then p.epoch == st.rx else p.epoch != st.rx

/-- The first packet of a new epoch starts the time in which both epochs are accepted. -/
def VDev.noteEpoch (v : VDev) (p : Packet) (clock : Nat) : VDev :=
  let st := v.stream p.sdev.toNat
  if v.fkeyn ≠ 0 ∧ v.newEpoch p = true ∧ st.oldTill = none then
    let st := { st with rx := p.epoch, rgen := v.gen, oldTill := some (clock + 1300000) }
    { v with streams := Tab.put v.streams p.sdev.toNat st }
  else v

/-- Whether a packet's tag is right under a key that is still in force; a dropped old key is none (`oldTill = 0`). -/
def State.tagOk (s : State) (v : VDev) (p : Packet) : Bool :=
  let gone := !v.newEpoch p && (v.stream p.sdev.toNat).oldTill == some 0
  !gone && p.tag == Packet.mac p (s.fabKey v (v.newEpoch p))

/-- An answer to a request. Where the target endpoint has no stream to answer on, the device answers under the VCC's key
(key-table entry 0). -/
def State.reply (s : State) (p : Packet) (op cls : Nat) (opnd : BitVec 192) (data : List Byte) : State :=
  match Tab.get? s.vds p.tvd.toNat with
  | some _ =>
    s.sendOrWait ⟨p.tvd.toNat, p.sdev.toNat, p.svd.toNat, p.sinc.toNat, op, cls, opnd, p.ifa.toNat, data⟩
  | none =>
    let q : Packet := ⟨BitVec.ofNat 3 cls, BitVec.ofNat 3 cls, false, BitVec.ofNat 4 op, opnd, false, 0, BitVec.ofNat 8 s.devid,
      p.sdev, p.tvd, p.svd, p.tinc, p.sinc, 0, p.ifa, 0, []⟩
    { s with out := s.out ++ [{ q with tag := Packet.mac q (Tab.getD s.keys 0 0) }] }

/-- A refusal. -/
def State.nack (s : State) (p : Packet) (why : Nat) : State := s.reply p opNack 1 (BitVec.ofNat 192 why) []

/-- The requests of a virtual device that wait at its lines' directory. -/
def State.waitingAt (s : State) (vd : Nat) : List Packet :=
  s.dir.flatMap (fun e => ((e.2.pending.map Prod.fst).toList ++ e.2.waiting).filter (fun p => p.op != 15 && p.tvd.toNat == vd))

/-- Their flits. -/
def State.waitingFlits (s : State) (vd : Nat) : Nat := (s.waitingAt vd).foldl (fun n p => n + Packet.flits p) 0

/-- Those of one source device. -/
def State.waitingFrom (s : State) (vd src : Nat) : Nat :=
  ((s.waitingAt vd).filter (fun p => p.sdev.toNat == src)).foldl (fun n p => n + Packet.flits p) 0

/-- The slots of a class that each source device of the partition is handed: an equal part, and at least one (R340). -/
def VDev.part (v : VDev) (self cls : Nat) : Nat :=
  Nat.max 1 (v.reserved cls / Nat.max 1 (v.pmap.filter (fun m => m.2.v && m.1 != self)).length)

/-- The flits of a packet that its source sends beyond its part: those it sends against what the pool granted it. -/
def State.beyond (s : State) (v : VDev) (p : Packet) (cls : Nat) : Nat :=
  let held := if cls = 0 then s.waitingFrom p.tvd.toNat p.sdev.toNat else 0
  held + Packet.flits p - Nat.max held (v.part s.devid cls)

/-- A packet taken in uses up what the pool granted its source; its slots return to the pool when they drain. -/
def State.useGrant (s : State) (v : VDev) (p : Packet) (cls : Nat) : State :=
  let k := (p.sdev.toNat * 512 + p.tvd.toNat) * 8 + cls
  { s with allow := Tab.set 0 s.allow k (Tab.getD s.allow k 0 - s.beyond v p cls) }

/-- The pool slots that waiting requests take beyond their reservations. -/
def State.waitingPool (s : State) : Nat :=
  (s.vds.map (fun e => s.waitingFlits e.1 - e.2.reserved 0)).foldl (· + ·) 0

/-- Whether the receive buffer takes a packet: into a reserved slot, against the pool slots granted to its source, or into a
pool slot (R340). A request takes its slots until it is performed. -/
def State.roomFor (s : State) (p : Packet) (cls : Nat) : Bool :=
  match Tab.get? s.vds p.tvd.toNat with
  | none => false
  | some v =>
    let vd := p.tvd.toNat
    let held := Tab.getD s.slots (vd * 8 + cls) 0 + (if cls = 0 then s.waitingFlits vd else 0)
    let n := Packet.flits p
    let more := s.beyond v p cls
    decide (held + n ≤ v.reserved cls) || (more != 0 && decide (more ≤ Tab.getD s.allow ((p.sdev.toNat * 512 + vd) * 8 + cls) 0)) ||
      decide (held + n - Nat.max held (v.reserved cls) + s.waitingPool ≤ s.poolFree)

/-- A request, an INV or a rotation packet arrives at its target: the endpoint, the tag and the partition are checked, and
the packet waits at its sender while no slot is free. -/
def State.arrive (s : State) (p : Packet) (cls : Nat) (gone : State → State) (f : VDev → State → State) : State :=
  if p.tdev.toNat ≠ s.devid ∨ Packet.reserved p = true then s
  else
    match Tab.get? s.vds p.tvd.toNat with
    | none => gone (s.countFlits p)
    | some v =>
      if !s.roomFor p cls then s
      else
        let s := (s.useGrant v p cls).countFlits p
        if !v.answers p.tinc then gone s
        else if !s.tagOk v p then s.faultStream p.tvd.toNat p.sdev.toNat
        else
          let s := s.modVd p.tvd.toNat (fun v => v.noteEpoch p s.clock)
          f v s

/-- A response arrives: one for another incarnation, or at a retired endpoint, is dropped (R354). -/
def State.arriveBack (s : State) (p : Packet) (f : State → State) : State :=
  if p.tdev.toNat ≠ s.devid ∨ Packet.reserved p = true then s
  else
    let s := s.countFlits p
    match Tab.get? s.vds p.tvd.toNat with
    | none => s
    | some v =>
      if v.retired || v.inc != p.tinc then s
      else if !s.tagOk v p then s.faultStream p.tvd.toNat p.sdev.toNat
      else f (s.modVd p.tvd.toNat (fun v => v.noteEpoch p s.clock))

/-! ## Requests at their home (R345, R347, R348) -/

/-- The bytes that a request accesses. -/
def Packet.size (p : Packet) : Nat :=
  let op := p.op.toNat
  if op ≤ opWb then 64 else if op = opSig then 8 else (slice p.opnd 8 8).toNat

/-- Whether a request writes. -/
def Packet.writes (p : Packet) : Bool := [opRdo, opWb, opWru, opAtm, opSig].contains p.op.toNat

/-- The bytes of a line that a WB writes: all of them, or those of its byte mask. -/
def Packet.wbMask (p : Packet) : BitVec 64 := slice p.opnd 64 64

/-- A sharer added: beyond eight the tenant is recorded. -/
def DirEntry.share (e : DirEntry) (x : Nat × Nat) (vd : Nat) : DirEntry :=
  if e.sharers.contains x || e.tenant.isSome then e
  else if e.sharers.length < 8 then { e with sharers := e.sharers ++ [x] }
  else { e with sharers := [], tenant := some vd }

/-- A request that passed its checks, performed at its home, with its answer. -/
def State.serve (s : State) (p : Packet) (ma : Nat) : State :=
  let vd := p.tvd.toNat
  let l : Loc := ⟨.dev, ma⟩
  let who := (p.sdev.toNat, p.svd.toNat)
  let n := Packet.size p
  let data (s : State) (bs : List Byte) : State := s.reply p opData 1 0 bs
  let ack (s : State) : State := s.reply p opAck 1 0 []
  let e := s.dirAt (ma / 64)
  match p.op.toNat with
  | 0 =>
    let s := s.loadAt vd 0 0 l 64 false
    let e := if e.owner = some who then { e with owner := none } else e
    data (s.setDir (ma / 64) (e.share who vd)) (s.readBytes l 64)
  | 1 =>
    let s := s.loadAt vd 0 0 l 64 false
    data (s.setDir (ma / 64) { e with owner := some who, sharers := [], tenant := none }) (s.readBytes l 64)
  | 2 =>
    let s := s.storeAt vd 0 0 l (maskLine (Packet.wbMask p) (s.readBytes l 64) (p.data.take 64)) false
    ack (if e.owner = some who then s.setDir (ma / 64) ({ e with owner := none }.share who vd) else s)
  | 3 => data (s.loadAt vd 0 0 l n false) (s.readBytes l n)
  | 4 =>
    let k : Byte := slice p.opnd 24 8
    ack (s.storeAt vd 0 0 l (maskBytes (if k = 0 then 0xFF else k) (s.readBytes l n) (p.data.take n)) false)
  | 5 =>
    let x := s.rmw ⟨vd, 0, 0, 0, .other⟩ 0 l n (slice p.opnd 24 8).toNat (slice p.opnd 16 8).toNat p.data
    if p.opnd.getLsbD 64 then ack x.2 else data x.2 x.1
  | _ => ack (s.rmw ⟨vd, 0, 0, 0, .other⟩ 0 l 8 0 0 (p.data.take 8)).2

/-- A request whose endpoint and partition are right: the window, the frame's owner, the directory, its effect. -/
def State.handle (s : State) (p : Packet) : State :=
  let op := p.op.toNat
  let n := Packet.size p
  match s.window p.tvd.toNat p.ifa.toNat n (windowNeed op (!p.opnd.getLsbD 64)) with
  | .inl why => s.nack p why
  | .inr ma =>
    let lines := (linesOf ma n).map (· / 64)
    let who := (p.sdev.toNat, p.svd.toNat)
    if op = opWb ∧ ((s.dirAt (ma / 64)).owner = some who ∨ (s.dirAt (ma / 64)).pending.isSome = true) then s.serve p ma
    else match lines.find? (fun x => (s.dirAt x).pending.isSome) with
      | some x => s.setDir x { s.dirAt x with waiting := (s.dirAt x).waiting ++ [p] }
      | none =>
        let but := if op ≤ opWb then p.sdev.toNat else 256
        match lines.findSome? (fun x => s.recallLine x (Packet.writes p) but p) with
        | some t => t
        | none => s.serve p ma

/-- A packet whose class is not that of its operation has no effect; in the rotation class an operation that is none of its own is
dropped and counted (R421). -/
def State.wrongClass (s : State) (p : Packet) (foreign : Bool) : State :=
  if p.oclass = 4 ∧ p.tdev.toNat = s.devid ∧ foreign = true then s.portError ((s.fresh 250).toNat % 16) else s

/-- A request arrives. -/
def State.requested (s : State) (op : Nat) (p : Packet) : Res :=
  if p.op.toNat ≠ op ∨ p.oclass ≠ 0 then .next (s.wrongClass p (op != opWru))
  else .next (s.arrive p 0 (fun s => s.nack p nackGone) (fun v s =>
    let m := Tab.getD v.pmap p.sdev.toNat ⟨false, 0, 0⟩
    if m.v && m.pvd == p.svd then s.handle p else s.nack p nackUnreach))

/-- RDS arrives. -/
def execRds (p : Packet) (s : State) : Res := s.requested opRds p
/-- RDO arrives. -/
def execRdo (p : Packet) (s : State) : Res := s.requested opRdo p
/-- WB arrives. -/
def execWb (p : Packet) (s : State) : Res := s.requested opWb p
/-- RDU arrives. -/
def execRdu (p : Packet) (s : State) : Res := s.requested opRdu p
/-- WRU arrives. -/
def execWru (p : Packet) (s : State) : Res := s.requested opWru p
/-- ATM arrives. -/
def execAtm (p : Packet) (s : State) : Res := s.requested opAtm p
/-- SIG arrives. -/
def execSig (p : Packet) (s : State) : Res := s.requested opSig p

/-! ## Invalidation (R348) -/

/-- An INV answered once no write-back of its line is on its way (R348); until then it waits. -/
def State.yieldLine (s : State) (p : Packet) : State :=
  if s.reqs.any (fun r => r.op == opWb && r.vd == p.tvd.toNat && r.ifa / 64 == p.ifa.toNat / 64) then
    { s with iacks := s.iacks ++ [p] }
  else s.reply p opIack 1 0 []

/-- The INVs whose write-back has been acknowledged are answered. -/
def State.sendIacks (s : State) : State := s.iacks.foldl State.yieldLine { s with iacks := [] }

/-- INV arrives at a holder: a dirty copy is written back, and IACK follows once it has been. -/
def execInv (p : Packet) (s : State) : Res :=
  if p.op.toNat ≠ opInv ∨ p.oclass ≠ 2 then .next (s.wrongClass p true)
  else .next (s.arrive p 2 (fun s => s) (fun _ s => (s.recallPeerLine p.tvd.toNat p.ifa.toNat).yieldLine p))

/-- The requests that waited for a line go on once no IACK is awaited. -/
def State.resumeLine (s : State) (line : Nat) : State :=
  let e := s.dirAt line
  match e.pending with
  | none => s
  | some (p, _) =>
    let wr := if p.op = 15 then p.ifa == 1 else Packet.writes p
    let s := s.setDir line { e with pending := none, waiting := [], tenant := if wr then none else e.tenant }
    let s := if p.op = 15 then s.wakeAll else s.handle p
    e.waiting.foldl State.handle s

/-- A device has given a line up. -/
def State.yielded (s : State) (line dev : Nat) (all : Bool) : State :=
  let e := s.dirAt line
  match e.pending with
  | none => s
  | some (p, l) =>
    let l := if all then l.filter (· != dev) else l.erase dev
    let e := if l.contains dev then e else { e with
      owner := e.owner.filter (fun x => x.1 != dev)
      sharers := e.sharers.filter (fun x => x.1 != dev) }
    let s := s.setDir line { e with pending := some (p, l) }
    if l.isEmpty then s.resumeLine line else s

/-- IACK arrives at the directory. -/
def execIack (p : Packet) (s : State) : Res :=
  if p.op.toNat ≠ opIack ∨ p.oclass ≠ 1 then .next (s.wrongClass p true)
  else .next (s.arriveBack p (fun s =>
    match s.window p.tvd.toNat p.ifa.toNat 1 0 with
    | .inr ma => s.yielded (ma / 64) p.sdev.toNat false
    | .inl _ => s))

/-! ## Responses (R346, R354) -/

/-- The oldest request that a response answers; its reply slots are free again. -/
def State.answer' (s : State) (p : Packet) (fits : FabReq → Bool) (res : Nat ⊕ List Byte) : State :=
  match s.reqs.find? (fun r => r.sent && r.vd == p.tvd.toNat && r.dev == p.sdev.toNat && r.ifa == p.ifa.toNat && fits r) with
  | none => s
  | some r =>
    let s := State.freeSlots { s with reqs := s.reqs.erase r } r.vd 1 (replySlots r.op)
    (s.answered r res).pump

/-- DATA arrives. -/
def execData (p : Packet) (s : State) : Res :=
  if p.op.toNat ≠ opData ∨ p.oclass ≠ 1 then .next (s.wrongClass p true)
  else .next (s.arriveBack p (fun s => s.answer' p FabReq.wantsData (.inr p.data)))

/-- ACK arrives. -/
def execAck (p : Packet) (s : State) : Res :=
  if p.op.toNat ≠ opAck ∨ p.oclass ≠ 1 then .next s
  else .next (s.arriveBack p (fun s => s.answer' p (fun r => !r.wantsData) (.inr [])))

/-- NACK arrives: what waits is refused with its reason. -/
def execNack (p : Packet) (s : State) : Res :=
  if p.op.toNat ≠ opNack ∨ p.oclass ≠ 1 then .next s
  else .next (s.arriveBack p (fun s => s.answer' p (fun _ => true) (.inl (slice p.opnd 0 8).toNat)))

/-! ## Ports, relays, links and allowances (R333 to R341) -/

/-- A dwell begins at a port: nothing of it is used yet; its latency unit samples the level of the receive buffer. -/
def execDwellStart (n : Nat) (s : State) : Res :=
  if n ≥ 16 then .next s
  else
    let x := s.port n
    let s := { s with ports := Tab.put s.ports n { x with
      dwell := x.dwell + 1, sent := 0, since := s.clock, mgmt := 0, rot := 0, cons := 0 } }
    .next (s.sample (162 + n) 0 2 ((s.slots.map Prod.snd).foldl (· + ·) 0) 0)

/-- A flit with a reserved class, OP or count is dropped and counted (R336, R337, R338, R421). -/
def execFlitDrop (n : Nat) (p : Packet) (s : State) : Res :=
  let rot := (p.cls == 4 || p.oclass == 4) && !([opWru, opAck, opNack].contains p.op.toNat)
  if n < 16 ∧ (Packet.reserved p = true ∨ rot = true) then .next (s.portError n) else .next s

/-- The halo slots that packets of a virtual device hold, rotations apart. -/
def State.haloUsed (s : State) (vd : Nat) : Nat :=
  (s.halo.filter (fun q => s.localVd q == vd && q.oclass != 4)).foldl (fun n q => n + Packet.flits q) 0

/-- The relay slots of a virtual device in the halo buffer. -/
def State.haloReserved (s : State) (vd : Nat) : Nat :=
  match Tab.get? s.vds vd with
  | some v => if v.st = .free then 0 else v.reserved 5
  | none => 0

/-- The halo slots of the shared pool that are free: those that no reservation and no flit above its reservation takes
(R339). -/
def State.haloFree (s : State) : Nat :=
  131072 - (s.vds.map (fun e => s.haloReserved e.1)).foldl (· + ·) 0 - s.fgs.foldl (fun n e => n + e.2.halo) 0 -
    ((s.halo.map s.localVd).eraseDups.map (fun d => s.haloUsed d - s.haloReserved d)).foldl (· + ·) 0

/-- Whether the halo buffer takes a packet: in the relay slots of the virtual device of this device to whose partition it belongs,
or the pool's; a rotation packet in the slots of its fabric group (R335, R339, R429). -/
def State.haloRoom (s : State) (p : Packet) : Bool :=
  let n := Packet.flits p
  let vd := s.localVd p
  if p.oclass = 4 then
    let mine := s.halo.filter (fun q => q.oclass == 4 && s.rotKey q == s.rotKey p)
    match Tab.get? s.fgs (s.rotKey p) with
    | some f => decide (mine.foldl (fun n q => n + Packet.flits q) 0 + n ≤ f.halo)
    | none => false
  else
    let used := s.haloUsed vd
    let mine := s.haloReserved vd
    decide (used + n ≤ mine) || decide (used + n - Nat.max used mine ≤ s.haloFree)

/-- A packet on its first hop arrives at its intermediate, which holds it in the halo buffer as it came until a port sends it on
in its original class. -/
def execRelayHop (p : Packet) (s : State) : Res :=
  if p.tdev.toNat = s.devid ∨ p.hop = false ∨ Packet.reserved p = true ∨ s.haloRoom p = false then .next s
  else .next (State.countFlits { s with halo := s.halo ++ [p] } p)

/-- A port replays flits that await link acknowledgement, from its replay buffers alone. -/
def execLinkReplay (n flits : Nat) (s : State) : Res :=
  if n ≥ 16 then .next s
  else
    let x := s.port n
    .next (State.countPort { s with ports := Tab.put s.ports n { x with replay := flits } } n 0x82 1)

/-- A source device asks for pool allowances: a batch of 16, where the pool has it. A request from a source that has one
already returns what has drained. -/
def execAllowanceRequest (src vd cls : Nat) (s : State) : Res :=
  let k := (src * 512 + vd) * 8 + cls
  let old := Tab.getD s.allow k 0
  if cls ≥ 7 then .next s
  else if old = 0 then
    if s.poolFree ≥ 16 then .next { s with allow := Tab.set 0 s.allow k 16 } else .next s
  else .next { s with allow := Tab.set 0 s.allow k 0 }

/-- The host takes a line of its memory back: a dirty copy is written to it first, and no copy stays (R247). -/
def execHostCoherenceRecall (line : Nat) (s : State) : Res :=
  let k := lineKey .host (line * 64)
  .next ((s.writeBack k true).dropL1 k)

/-- An LLC die's latency unit samples the level of a home slice's queue (R497). -/
def execQueueLevelSample (die level : Nat) (s : State) : Res :=
  if die < 2 then
    match Tab.get? s.lcus (160 + die) with
    | some u => .next (s.sample (160 + die) u.owner 2 level 0)
    | none => .next s
  else .next s

end Sys2Proof.Machine
end

