-- ==== Sys2Proof/Machine/Consensus.lean ====
section
/-! DEFINITION. Consensus.lean: collective branches: groups, votes, rounds, the reduction over the pod, and speculation with
its commit and rollback (R360 to R384). -/

namespace Sys2Proof.Machine

open Sys2Proof

/-! ## Rounds (R360, R369, R370) -/

/-- The round after a round: 0 never names one. -/
def nextRound (r : BitVec 16) : BitVec 16 := if r = 0xFFFF then 1 else r + 1

/-- A group changed. -/
def State.modCg (s : State) (n : Nat) (f : CGroup → CGroup) : State := { s with cgs := Tab.modify s.cgs n f }

/-- Whether a vote is that of a wave for its round. -/
def Wave.cast (w : Wave) (b : Ballot) : Bool :=
  w.sent && w.round == b.vote.round && (match w.member with
    | some m => m.grp == b.grp && m.pos == b.pos
    | none => false)

/-- What a result is worth to a waiting vote: none while its round is open or its vote is not counted. -/
def State.roundResult (s : State) (w : Wave) : Option Nat :=
  match w.member with
  | none => some 2
  | some m =>
    match Tab.get? s.cgs m.grp with
    | none => some 2
    | some c =>
      if (c.st != .idle && c.round == w.round) || s.ballots.any w.cast then none
      else some (match Tab.get? c.results w.round.toNat with
        | some x => x.1
        | none => 2)

/-- The record of a destroyed group goes with its last result, once no vote is on its way to it (R384). -/
def State.dropSpent (s : State) (n : Nat) : State :=
  match Tab.get? s.cgs n with
  | some c =>
    if c.deleted && c.results.all (fun e => e.2.2 == 0) && !s.ballots.any (fun b => b.grp == n) then
      { s with cgs := Tab.del s.cgs n }
    else s
  | none => s

/-- A wave consumes a result (R370); a member of a destroyed group is a member no longer (R384). -/
def State.consume (s : State) (k res : Nat) : State :=
  match Tab.get? s.waves k with
  | none => s
  | some w =>
    let w1 := { w with last := if res = 3 then 2 else BitVec.ofNat 2 res, sm := res == 3, sent := false }
    match w.member with
    | none => s.setWave k w1
    | some m =>
      match Tab.get? s.cgs m.grp with
      | none => s.setWave k { w1 with member := none }
      | some c =>
        let s := (s.setWave k (if c.deleted then { w1 with member := none } else w1)).modCg m.grp (fun c => c.consumed w.round)
        s.dropSpent m.grp

/-! ## The end of a speculation (R379, R380) -/

/-- The wave as its checkpoint holds it, every thread at one PC. -/
def Wave.rollback (w : Wave) (sp : Spec) (pc : BitVec 64) : Wave :=
  let w := { w with
    v := sp.v, s := sp.s, p := sp.p, dscope := sp.dscope, flags := sp.flags, seed := sp.seed
    latches := w.latches.mapIdx (fun i (b : Latch) => { b with valid := false, tag := (sp.tags[i]?).getD none })
    parked := 0, held := 0, waiting := 0, reason := [], parkArg := [], group := [], pend := [], gather := 0
    arrived := false, fairCnt := 0, rover := 0, chain := 0, pick := none, spec := none, busy := .no, ahead := []
    inbuf := [], rejected := [] }
  w.goto w.alive pc

/-- ROLLBACK: the checkpoint restored, the held stores and the loads of the path dropped, the automatic guard FALSE, a deferred
trap gone. Stores posted before the CBR are none of the path's. -/
def State.rollback (s : State) (k : Nat) (toCbr : Bool) : State :=
  match Tab.get? s.waves k with
  | none => s
  | some w =>
    match w.spec with
    | none => s
    | some sp =>
      let s := s.dropReqs (fun r => match r.who with | .load x _ _ _ _ _ => x == k | _ => false)
      let pc := if toCbr then sp.pc else if sp.taken then sp.fall else sp.target
      let s := (s.setWave k (w.rollback sp pc)).endRun k
      match sp.guard with
      | some n => s.resolveGuard w.wg n false
      | none => s

/-- One held store record performed. -/
def State.performHeld (s : State) (g : Workgroup) (h : HeldStore) : State :=
  if h.space = 0 then
    let s := { s with scratch := cellsSet s.scratch h.addr h.bytes }
    if h.setFe then s.setFe (h.addr / 16) true else s
  else s.storeAt g.vd g.ctx h.va ⟨if h.space = 1 then .dev else .host, h.addr⟩ h.bytes false

/-- The places in device memory of the held records. -/
def Spec.places (sp : Spec) : List (Loc × Nat) :=
  sp.stores.filterMap (fun h => if h.space = 1 then some (⟨.dev, h.addr⟩, h.bytes.length) else none)

/-- COMMIT: the held stores performed in order, then the guard TRUE; the stalled instruction executes or the deferred trap
is taken. A failed card is reported to a wave that parked at a barrier meanwhile (R306). While a peer holds a line of the stores,
the commit waits for it; the wave issues nothing meanwhile. -/
def State.commit (s : State) (k : Nat) : State :=
  match Tab.get? s.waves k with
  | none => s
  | some w =>
    match w.spec, s.wgOf w with
    | some sp, some g =>
      match s.recallPlaces true sp.places with
      | some t => t
      | none =>
        let s := sp.stores.foldl (fun s h => s.performHeld g h) s
        let s := match sp.guard with
          | some n => s.resolveGuard w.wg n true
          | none => s
        let b := if w.busy = .spec then Busy.no else w.busy
        let s := s.modWave k (fun w => { w with spec := none, busy := b })
        let s := s.consume k (if sp.taken then 1 else 0)
        State.jobfailParked (match sp.trap with
          | some t => s.takeTrap k t
          | none => s) w.wg
    | _, _ => s

/-- The trap of an abandoned round or of a site mismatch, at an instruction. -/
def lostTrap (w : Wave) (res : Nat) (pc : BitVec 64) : TrapRec :=
  mkTrap (if res = 3 then .conssite else .conslost) w.alive pc

/-- SPEC_COMMIT: the round matches the prediction. -/
def execSpecCommit (k : Nat) (s : State) : Res :=
  match Tab.get? s.waves k with
  | none => .next s
  | some w =>
    match w.spec, s.roundResult w with
    | some sp, some r => if w.sent && r == (if sp.taken then 1 else 0) then .next (s.commit k) else .next s
    | _, _ => .next s

/-- SPEC_ROLLBACK: the round differs from the prediction, or gave no value. -/
def execSpecRollback (k : Nat) (s : State) : Res :=
  match Tab.get? s.waves k with
  | none => .next s
  | some w =>
    match w.spec, s.roundResult w with
    | some sp, some r =>
      if !w.sent || r == (if sp.taken then 1 else 0) then .next s
      else
        let s := (s.rollback k (decide (r ≥ 2))).consume k r
        .next (if r ≥ 2 then s.takeTrap k (lostTrap w r sp.pc) else s)
    | _, _ => .next s

/-- What CBRW does with a result. -/
def State.actOn (s : State) (k : Nat) (pc target fall : BitVec 64) (res : Nat) : State :=
  let s := s.consume k res
  match Tab.get? s.waves k with
  | none => s
  | some w =>
    let w := { w with busy := .no, waiting := 0 }
    if res ≥ 2 then (s.setWave k w).takeTrap k (lostTrap w res pc)
    else s.setWave k (w.goto w.alive (if res = 1 then target else fall))

/-- The wave leaves its group (R367). -/
def State.leave (s : State) (k : Nat) : State :=
  match Tab.get? s.waves k with
  | none => s
  | some w =>
    match w.member with
    | none => s
    | some m =>
      (s.setWave k { w with member := none }).modCg m.grp (fun c => { c with joined := c.joined.erase m.pos })

/-- What CSYNC reads of a result. -/
def syncValue (w : Wave) (res : Option Nat) : Nat :=
  match res with
  | some 3 => 4
  | some x => x
  | none => if w.member.isNone then 3 else if w.sm then 4 else w.last.toNat

/-- CBRW_RESOLVE: a wave that waits for a round acts on it: CBRW, CSYNC or CLEAVE. -/
def execCbrwResolve (k : Nat) (s : State) : Res :=
  match Tab.get? s.waves k with
  | none => .next s
  | some w =>
    match w.busy, s.roundResult w with
    | .round (.branch pc t f), some r => .next (s.actOn k pc t f r)
    | .round (.sync sd lanes nx), some r =>
      let w1 := match sd with
        | some n => w.setS n (BitVec.ofNat 32 (syncValue w (some r)))
        | none => w
      .next (s.setWave k ({ w1 with busy := .no }.goto lanes nx))
    | .round (.leave lanes nx), some r =>
      let s := (s.consume k r).leave k
      .next (s.modWave k (fun x => { x with busy := .no }.goto lanes nx))
    | _, _ => .next s

/-! ## Flits (R363) -/

/-- The authenticated bits of a flit. -/
def CFlit.bits (f : CFlit) : BitVec 96 :=
  f.sdev ++ f.svd ++ f.sinc ++ f.grp ++ f.round ++ f.site ++ BitVec.ofBool f.mode ++ f.val ++ f.kind ++ f.phase ++ f.step ++
    f.zero

/-- The MAC of a flit under a key. -/
def CFlit.tag (f : CFlit) (key : BitVec 256) : BitVec 32 := slice (Config.gmac key 0 (leBytes (CFlit.bits f).toNat 12)) 96 32

/-- The port that a phase's schedule names at a step, where it is up; the lowest that is up else. -/
def State.slotPort (s : State) (c : CGroup) (phase step : Nat) : Nat :=
  let n := ((c.sched.find? (fun x => x.phase == phase && x.step == step)).map SchedStep.port).getD (phase % 16)
  if (s.port n).up then n else ((List.range 16).find? (fun m => (s.port m).up)).getD n

/-- A flit of this device for a group: it waits for the consensus slot of its port (R333). -/
def State.sendFlit (s : State) (n : Nat) (kind val : Nat) (phase step : Nat) : State :=
  match Tab.get? s.cgs n with
  | none => s
  | some c =>
    match Tab.get? s.vds c.owner with
    | none => s
    | some v =>
      let f : CFlit := ⟨0, BitVec.ofNat 8 s.devid, BitVec.ofNat 9 c.owner, v.inc, BitVec.ofNat 6 n, c.round, c.site, c.mode,
        BitVec.ofNat 2 val, BitVec.ofNat 2 kind, BitVec.ofNat 8 phase, BitVec.ofNat 4 step, 0⟩
      { s with cwait := s.cwait ++ [(s.slotPort c phase step, { f with mac := CFlit.tag f (s.fabKey v true) })] }

/-- Whether a flit is accepted: its MAC under either key, its source's incarnation, its STEP and its zero bits. -/
def State.flitOk (s : State) (f : CFlit) : Bool :=
  match Tab.get? s.cgs f.grp.toNat with
  | none => false
  | some c =>
    match Tab.get? s.vds c.owner with
    | none => false
    | some v =>
      let e := Tab.getD v.pmap f.sdev.toNat ⟨false, 0, 0⟩
      (f.mac == CFlit.tag f (s.fabKey v true) || f.mac == CFlit.tag f (s.fabKey v false)) && e.v && e.pvd == f.svd &&
        e.inc == f.sinc && decide (f.step.toNat ≤ 10) && f.zero == 0

/-- The other member devices of a group. -/
def State.others (s : State) (c : CGroup) : List Nat := c.devices.filter (· != s.devid)

/-! ## The reduction (R362, R369) -/

/-- The children and the parent of this device in a group's schedule. -/
def CGroup.children (c : CGroup) : List Nat := ((c.sched.filter (fun x => !x.up)).map (fun x => x.peer)).eraseDups
/-- The parent, which the root has not. -/
def CGroup.parent (c : CGroup) : Option Nat := (c.sched.find? (fun x => x.up)).map (fun x => x.peer)

/-- A value combined in a round's mode. -/
def combineVotes (all : Bool) (l : List Bool) : Bool := if all then l.all (fun x => x) else l.any (fun x => x)

/-- The step of a schedule that names a peer, in a phase. -/
def CGroup.stepOf (c : CGroup) (phase peer : Nat) (up : Bool) : Nat :=
  ((c.sched.find? (fun x => x.up == up && x.peer == peer && x.phase == phase)).map (fun x => x.step)).getD 0

/-- One flit to each of some devices, at the step that a phase's schedule has for it: flits name no target, so each is one more
flit of the port. -/
def State.sendFlits (s : State) (n kind val phase : Nat) (ds : List Nat) : State :=
  match Tab.get? s.cgs n with
  | none => s
  | some c => ds.foldl (fun s d => s.sendFlit n kind val phase (c.stepOf phase d false)) s

/-- The phase whose schedule a round has entered, or the current one. -/
def State.phaseOf (s : State) (c : CGroup) : Nat :=
  match c.step with
  | some (p, _) => p
  | none => s.phase

/-- A round resolves: the result is kept for the local votes that were counted, but for those that waves left. -/
def State.resolveRound (s : State) (n res : Nat) : State :=
  s.modCg n (fun c =>
    let old := c.results.filter (fun e => e.2.2 != 0)
    { c with
      st := .idle, results := Tab.put old c.round.toNat (res, (c.votes.filter (fun e => !c.left.contains (e.1, c.round))).length)
      votes := [], expected := [], upgot := [], kept := c.kept.filter (fun f => f.round != c.round), step := none
      left := c.left.filter (fun p => p.2 != c.round || (Tab.get? c.votes p.1).isNone) })

/-- A result sent down to some devices, and the round resolved with it. -/
def State.resolveDown (s : State) (n res phase : Nat) (ds : List Nat) : State :=
  (s.sendFlits n 1 res phase ds).resolveRound n res

/-- A site mismatch or an abandoned round, told to every other member device. -/
def State.resolveAll (s : State) (n res : Nat) : State :=
  match Tab.get? s.cgs n with
  | none => s
  | some c => s.resolveDown n res (s.phaseOf c) (s.others c)

/-- The group is LOST: an open round is abandoned, and every other member device is told: `tell` sends it KIND 3, whether a round
is open or not; else an open round sends it VAL 2 (R369, R383). -/
def State.loseGroup (s : State) (n : Nat) (tell : Bool) : State :=
  match Tab.get? s.cgs n with
  | none => s
  | some c =>
    if c.lost then s
    else
      let s := s.modCg n (fun c => { c with lost := true })
      let s := if tell then s.sendFlits n 3 2 (s.phaseOf c) (s.others c) else s
      if c.st = .idle then s else if tell then s.resolveRound n 2 else s.resolveAll n 2

/-- The kept flits of a round that has its local value: those sent up are combined later; one sent down resolves it. -/
def State.useKept (s : State) (n : Nat) : State :=
  match Tab.get? s.cgs n with
  | none => s
  | some c =>
    if c.st != .reduce then s
    else
      let mine := c.kept.filter (fun f => f.round == c.round)
      match mine.find? (fun f => f.kind == 1) with
      | some f => s.resolveDown n f.val.toNat f.phase.toNat c.children
      | none => s.modCg n (fun c => { c with
          kept := c.kept.filter (fun f => f.round != c.round)
          upgot := c.upgot ++ (mine.filter (fun f => f.kind == 0)).map (fun f => (f.sdev.toNat, f.val == 1)) })

/-- The local collection ends once every expected vote is counted: a single-device group resolves at once. -/
def State.collected (s : State) (n : Nat) : State :=
  match Tab.get? s.cgs n with
  | none => s
  | some c =>
    if c.st != .collect || c.expected.any (fun p => (Tab.get? c.votes p).isNone) then s
    else
      let v := combineVotes c.mode (c.votes.map Prod.snd)
      let s := s.modCg n (fun c => { c with st := .reduce, value := v, step := none })
      if (s.others c).isEmpty then s.resolveRound n (if v then 1 else 0) else s.useKept n

/-- A reconfiguration cuts the round: every value is sent again on the next phase's schedule (R362). -/
def CGroup.restart (c : CGroup) : CGroup := if c.st = .reduce then { c with step := none, upgot := [] } else c

/-- A flit of an open round. One that goes up or down is compared with the recorded site tag and mode first; one that agrees is
kept while the round collects (R369). -/
def State.flitIn (s : State) (n : Nat) (f : CFlit) : State :=
  match Tab.get? s.cgs n with
  | none => s
  | some c =>
    if f.kind == 2 then s.modCg n CGroup.restart
    else if f.site != c.site || f.mode != c.mode then s.resolveAll n 3
    else if c.st = .collect then s.modCg n (fun c => { c with kept := c.kept ++ [f] })
    else if f.kind == 1 then s.resolveDown n f.val.toNat f.phase.toNat c.children
    else s.modCg n (fun c => { c with upgot := c.upgot.filter (fun e => e.1 != f.sdev.toNat) ++ [(f.sdev.toNat, f.val == 1)] })

/-- A round opens with a site tag and a mode: its votes are those of the positions joined now. -/
def State.openRound (s : State) (n : Nat) (site : BitVec 16) (mode : Bool) : State :=
  match Tab.get? s.cgs n with
  | none => s
  | some c =>
    let r := nextRound c.round
    let held := c.kept.filter (fun f => f.round == r)
    let s := s.modCg n (fun c => { c with
      round := r, st := .collect, site := site, mode := mode, expected := c.joined, votes := [], value := false, upgot := []
      kept := c.kept.filter (fun f => f.round != r), openAt := s.clock, step := none })
    let s := held.foldl (fun s f => match Tab.get? s.cgs n with
      | some c => if c.st = .idle then s else s.flitIn n f
      | none => s) s
    s.collected n

/-! ## Votes (R368, R369, R384) -/

/-- A vote for a round that is over, or in a group that is lost: it receives the round's result, or ABANDONED. -/
def State.lateVote (s : State) (b : Ballot) : State :=
  s.modCg b.grp (fun c =>
    let r := b.vote.round.toNat
    let x := (Tab.get? c.results r).getD (2, 0)
    if c.left.contains (b.pos, b.vote.round) then { c with left := c.left.erase (b.pos, b.vote.round) }
    else { c with results := Tab.put c.results r (x.1, x.2 + 1) })

/-- A wave that learns at its instruction, when it executes it again, that its vote was refused. -/
def Wave.refusedVote (w : Wave) : Wave :=
  { w with
    sent := false, sited := true
    busy := match w.busy with | .round _ => .no | b => b }

/-- A vote refused for its site tag or mode: CONSSITE at the wave's instruction. A wave that waits there or has speculated from
there takes it at once; one that is saved, rolled back or in its handler takes it when it stands there again. -/
def State.refuseVote (s : State) (b : Ballot) : State :=
  match s.waves.find? (fun e => e.2.cast b) with
  | none =>
    let fix (w : Wave) : Wave := if w.cast b then w.refusedVote else w
    { s with images := s.images.map (fun (x : Image) => { x with wgs := x.wgs.map (fun (g : SavedWg) => { g with
        waves := g.waves.map (fun (e : Nat × Wave) => (e.1, fix e.2)) }) }) }
  | some (k, w) =>
    match w.spec, w.busy with
    | some sp, _ => ((s.modWave k (fun w => { w with sent := false })).rollback k true).takeTrap k (lostTrap w 3 sp.pc)
    | none, .round (.branch pc _ _) =>
      (s.modWave k (fun w => { w with sent := false, busy := .no, waiting := 0 })).takeTrap k (lostTrap w 3 pc)
    | _, _ => s.modWave k Wave.refusedVote

/-- Whether a vote can be counted: the round before its own is not open any more (R368, R369). -/
def State.ballotDue (s : State) (b : Ballot) : Bool :=
  match Tab.get? s.cgs b.grp with
  | some c => c.lost || c.deleted || c.st == .idle || b.vote.round != nextRound c.round
  | none => true

/-- A vote compared with the open round and counted. A vote from a position that was vacant when the round opened has no
effect: its wave has left. -/
def State.countVote (s : State) (b : Ballot) : State :=
  match Tab.get? s.cgs b.grp with
  | none => s
  | some c =>
    if c.st != .collect || c.round != b.vote.round then s.lateVote b
    else if !c.expected.contains b.pos then s.modCg b.grp (fun c => { c with left := c.left.erase (b.pos, b.vote.round) })
    else if b.vote.site != c.site || b.vote.mode != c.mode then s.refuseVote b
    else (s.modCg b.grp (fun c => { c with votes := Tab.put c.votes b.pos b.vote.val })).collected b.grp

/-- CONSENSUS_VOTE: a wave's vote reaches the consensus unit. -/
def execConsensusVote (k : Nat) (s : State) : Res :=
  match s.ballots.find? (fun b => b.wave == k && s.ballotDue b) with
  | none => .next s
  | some b =>
    let s := { s with ballots := s.ballots.erase b }
    match Tab.get? s.cgs b.grp with
    | none => .next s
    | some c =>
      let next := b.vote.round == nextRound c.round
      if c.lost || c.deleted then
        let s := if next && c.st == .idle then s.modCg b.grp (fun c => { c with round := b.vote.round }) else s
        .next (s.lateVote b)
      else if c.st = .idle && next then .next ((s.openRound b.grp b.vote.site b.vote.mode).countVote b)
      else .next (s.countVote b)

/-! ## Flits arriving, phases and time limits -/

/-- How many rounds a flit's round lies ahead of the group's: rounds 1 to 0xFFFF go round (R360). -/
def CGroup.ahead (c : CGroup) (f : CFlit) : Nat := (f.round.toNat + 65535 - c.round.toNat) % 65535

/-- A flit that belongs to an open round, opens the next one, or is held for a later one (R363, R369). The nearer half of the
rounds lies ahead, the rest is past (log entry 83). -/
def State.flitTaken (s : State) (f : CFlit) : State :=
  let n := f.grp.toNat
  match Tab.get? s.cgs n with
  | none => s
  | some c =>
    let a := c.ahead f
    if c.deleted || c.lost then s
    else if f.round = c.round then if c.st = .idle then s else s.flitIn n f
    else if a = 0 ∨ 32767 < a then s
    else
      let s := s.modCg n (fun c => { c with kept := c.kept ++ [f] })
      if f.round = nextRound c.round ∧ c.st = .idle then s.openRound n f.site f.mode else s

/-- A consensus flit that arrives, counted at a port (R492): which one is the rotors' (log entry 38). -/
def State.countFlit (s : State) (_ : CFlit) : State := s.countPort ((s.fresh 250).toNat % 16) 0x81 1

/-- A flit that arrives: one that is not accepted is counted. -/
def State.flitArrives (s : State) (kind : Nat) (f : CFlit) : Res :=
  if f.kind.toNat ≠ kind then .next s
  else if !s.flitOk f then .next (s.portError ((s.fresh 250).toNat % 16))
  else .next ((s.countFlit f).flitTaken f)

/-- The rounds of groups between rounds for which flits are held open with the first of them (R363, R369). -/
def State.openHeld (s : State) : State :=
  s.cgs.foldl (fun s e =>
    match e.2.kept.find? (fun f => f.round == nextRound e.2.round) with
    | some f => if e.2.st = .idle && !e.2.lost && !e.2.deleted then s.openRound e.1 f.site f.mode else s
    | none => s) s

/-- CONSENSUS_UP. -/
def execConsensusUp (f : CFlit) (s : State) : Res := s.flitArrives 0 f
/-- CONSENSUS_DOWN. -/
def execConsensusDown (f : CFlit) (s : State) : Res := s.flitArrives 1 f

/-- CONSENSUS_RESTART. -/
def execConsensusRestart (f : CFlit) (s : State) : Res := s.flitArrives 2 f

/-- A round cut by a reconfiguration on this device: it restarts, and the other member devices are told (R362). -/
def State.cutRound (s : State) (n : Nat) : State :=
  match Tab.get? s.cgs n with
  | none => s
  | some c =>
    if c.st = .reduce then
      let s := { s with cwait := s.cwait.filter (fun e => e.2.grp.toNat != n) }
      (s.sendFlits n 2 0 (s.phaseOf c) (s.others c)).modCg n CGroup.restart
    else s

/-- CONSENSUS_MEMBER_LOST. -/
def execConsensusMemberLost (f : CFlit) (s : State) : Res :=
  if f.kind ≠ 3 then .next s
  else if !s.flitOk f then .next (s.portError ((s.fresh 250).toNat % 16))
  else .next ((s.countFlit f).loseGroup f.grp.toNat false)

/-- A reduction at the beginning of a phase: the value enters the phase's schedule; with every child's value in, it goes up,
or resolves the round at the root. -/
def State.reduceStep (s : State) (phase n : Nat) : State :=
  match Tab.get? s.cgs n with
  | none => s
  | some c =>
    if c.st != .reduce then s
    else
      let ph := match c.step with
        | some (p, _) => p
        | none => phase
      let sent := match c.step with
        | some (_, b) => b
        | none => false
      let all := c.children.all (fun d => c.upgot.any (fun e => e.1 == d))
      let v := combineVotes c.mode (c.value :: c.upgot.map Prod.snd)
      match c.parent with
      | some p =>
        if all && !sent then
          (s.sendFlit n 0 (if v then 1 else 0) ph (c.stepOf ph p true)).modCg n (fun c => { c with step := some (ph, true) })
        else s.modCg n (fun c => { c with step := some (ph, sent) })
      | none =>
        if all && c.step.isSome then s.resolveDown n (if v then 1 else 0) ph c.children
        else s.modCg n (fun c => { c with step := some (ph, false) })

/-- CONSENSUS_PHASE: a matching phase begins. -/
def execConsensusPhase (phase : Nat) (s : State) : Res :=
  let p := phase % 256
  .next (s.cgs.foldl (fun s e => s.reduceStep p e.1) { s with phase := p })

/-- CONSENSUS_ROUND_TIMEOUT: a round that stays open past its timeout is abandoned; the group is not LOST. -/
def execConsensusRoundTimeout (n : Nat) (s : State) : Res :=
  match Tab.get? s.cgs n with
  | none => .next s
  | some c => if c.st != .idle && s.clock ≥ c.openAt + c.timeout * 1300000 then .next (s.resolveAll n 2) else .next s

/-- Whether the schedule that a round has entered names a port. -/
def CGroup.uses (c : CGroup) (port : Nat) : Bool :=
  match c.step with
  | some (p, _) => c.sched.any (fun x => x.phase == p && x.port == port)
  | none => false

/-- PORT_LINK_LOSS: a port's link goes down; rounds on a schedule that names it are cut. -/
def execPortLinkLoss (n : Nat) (s : State) : Res :=
  if n ≥ 16 then .next s
  else
    let s := { s with ports := Tab.put s.ports n { s.port n with up := false } }
    .next (s.cgs.foldl (fun s e => if e.2.uses n then s.cutRound e.1 else s) s)

/-! ## The instructions (R365 to R373) -/

/-- CJOIN. -/
def execCjoin (h : Hdr) (sd : BitVec 6) (g : Src) (s : State) : Res :=
  issue h (instrLen [g]) .stalls true s (fun i s =>
    if i.part = 0 then s.setWave i.k (i.step i.w)
    else
      let n := ((i.rd s true).w32 g i.lane).toNat
      let vd := (s.agentOf i.k i.w 0).vd
      if i.w.member.isSome then i.setS s sd.toNat 0xFFFFFFFD
      else match (if n < 64 then Tab.get? s.cgs n else none) with
        | none => i.setS s sd.toNat 0xFFFFFFFE
        | some c =>
          if c.deleted || c.owner != vd || c.lost then i.setS s sd.toNat 0xFFFFFFFE
          else match (List.range c.lpos).find? (fun p => !c.joined.contains p) with
            | none => i.setS s sd.toNat 0xFFFFFFFF
            | some p =>
              let w := { i.w with
                member := some ⟨n, p, some (nextRound c.round)⟩, last := 3, sm := false, round := 0, sent := false }
              (s.setWave i.k (i.step (w.setS sd.toNat (BitVec.ofNat 32 p)))).modCg n (fun c =>
                { c with joined := c.joined ++ [p] }))

/-- CLEAVE. -/
def execCleave (h : Hdr) (s : State) : Res :=
  issue h 8 .stalls true s (fun i s =>
    if i.part = 0 || i.w.member.isNone then s.setWave i.k (i.step i.w)
    else if !i.w.sent then (s.setWave i.k (i.step i.w)).leave i.k
    else match s.roundResult i.w with
      | some r => ((s.setWave i.k (i.step i.w)).consume i.k r).leave i.k
      | none => s.setWave i.k { i.w with busy := .round (.leave i.act i.next) })

/-- The vote of a wave (R368). -/
def Iss.ballot (i : Iss) (mode : CMode) (ps : BitVec 3) (pn : Bool) : Bool :=
  let bits := i.pred ps pn
  match mode with
  | .any => (i.part &&& bits) != 0
  | .all => (i.part &&& bits) == i.part

/-- The checkpoint of a wave that goes on speculatively (R374, R375). -/
def Wave.checkpoint (w : Wave) (pc target fall : BitVec 64) (taken : Bool) : Spec :=
  ⟨pc, taken, target, fall, w.v, w.s, w.p, w.latches.map (fun b => b.tag), w.dscope, w.flags, w.seed, [], [], false, 128, none,
    [], none⟩

/-- CBR and CBRW: the report of a refused vote; else the vote where none stands, then the result, a speculation, or the
wait. -/
def cbrIssue (h : Hdr) (mode : CMode) (hint : Option CHint) (ps : BitVec 3) (pn : Bool) (off : BitVec 14) (site : BitVec 16)
    (s : State) : Res :=
  issue h 16 .stalls true s (fun i s =>
    if i.w.blocked then i.hold s
    else if !i.together then i.wait s
    else match i.w.member with
      | none => s.raise i.k { mkTrap .conslost i.act i.pc with detail := 1 }
      | some m =>
        if i.w.sited then (s.setWave i.k { i.w with sited := false, waiting := 0 }).raise i.k (lostTrap i.w 3 i.pc)
        else
        let v := i.ballot mode ps pn
        let r := match m.first with
          | some f => f
          | none => nextRound i.w.round
        let w := { i.w with waiting := 0 }
        let s := if w.sent then s else { s with ballots := s.ballots ++ [⟨i.k, m.grp, m.pos, ⟨r, site, mode == .all, v⟩⟩] }
        let w := if w.sent then w else { w with round := r, sent := true, member := some { m with first := none } }
        let target := i.pc + 8 * off.signExtend 64
        match s.roundResult w with
        | some res => (s.setWave i.k w).actOn i.k i.pc target i.next res
        | none =>
          match hint, decide (128 ≤ s.journalOf w) with
          | some p, true =>
            let taken := match p with | .pt => true | .pn => false | .pl => v
            let sp := w.checkpoint i.pc target i.next taken
            s.setWave i.k ({ w with spec := some sp }.goto i.act (if taken then target else i.next))
          | _, _ => s.setWave i.k { w with busy := .round (.branch i.pc target i.next) })

/-- CBR. -/
def execCbr (h : Hdr) (mode : CMode) (hint : CHint) (ps : BitVec 3) (pn : Bool) (off : BitVec 14) (site : BitVec 16)
    (s : State) : Res :=
  cbrIssue h mode (some hint) ps pn off site s

/-- CBRW. -/
def execCbrw (h : Hdr) (mode : CMode) (ps : BitVec 3) (pn : Bool) (off : BitVec 14) (site : BitVec 16) (s : State) : Res :=
  cbrIssue h mode none ps pn off site s

/-- The scope of a group, as an operand. -/
def groupScope (c : Nat) : Scope := if c = 5 then .dev else if c = 7 then .grp else .ten

/-- CSYNC: an acquire at the group's scope. -/
def execCsync (h : Hdr) (sd : Option (BitVec 6)) (s : State) : Res :=
  issue h 8 .stalls true s (fun i s =>
    if i.part = 0 then s.setWave i.k (i.step i.w)
    else
      let w := match i.w.member.bind (fun m => Tab.get? s.cgs m.grp) with
        | some c => (s.scopeOf i.w (some (groupScope c.scope))).2
        | none => i.w
      let fin (r : Option Nat) : State :=
        s.setWave i.k (i.step (match sd with
          | some n => w.setS n.toNat (BitVec.ofNat 32 (syncValue w r))
          | none => w))
      if i.w.member.isSome && i.w.sent then
        match s.roundResult i.w with
        | some r => fin (some r)
        | none => s.setWave i.k { w with busy := .round (.sync (sd.map (fun n => n.toNat)) i.act i.next) }
      else fin none)

/-- The state of a group as CSTAT reads it (R373). -/
def CGroup.stat (c : CGroup) : Nat :=
  let unread := match Tab.get? c.results c.round.toNat with
    | some x => x.2 != 0
    | none => false
  let st := match c.st with
    | .collect => 1
    | .reduce => 2
    | .idle => if unread then 3 else 0
  2 ^ 63 + (if c.lost then 2 ^ 62 else 0) + c.scope * 2 ^ 58 + st * 2 ^ 56 + c.round.toNat * 2 ^ 40 + c.joined.length * 2 ^ 30 +
    c.lpos * 2 ^ 20 + c.total

/-- CSTAT. -/
def execCstat (h : Hdr) (dd : BitVec 6) (g : Src) (s : State) : Res :=
  issue h (instrLen [g]) .proceeds true s (fun i s =>
    if i.part = 0 then s.setWave i.k (i.step i.w)
    else
      let n := ((i.rd s true).w32 g i.lane).toNat
      let vd := (s.agentOf i.k i.w 0).vd
      let x := match (if n < 64 then Tab.get? s.cgs n else none) with
        | some c => if c.owner = vd ∧ c.deleted = false then c.stat else 0
        | none => 0
      match s.permit i.w [] [dd.toNat, dd.toNat + 1] false 0 with
      | none => s.stallSpec i.k
      | some w => s.setWave i.k (i.step (w.setSw dd.toNat (BitVec.ofNat 64 x))))

/-! ## Groups that go (R383, R384) -/

/-- Every group of a killed virtual device is LOST. -/
def State.loseGroups (s : State) (vd : Nat) : State :=
  s.cgs.foldl (fun s e => if e.2.owner == vd && !e.2.deleted then s.loseGroup e.1 true else s) s

/-- The groups of a virtual device that a device of a killed member holds positions of are LOST. -/
def State.loseGroupsOf (s : State) (vd dev : Nat) : State :=
  s.cgs.foldl (fun s e => if e.2.owner == vd && !e.2.deleted && e.2.devices.contains dev then s.loseGroup e.1 false else s) s

/-- A wave that is no longer a member of a destroyed group: its vote does not stand. -/
def Wave.expel (w : Wave) (n : Nat) : Wave :=
  match w.member with
  | some m => if m.grp == n && !w.sent then { w with member := none } else w
  | none => w

/-- A wave whose group's record has moved. -/
def Wave.regroup (w : Wave) (n m : Nat) : Wave :=
  { w with member := w.member.map (fun x => if x.grp = n then { x with grp := m } else x) }

/-- A group destroyed: its open round is abandoned, its members without a standing vote leave it. Its number is free at once; the
record goes on under a number of its own, equal modulo 64, until every standing vote has its result (R384). -/
def State.destroyGroup (s : State) (n : Nat) : State :=
  match Tab.get? s.cgs n with
  | none => s
  | some c =>
    let m := n % 64 + 64 * (s.nextId + 1)
    let s := if c.st = .idle then s else s.resolveRound n 2
    let s := s.modCg n (fun c => { c with deleted := true })
    let turn (w : Wave) : Wave := (w.expel n).regroup n m
    let s := { s with
      nextId := s.nextId + 1
      cgs := (Tab.get? s.cgs n).elim s.cgs (fun c => Tab.put (Tab.del s.cgs n) m c)
      ballots := s.ballots.map (fun (b : Ballot) => if b.grp = n then { b with grp := m } else b)
      waves := s.waves.map (fun (e : Nat × Wave) => (e.1, turn e.2))
      images := s.images.map (fun (x : Image) => { x with wgs := x.wgs.map (fun (g : SavedWg) => { g with
        waves := g.waves.map (fun (e : Nat × Wave) => (e.1, turn e.2)) }) }) }
    s.dropSpent m

end Sys2Proof.Machine
end

