-- ==== Sys2Proof/Machine/CopyEng.lean ====
section
/-! DEFINITION. CopyEng.lean: the copy engine: the address of an element, the micro-operation program, and the transfer of
one destination granule at a time (R296 to R305). -/

namespace Sys2Proof.Machine

open Sys2Proof

/-! ## Elements (R298, R299) -/

/-- The index tuple of a linear element number. -/
def tupleOf (exts : List Nat) (e : Nat) : List Nat :=
  match exts with
  | [] => []
  | x :: r => e % x :: tupleOf r (e / x)

/-- Σ of index times stride. -/
def dotIdx (idx : List Nat) (str : List Int) : Int := (List.zipWith (fun (i : Nat) (s : Int) => (i : Int) * s) idx str).foldl (· + ·) 0

/-- A signed 64-bit value that wraps. -/
def wrap64 (x : Int) : Int := (x + 2 ^ 63) % 2 ^ 64 - 2 ^ 63

/-- The registers of a micro-operation program. -/
structure Micro where
  t : Int
  a : Int
  v : Bool
  deriving DecidableEq, Repr

/-- One micro-operation. -/
def Micro.op (m : Micro) (idx : List Nat) (op d : Nat) (imm : Int) : Micro :=
  let i : Int := idx.getD d 0
  match op with
  | 1 => { m with t := imm }
  | 2 => { m with t := wrap64 (m.t + i * imm) }
  | 3 => if m.t < 0 ∨ m.t ≥ imm then { m with v := false } else m
  | 4 => { m with a := wrap64 (m.a + m.t * imm) }
  | 5 => { m with a := wrap64 (m.a + i * imm) }
  | 6 => { m with t := Int.fdiv m.t imm }
  | 7 => { m with t := m.t - imm * Int.fdiv m.t imm }
  | 8 => { m with t := wrap64 (m.t * 2 ^ (imm % 32).toNat) }
  | _ => m

/-- A program run for an index tuple. -/
def Micro.run (m : Micro) (idx : List Nat) : List (Nat × Nat × Int) → Micro
  | [] => m
  | o :: r => if o.1 = 0 then m else (m.op idx o.1 o.2.1 o.2.2).run idx r

/-- The place of an element on a side, in nibbles: from the base, the layout and the element offset in nibbles. None is a
negative position in the stack-resident layout. -/
def nibbleAt (base swz rowb : Nat) (j : Int) : Option Int :=
  let x : Int := 2 * base + j
  let swap (sh : Nat) : Int :=
    let o := (x / 2 % 2 ^ 64).toNat
    let n := Nat.xor (bitsOf o 4 3) (bitsOf o sh 3)
    ((o / 128 * 128 + n * 16 + o % 16 : Nat) : Int) * 2 + x % 2
  if swz = 0 then some x
  else if swz = 1 then some (swap 7)
  else if swz = 2 then some (swap 10)
  else if j < 0 then none
  else
    let b := (j / 2).toNat
    let n := b / rowb
    let c := b % rowb
    some (2 * (base + n / 32 * 32 * rowb + (c / 256 * 32 + n % 32) * 256 + c % 256 : Nat) + j % 2)

/-- What an element is written with. -/
inductive ElemSrc where
  | fill
  | place (nib : Int)
  | negative
  deriving DecidableEq, Repr

/-- Where element e of a card takes its value: JGEN reads at SRC + esz × A, whatever the layout of its source (R299). -/
def CopyDesc.source (d : CopyDesc) (kind : Nat) (prog : List (Nat × Nat × Int)) (e : Nat) : ElemSrc :=
  let idx := tupleOf (d.dims.map CopyDim.ext) e
  let from' (j : Int) : ElemSrc := match nibbleAt d.src d.sswz d.rowb j with
    | some x => .place x
    | none => .negative
  if kind = 3 then .fill
  else if kind = 2 then
    let m := (Micro.mk 0 0 true).run idx prog
    if !m.v || decide (m.a < 0) || decide ((d.nibbles : Int) * (m.a + 1) > 2 * d.srclen) then .fill
    else .place (2 * d.src + d.nibbles * m.a)
  else if (List.zipWith (fun (i : Nat) (x : CopyDim) => x.lim != 0 && decide (i ≥ x.lim)) idx d.dims).any id then .fill
  else from' ((d.nibbles : Int) * dotIdx idx (d.dims.map CopyDim.sstr))

/-- Where element e is written. -/
def CopyDesc.target (d : CopyDesc) (e : Nat) : Option Int :=
  nibbleAt d.dst d.dswz d.rowb ((d.nibbles : Int) * dotIdx (tupleOf (d.dims.map CopyDim.ext) e) (d.dims.map CopyDim.dstr))

/-- The fill value of an element: its bytes, or its nibble in a byte. -/
def CopyDesc.fillBytes (d : CopyDesc) : List Byte :=
  if d.esz = 0 then [BitVec.ofNat 8 (d.fill % 16)]
  else (List.range d.ebytes).map (fun i => BitVec.ofNat 8 (d.fill / 2 ^ (8 * (i % 4)) % 256))

/-! ## The accesses of a card (R289, R305) -/

/-- What a read or a write of an engine meets. -/
inductive Reach (α : Type) where
  | ok (x : α)
  | wait
  | park (va : Nat) (w : Bool)
  | fail (code : Nat)
  deriving Repr

/-- Bytes of one side read by a card: scratchpad or global memory. A peer's page is read by a request, whose answer the
run keeps in `got`. -/
def State.cardRead (s : State) (r : CardRef) (g : Workgroup) (c : Card) (run : Run) (space : Nat) (addr : Int) (n : Nat) :
    Reach (List Byte) × State :=
  let a := (addr % 2 ^ 64).toNat
  if !c.covers space a n false then (.fail cardBounds, s)
  else if space = 2 then (.ok (s.scratchRead g a n), s)
  else if !canonical (BitVec.ofNat 64 a) then (.fail cardAlign, s)
  else
    let ag := g.cardAgent r c.kind
    let va := vaOf (BitVec.ofNat 64 a)
    let x := s.xlate ag va false
    match x.1 with
    | .absent => (.park va false, x.2)
    | .prot => (.fail cardProt, x.2)
    | .xlate => (.fail cardXlate, x.2)
    | .at l =>
      if l.space ≠ .fab then
        match x.2.recallPlaces false [(l, n)] with
        | some t => (.wait, t)
        | none => (.ok (x.2.readBytes l n), x.2.loadAt ag.vd ag.ctx va l n true)
      else match x.2.fabPlace g.vd l.addr n 2 with
        | .own m =>
          (match x.2.recallPlaces false [(⟨.dev, m⟩, n)] with
          | some t => (.wait, t)
          | none => (.ok (x.2.readBytes ⟨.dev, m⟩ n), x.2))
        | .refused _ => (.fail cardPeer, x.2)
        | .peer dev _ _ =>
          match run.got with
          | some bs => (.ok bs, x.2)
          | none =>
            if x.2.cardBusy r then (.wait, x.2)
            else
              let s := x.2.recallPeerLine g.vd l.addr
              (.wait, s.request ⟨.card r, 0, 0, n, opRdu, attrs n 0 0 0, [], l.addr, va, g.vd, dev, false⟩)

/-- Bytes held in the bounce buffer of a die. -/
def State.bounced (s : State) (die : Nat) : Nat :=
  (s.bounce.map (fun b => if b.die = die then b.bytes.length else 0)).foldl (· + ·) 0

/-- Whether a write misses because its page is not mapped, rather than not writable. -/
def State.unmapped (s : State) (vd ctx va : Nat) : Bool :=
  match s.ctx? vd ctx with
  | none => true
  | some c => match s.walk c.format va with
    | .absent => true
    | _ => false

/-- Bytes under a bit mask written by a card to global memory. -/
def State.cardWrite (s : State) (r : CardRef) (g : Workgroup) (c : Card) (a : Nat) (mask : Byte) (bs : List Byte) :
    Reach Unit × State :=
  let n := bs.length
  if !c.covers 1 a n true then (.fail cardBounds, s)
  else if !canonical (BitVec.ofNat 64 a) then (.fail cardAlign, s)
  else
    let ag := g.cardAgent r c.kind
    let va := vaOf (BitVec.ofNat 64 a)
    let x := s.xlate ag va true
    let die := dieOf g.core
    match x.1 with
    | .absent =>
      if s.unmapped g.vd g.ctx va && decide (s.bounced die + n ≤ 67108864) then
        (.ok (), { x.2 with bounce := x.2.bounce ++ [⟨die, g.vd, g.ctx, va, mask, bs⟩] })
      else (.park va true, x.2)
    | .prot => (.fail cardProt, x.2)
    | .xlate => (.fail cardXlate, x.2)
    | .at l =>
      let put (s : State) (l : Loc) : Reach Unit × State :=
        (.ok (), s.storeAt g.vd g.ctx va l (maskBytes mask (s.readBytes l n) bs) true)
      if l.space ≠ .fab then
        match x.2.recallPlaces true [(l, n)] with
        | some t => (.wait, t)
        | none => put x.2 l
      else match x.2.fabPlace g.vd l.addr n 4 with
        | .own m =>
          (match x.2.recallPlaces true [(⟨.dev, m⟩, n)] with
          | some t => (.wait, t)
          | none => put x.2 ⟨.dev, m⟩)
        | .refused _ => (.fail cardPeer, x.2)
        | .peer dev _ _ =>
          let s := x.2.recallPeerLine g.vd l.addr
          (.ok (), s.request ⟨.card r, 0, 0, n, opWru, attrs n 0 mask.toNat 0, bs, l.addr, va, g.vd, dev, false⟩)

/-- One element written in the scratchpad ranges of its receivers: the own workgroup, or the gang members of a
multicast. -/
def State.copyLand (s : State) (r : CardRef) (g : Workgroup) (c : Card) (d : CopyDesc) (off : Nat) (mask : Byte)
    (nib : BitVec 32) (bs : List Byte) : State :=
  let ms := if c.kind = 4 then (List.range 8).filter (fun i => bitsOf d.mask i 1 == 1) else [g.wgid]
  ms.foldl (fun s i =>
    match (if c.kind = 4 then s.gangMember g r.wg (cTag c.bytes) i else some r.wg) with
    | none => s.modCard r.wg r.seq (fun c => { c with mdrop := true })
    | some gid =>
      match Tab.get? s.wgs gid with
      | none => s
      | some h =>
        let s := s.scratchWrite h off (maskBytes mask (s.scratchRead h off bs.length) bs)
        s.noteWrite r gid i off nib) s

/-! ## Progress (R304) -/

/-- One element moved: its bytes are read, then written. -/
def State.copyElem (s : State) (r : CardRef) (g : Workgroup) (c : Card) (run : Run) (d : CopyDesc)
    (prog : List (Nat × Nat × Int)) (e : Nat) : Reach Unit × State :=
  let nibSz := d.esz = 0
  let rd : Reach (List Byte) × State := match d.source c.kind prog e with
    | .fill => (.ok d.fillBytes, s)
    | .negative => (.fail cardBounds, s)
    | .place x =>
      let q := s.cardRead r g c run d.ssp (x / 2) d.ebytes
      match q.1 with
      | .ok bs => (.ok (if nibSz then bs.map (fun (b : Byte) => if x % 2 = 1 then b >>> 4 else b &&& 0x0F) else bs), q.2)
      | o => (o, q.2)
  match rd.1, d.target e with
  | .wait, _ => (.wait, rd.2)
  | .park va w, _ => (.park va w, rd.2)
  | .fail k, _ => (.fail k, rd.2)
  | .ok _, none => (.fail cardBounds, rd.2)
  | .ok bs, some y =>
    let high := nibSz && y % 2 == 1
    let bs := if high then bs.map (fun (b : Byte) => b <<< 4) else bs
    let mask : Byte := if nibSz then (if high then 0xF0 else 0x0F) else 0xFF
    let a := (y / 2 % 2 ^ 64).toNat
    if d.dsp = 1 then rd.2.cardWrite r g c a mask bs
    else if !c.covers 2 a d.ebytes true then (.fail cardBounds, rd.2)
    else
      let nib := if nibSz then BitVec.ofNat 32 (2 ^ (2 * (a % 16) + (if high then 1 else 0))) else byteMask a d.ebytes
      (.ok (), rd.2.copyLand r g c d a mask nib bs)

/-- Elements moved from number e on, as long as they land in the granule at `gran`. What stops the run before its first
element is what the event reports. An element written to a peer counts in PROG when the peer has answered (R304), and the run
goes on then. -/
def copyGo (r : CardRef) (d : CopyDesc) (prog : List (Nat × Nat × Int)) (gran : Option Int) : Nat → Nat → Bool → State →
    EngOut
  | 0, _, _, s => .go s
  | fuel + 1, e, moved, s =>
    match s.card? r, (s.engines.findSome? (fun x => x.2.run.filter (fun q => q.card == r))) with
    | some (g, c), some run =>
      if e ≥ d.total then .go (s.modRun r (fun q => { q with done := true }))
      else if moved && (d.target e).map (fun y => y / 32) != gran then .go s
      else
        let x := s.copyElem r g c run d prog e
        match x.1 with
        | .ok _ =>
          let s := x.2.modRun r (fun q => { q with prog := e + 1, got := none })
          if s.cardBusy r then .go s
          else copyGo r d prog gran fuel (e + 1) true (s.modCard r.wg r.seq (fun c => { c with prog := d.progOf (e + 1) }))
        | .wait => .go x.2
        | .park va w => if moved then .go s else .park va w x.2
        | .fail k => if moved then .go s else .fail k x.2
    | _, _ => .idle

/-- The descriptor that a card reads at its start, within its ranges. One that is ill-formed by then, for JGEN with the
program that was issued with it, fails the card (R297). -/
def State.copyStart (s : State) (r : CardRef) (g : Workgroup) (c : Card) : EngOut :=
  let off := cDesc c.bytes
  match s.descBytes g off with
  | none => .fail cardDesc s
  | some x =>
    let d := CopyDesc.of x
    if !c.covers 2 off x.length false then .fail cardBounds s
    else if !d.ok c.kind g.gangsz || (c.kind == 2 && !microOk d.dims.length (microOps (c.bytes.drop 32))) then
      .fail cardDesc s
    else .go (s.modRun r (fun q => { q with desc := x, prog := c.prog * 2 / d.nibbles }))

/-- What a copy card does next. -/
def State.copyNext (s : State) (r : CardRef) (g : Workgroup) (c : Card) (run : Run) : EngOut :=
  if run.desc.isEmpty then s.copyStart r g c
  else if c.code ≠ 0 then .fail c.code s
  else
    let d := CopyDesc.of run.desc
    let prog := if c.kind = 2 then microOps (c.bytes.drop 32) else []
    if s.cardBusy r then .idle
    else copyGo r d prog ((d.target run.prog).map (fun y => y / 32)) 33 run.prog false s

end Sys2Proof.Machine
end

