-- ==== Sys2Proof/Machine/Matrix.lean ====
section
/-! DEFINITION. Matrix.lean: the group sum, the accumulator, and the matrix and in-stack cards (R139 to R143, R152, R157 to
R160, R312 to R329). -/

namespace Sys2Proof.Machine

open Sys2Proof

/-! ## The group sum and the accumulator (R158, R159, R143) -/

/-- Flags kept of a rounding into the accumulator. -/
def accFlags (f : BitVec 7) : BitVec 7 := f &&& (flagOF ||| flagUF)

/-- A sum of 32 products: every product zero, or a value, with NV where NaN came of no NaN operand. -/
def groupSum (l : List (Num × Num)) : Option Num × BitVec 7 :=
  let ps := l.map (fun x => x.1.mul x.2)
  let nanIn := l.any (fun x => x.1.isNan || x.2.isNan)
  let both := ps.any (fun x => x == .inf false) && ps.any (fun x => x == .inf true)
  if ps.any Num.isNan || both then (some .nan, if nanIn then 0 else flagNV)
  else match ps.find? Num.isInf with
    | some x => (some x, 0)
    | none =>
      let fs := ps.filterMap (fun x => match x with
        | .fin n m e => if m = 0 then none else some (n, m, e)
        | _ => none)
      match fs with
      | [] => (none, 0)
      | t :: r =>
        let top := r.foldl (fun (b : Int) x => max b (log2Floor x.2.1 x.2.2)) (log2Floor t.2.1 t.2.2)
        let u := top - 80
        let cut (x : Bool × Nat × Int) : Int :=
          let m : Nat := if x.2.2 ≥ u then x.2.1 * 2 ^ (x.2.2 - u).toNat else x.2.1 / 2 ^ (u - x.2.2).toNat
          if x.1 then -(m : Int) else m
        let sum := (fs.map cut).foldl (· + ·) 0
        (some (.fin (sum < 0) sum.natAbs u), 0)

/-- acc_add on codes of `acc48`. DESIGN CHOICE (log entry 112): UF follows the exact sum, as R147 has it for every rounding. -/
def accAdd (acc : Nat) (g : Option Num × BitVec 7) : Nat × BitVec 7 :=
  match g.1 with
  | none => (acc, g.2)
  | some x =>
    let a := Fmt.acc.val acc
    let r := Num.sum [a, x] false
    match r.1 with
    | .nan => (Fmt.acc.nan, g.2 ||| (if a.isNan || x.isNan then 0 else flagNV))
    | y =>
      let z := Fmt.acc.round .rne false 0 y
      (z.1, g.2 ||| accFlags z.2)

/-- A group of exact integer products added and clamped to 48 bits. -/
def accInt48 (acc : Nat) (l : List (Int × Int)) : Nat × BitVec 7 :=
  let a : Int := if acc < 2 ^ 47 then acc else (acc : Int) - 2 ^ 48
  let x := (l.map (fun p => p.1 * p.2)).foldl (· + ·) a
  if x > 2 ^ 47 - 1 then (2 ^ 47 - 1, flagSAT)
  else if x < -(2 ^ 47) then (2 ^ 47, flagSAT)
  else ((x % 2 ^ 48).toNat, 0)

/-! ## Operands -/

/-- Elements of a number of bits from bytes. -/
def elemsOf (bits : Nat) (n : Nat) (bs : List Byte) : List Nat :=
  (List.range n).map (fun i =>
    if bits = 4 then (bs.getD (i / 2) 0).toNat / (if i % 2 = 0 then 1 else 16) % 16
    else if bits = 8 then (bs.getD i 0).toNat
    else (bs.getD (2 * i) 0).toNat + 256 * (bs.getD (2 * i + 1) 0).toNat)

/-- One side of a matrix card: its format, rows and scales. -/
structure MatSide where
  fmt  : EFmt
  bits : Nat
  base : Nat
  ld   : Nat
  sc   : Nat
  sstr : Nat
  sb   : Nat
  hstr : Nat
  hb   : Nat
  deriving Repr

/-- A side of JMMA. -/
def matSide (f : FWord) (b : Bool) (d : MmaDesc) : Option MatSide :=
  if b then (EFmt.ofCode f.bfmt f.binf).map (fun e =>
    ⟨e, fmtClass f.bfmt, d.bbase, d.bld, f.bsc, d.bsstr, d.bsbase, d.bhstr, d.bhbase⟩)
  else (EFmt.ofCode f.afmt f.ainf).map (fun e =>
    ⟨e, fmtClass f.afmt, d.abase, d.ald, f.asc, d.asstr, d.asbase, d.ahstr, d.ahbase⟩)

/-- The 32 codes of row r from element k. -/
def MatSide.codes (m : MatSide) (rd : Nat → Nat → List Byte) (r k : Nat) : List Nat :=
  elemsOf m.bits 32 (rd (m.base + r * m.ld + k * m.bits / 8) (4 * m.bits))

/-- The values of row r from element k, under their scale. -/
def MatSide.vals (m : MatSide) (rd : Nat → Nat → List Byte) (r k : Nat) : List Num :=
  let q := k / 256
  let e := leNat (rd (m.sb + r * m.sstr + q) 1)
  let h := leNat (rd (m.hb + r * m.hstr + 2 * q) 2)
  let sh := if m.sc = 2 then bitsOf h (2 * (k % 256 / 32)) 2 else 0
  (m.codes rd r k).map (fun c => if m.sc = 0 then m.fmt.val c else scaled (m.fmt.val c) (e8 e) sh)

/-- The integers of row r from element k. -/
def MatSide.ints (m : MatSide) (rd : Nat → Nat → List Byte) (r k : Nat) : List Int :=
  match m.fmt with
  | .int f => (m.codes rd r k).map f.val
  | .fl _ => []

/-- One output: an accumulator taken through its groups in increasing k. -/
def dotGo (a b : MatSide) (ra rb : Nat → Nat → List Byte) (r j : Nat) : Nat → Nat → Nat → Nat × BitVec 7
  | 0, _, acc => (acc, 0)
  | n + 1, k, acc =>
    let x := if a.fmt.isInt then accInt48 acc ((a.ints ra r k).zip (b.ints rb j k))
      else accAdd acc (groupSum ((a.vals ra r k).zip (b.vals rb j k)))
    let y := dotGo a b ra rb r j n (k + 32) x.1
    (y.1, x.2 ||| y.2)

/-! ## Accumulator memory (R312) -/

/-- The number of a tile over the device. -/
def tileKey (core half tile : Nat) : Nat := (core * 4 + half) * 40 + tile
/-- An element of a tile. -/
def State.accAt (s : State) (k e : Nat) : Nat := (Tab.getD s.acc (k * 512 + e) (0 : BitVec 48)).toNat
/-- An element set. -/
def State.setAcc (s : State) (k e x : Nat) : State := { s with acc := Tab.set 0 s.acc (k * 512 + e) (BitVec.ofNat 48 x) }
/-- The tag of a tile: whether it is an integer tile. -/
def State.tagAt (s : State) (k : Nat) : Bool := Tab.getD s.accInt k false
/-- A tag set. -/
def State.setTag (s : State) (k : Nat) (b : Bool) : State := { s with accInt := Tab.set false s.accInt k b }

/-- The half bound to a slot. -/
def Workgroup.halfOf (g : Workgroup) (slot : Nat) : Nat := Tab.getD g.slots slot 0

/-- Scratchpad bytes as a card reads them. -/
def State.scratchAt (s : State) (g : Workgroup) (o n : Nat) : List Byte := s.scratchRead g o n

/-- Whether a card may make every access of a list of ranges (R289). -/
def Card.allows (c : Card) (l : List Range) : Bool := l.all (fun r => r.len == 0 || c.covers r.space r.base r.len r.w)

/-! ## JMMA (R322) -/

/-- The tiles of a JMMA card by row block: slot and tile. -/
def MmaDesc.blocks (d : MmaDesc) : List (Nat × Nat) :=
  (List.range (d.mt / 16)).map (fun r => if d.fuse then (d.slot + r % 2, d.t + r / 2) else (d.slot, d.t + r))

/-- The reads of one row of a side of a JMMA card. -/
def MatSide.reach (m : MatSide) (n nb r : Nat) : List Range :=
  [scratchRange (m.base + r * m.ld) n false] ++
  (if m.sc = 0 then [] else [scratchRange (m.sb + r * m.sstr) nb false]) ++
  (if m.sc = 2 then [scratchRange (m.hb + r * m.hstr) (2 * nb) false] else [])

/-- What a card has done so far: the state, the flags of its arithmetic, and whether an access would leave its ranges, after
which nothing more is done (R289). -/
structure Doing where
  s   : State
  fl  : BitVec 7
  bad : Bool

/-- One more part of a card's work, where it lies within its ranges. -/
def Doing.part (x : Doing) (within : Bool) (f : State → State × BitVec 7) : Doing :=
  if x.bad then x
  else if !within then { x with bad := true }
  else
    let y := f x.s
    ⟨y.1, x.fl ||| y.2, false⟩

/-- The end of what a card has done at one step: its flags are collected; it goes on as `k` says, or fails with BOUNDS. -/
def Doing.out (x : Doing) (r : CardRef) (k : State → EngOut) : EngOut :=
  let s := x.s.modCard r.wg r.seq (fun c => { c with xflags := c.xflags ||| x.fl })
  if x.bad then .fail cardBounds s else k s

/-- The 512 elements of one row block. -/
def mmaBlock (g : Workgroup) (c : Card) (f : FWord) (d : MmaDesc) (a b : MatSide) (r : Nat) (tile : Nat × Nat) (x : Doing) :
    Doing :=
  let nb := blocksOf d.k
  let key := tileKey g.core (g.halfOf tile.1) tile.2
  let home := c.allows [tileRange tile.1 tile.2 1 true]
  let rows := (List.range 16).map (fun i => c.allows (a.reach (fmtBytes f.afmt d.k) nb (16 * r + i)))
  let cols := (List.range 32).map (fun j => c.allows (b.reach (fmtBytes f.bfmt d.k) nb j))
  (List.range 512).foldl (fun (x : Doing) e =>
    x.part (home && rows.getD (e / 32) false && cols.getD (e % 32) false) (fun s =>
      let rd := s.scratchAt g
      let y := dotGo a b rd rd (16 * r + e / 32) (e % 32) (d.k / 32) 0 (if f.acc then s.accAt key e else 0)
      (s.setAcc key e y.1, y.2))) x

/-- A JMMA card: every row block, then its tag. -/
def State.mmaRun (s : State) (r : CardRef) (g : Workgroup) (c : Card) : EngOut :=
  let f := FWord.of (BitVec.ofNat 32 (cWord c.bytes 0))
  let d := MmaDesc.of c.bytes
  let int := fmtInt f.afmt
  let key (e : Nat × Nat) : Nat := tileKey g.core (g.halfOf e.1) e.2
  if f.acc && d.blocks.any (fun e => s.tagAt (key e) != int) then .fail cardType s
  else match matSide f false d, matSide f true d with
    | some a, some b =>
      let x := d.blocks.zipIdx.foldl (fun (x : Doing) e =>
        (mmaBlock g c f d a b e.2 e.1 x).part true (fun s => (s.setTag (key e.1) int, 0))) ⟨s, 0, false⟩
      x.out r (fun s => .go (s.modRun r (fun q => { q with done := true })))
    | _, _ => .fail cardDesc s

/-! ## JACC (R324, R325) -/

/-- The floating format of OUT. -/
def outFmt (out : Nat) : Fmt := if out = 1 then Fmt.f32 else if out = 2 then Fmt.bf16 else Fmt.f16

/-- The exact value of an accumulator element of a type. -/
def accVal (int : Bool) (x : Nat) : Num :=
  if int then .ofInt (if x < 2 ^ 47 then (x : Int) else (x : Int) - 2 ^ 48) else Fmt.acc.val x

/-- A value of an output format as an `acc48` code, exact, NaN canonical. -/
def accOf (f : Fmt) (code : Nat) : Nat :=
  match f.val code with
  | .nan => Fmt.acc.nan
  | x => (Fmt.acc.round .rne false 0 x).1

/-- One output conversion (R157): a generator, the code and the flags. -/
def outRound (f : Fmt) (w : FWord) (seed : Word) (x : Num) (nv : Bool) : LaneOut :=
  finish f ⟨w.mode, w.sat, false⟩ seed (x, if nv then flagNV else 0)

/-- The generators of a job (R152). -/
def jobSeeds (seed : Nat) : List Word := (List.range 32).map (laneSeed (BitVec.ofNat 32 seed))

/-- The value of a JACC.out element after its column scale and shift, and whether it is invalid: a NaN scale always is, an
infinite one where the element is zero. DESIGN CHOICE (log entry 110): an infinite element times a zero scale is NaN and sets
no flag. -/
def accScaled (x : Num) (col : Option Num) (shift : Int) : Num × Bool :=
  let y := match col with
    | some k => x.mul k
    | none => x
  (y.scale shift, col.elim false (fun k => k.isNan || (k.isInf && y.isNan && !x.isNan)))

/-- One output row: its bytes, its flags, the generators after it. -/
def accRow (w : FWord) (int : Bool) (cols : List (Option Num)) (shift : Int) (xs : List Nat) (z : List Word) :
    List Byte × BitVec 7 × List Word :=
  let l := (xs.zip (cols.zip z)).map (fun e =>
    let v := accScaled (accVal int e.1) e.2.1 shift
    outRound (outFmt w.out) w e.2.2 v.1 v.2)
  (l.flatMap (fun o => leBytes o.val.toNat (outBytes w.out)), l.foldl (fun f o => f ||| o.flags) 0, l.map (fun o => o.seed))

/-- Every output row in order. -/
def accRows (w : FWord) (int : Bool) (cols : List (Option Num)) (shift : Int) : List (List Nat) → List Word →
    List (List Byte) × BitVec 7
  | [], _ => ([], 0)
  | r :: rest, z =>
    let x := accRow w int cols shift r z
    let y := accRows w int cols shift rest x.2.2
    (x.1 :: y.1, x.2.1 ||| y.2)

/-- Bytes cut into granules from an aligned offset. -/
def granulesOf (off : Nat) (bs : List Byte) : List (Nat × List Byte) :=
  (List.range ((bs.length + 15) / 16)).map (fun i => (off + 16 * i, (bs.drop (16 * i)).take 16))

/-- A JACC card's first step: `.zero` and `.load` are then done, row by row and a tile's tag with its last row; `.out` has its
granules to write. -/
def State.accRun (s : State) (r : CardRef) (g : Workgroup) (c : Card) : EngOut :=
  let w := FWord.of (BitVec.ofNat 32 (cWord c.bytes 0))
  let wd (i : Nat) : Nat := cWord c.bytes (2 + i)
  let op := accOp c.bytes
  let int := fmtInt w.afmt
  let nt := bitsOf (wd 2) 6 6
  let slot := bitsOf (wd 2) 12 2
  let t := bitsOf (wd 2) 0 6
  let key (q : Nat) : Nat := tileKey g.core (g.halfOf slot) (t + q)
  let esz := outBytes w.out
  let rows := List.range (16 * nt)
  let row (q : Nat) : Nat := wd 0 + q * wd 1
  let fill (x : State → Nat → Nat → Nat) : EngOut :=
    (rows.foldl (fun (y : Doing) q =>
      y.part (c.allows [tileRange slot (t + q / 16) 1 true, scratchRange (row q) (if op = 1 then 32 * esz else 0) false]) (fun s =>
        let s := (List.range 32).foldl (fun s j => s.setAcc (key (q / 16)) (q % 16 * 32 + j) (x s q j)) s
        (if q % 16 = 15 then s.setTag (key (q / 16)) int else s, 0))) ⟨s, 0, false⟩).out r
      (fun s => .go (s.modRun r (fun q => { q with done := true })))
  if op = 0 then fill (fun _ _ _ => 0)
  else if op = 1 then
    fill (fun s q j =>
      let x := s.scratchNat g (row q + j * esz) esz
      if w.out = 0 then x else accOf (outFmt w.out) x)
  else if (List.range nt).any (fun q => s.tagAt (key q) != int) then .fail cardType s
  else if !c.allows [tileRange slot t nt false, scratchRange (bitsOf (wd 3) 0 19) (128 * bitsOf (wd 2) 18 1) false] then
    .fail cardBounds s
  else
    let vals := rows.map (fun q => (List.range 32).map (fun j => s.accAt (key (q / 16)) (q % 16 * 32 + j)))
    let cols : List (Option Num) := (List.range 32).map (fun j =>
      if bitsOf (wd 2) 18 1 = 1 then some (Fmt.f32.val (s.scratchNat g (bitsOf (wd 3) 0 19 + 4 * j) 4)) else none)
    let sh := bitsOf (wd 3) 24 8
    let shift : Int := if sh < 128 then sh else (sh : Int) - 256
    let x := if w.out = 0 then (vals.map (fun l => l.flatMap (fun v => leBytes v 6)), (0 : BitVec 7))
      else accRows w int cols shift vals (jobSeeds (cWord c.bytes 1))
    let out := x.1.zipIdx.flatMap (fun e => granulesOf (row e.2) e.1)
    let s := s.modCard r.wg r.seq (fun c => { c with xflags := c.xflags ||| x.2 })
    .go (s.modRun r (fun q => { q with desc := [1], out := out }))

/-- What a card on a half does next. -/
def State.halfNext (s : State) (r : CardRef) (g : Workgroup) (c : Card) (run : Run) : EngOut :=
  if c.kind = 0x10 then s.mmaRun r g c
  else if run.desc.isEmpty then s.accRun r g c
  else match run.out with
    | [] => .go (s.modRun r (fun q => { q with done := true }))
    | e :: rest =>
      if !c.covers 2 e.1 e.2.length true then .fail cardBounds s
      else .go ((s.cardStore r g e.1 e.2).modRun r (fun q => { q with out := rest, done := rest.isEmpty }))

/-! ## JMV (R326 to R329) -/

/-- The pages of a card's global ranges in order. -/
def pagesOf (l : List Range) : List Nat :=
  l.flatMap (fun r => if r.space ≠ 1 ∨ r.len = 0 then [] else
    (List.range ((r.base + r.len - 1) / 4096 - r.base / 4096 + 1)).map (fun i => (r.base / 4096 + i) * 4096))

/-- The pages translated before the first access (R328, R417), each with the machine address that the translation gives; `dram`
asks for one HBM4E stack, whose ISMV is there (R513). -/
def State.pinPages (s : State) (ag : Agent) (dram : Bool) (stack : Option Nat) (w : Bool)
    (pins : List (Nat × Nat)) : List Nat → Reach (List (Nat × Nat)) × State
  | [] => (.ok pins, s)
  | va :: rest =>
    if !canonical (BitVec.ofNat 64 va) then (.fail cardAlign, s)
    else
    let x := s.xlate ag (vaOf (BitVec.ofNat 64 va)) w
    match x.1 with
    | .absent => (.park va w, x.2)
    | .prot => (.fail cardProt, x.2)
    | .xlate => (.fail cardXlate, x.2)
    | .at l =>
      if !dram then x.2.pinPages ag dram stack w (pins ++ [(va, l.addr)]) rest
      else if l.space ≠ .dev ∨ l.addr ≥ 2 ^ 39 ∨ (stack.isSome ∧ stack ≠ some (l.addr / 2 ^ 36)) ∨
          s.boot.ismv.getLsbD (l.addr / 2 ^ 36) = false then (.fail cardBounds, x.2)
      else x.2.pinPages ag dram (some (l.addr / 2 ^ 36)) w (pins ++ [(va, l.addr)]) rest

/-- The lines of global ranges at the places where their pages are pinned. -/
def pinLines (pins : List (Nat × Nat)) (l : List Range) : List Loc :=
  (l.filter (fun r => r.space == 1)).flatMap (fun r => (linesOf r.base r.len).filterMap (fun a =>
    (pins.find? (fun p => p.1 == a / 4096 * 4096)).map (fun p => ⟨.dev, p.2 / 4096 * 4096 + a % 4096⟩)))

/-- Bytes of W or of its scales through the pages that the card translated at its start. -/
def State.pinRead (s : State) (m : MvRun) (va n : Nat) : List Byte :=
  (List.range n).flatMap (fun i => match m.pins.find? (fun p => p.1 == (va + i) / 4096 * 4096) with
    | some p => s.readBytes ⟨.dev, p.2 / 4096 * 4096 + (va + i) % 4096⟩ 1
    | none => [0])

/-- Bytes of x or of its scales as broadcast at the start. -/
def MvRun.xread (m : MvRun) (o n : Nat) : List Byte :=
  (List.range n).map (fun i => match m.xs.find? (fun e => decide (e.1 ≤ o + i) && decide (o + i < e.1 + e.2.length)) with
    | some e => e.2.getD (o + i - e.1) 0
    | none => 0)

/-- The place of a group of 32 elements of a row of W in the stack-resident layout (R298): 32 elements never cross a
256-byte piece. -/
def MvDesc.weightAt (d : MvDesc) (bits n k : Nat) : Nat :=
  let b := k * bits / 8
  d.wbase + n / 32 * 32 * d.rowb + (b / 256 * 32 + n % 32) * 256 + b % 256

/-- The accesses of one element of y. -/
def mvReach (f : FWord) (d : MvDesc) (n v : Nat) : List Range :=
  let wb := fmtClass f.afmt
  let nb := blocksOf d.k
  let glob (a len : Nat) : Range := ⟨1, a, len, false⟩
  (List.range (d.k / 32)).map (fun q => glob (d.weightAt wb n (32 * q)) (4 * wb)) ++
  (if f.asc = 0 then [] else [glob (d.wsbase + n * nb) nb]) ++
  (if f.asc = 2 then [glob (d.wsbase + d.n * nb + n * 2 * nb) (2 * nb)] else []) ++
  [scratchRange (d.ybase + v * d.yld + n * yBytes f) (yBytes f) true]

/-- One element of y. -/
def State.mvElem (s : State) (g : Workgroup) (c : Card) (m : MvRun) (f : FWord) (d : MvDesc) (n v : Nat) :
    List Byte × BitVec 7 :=
  let nb := blocksOf d.k
  let off := d.ybase + v * d.yld + n * yBytes f
  match EFmt.ofCode f.afmt f.ainf, EFmt.ofCode f.bfmt f.binf with
  | some ea, some eb =>
    let wb := fmtClass f.afmt
    let a : MatSide := ⟨ea, wb, 0, 0, f.asc, 0, d.wsbase + n * nb, 0, d.wsbase + d.n * nb + n * 2 * nb⟩
    let b : MatSide := ⟨eb, fmtClass f.bfmt, d.xbase, d.xld, f.bsc, nb, d.xsbase, 0, 0⟩
    let y0 := s.scratchNat g off (yBytes f)
    let acc := if !f.acc then 0 else if f.out = 0 then y0 else accOf Fmt.f32 y0
    -- side a has base 0: an address below K bytes that asks for a whole group is a place in the row of W
    let ra (addr len : Nat) : List Byte :=
      if len = 4 * wb ∧ addr < d.k then s.pinRead m (d.weightAt wb n (addr * 8 / wb)) len else s.pinRead m addr len
    let x := dotGo a b ra m.xread n v (d.k / 32) 0 acc
    if f.out = 0 then (leBytes x.1 6, x.2)
    else
      let z := (List.range n).foldl (fun z _ => nextSeed z) (laneSeed (BitVec.ofNat 32 (cWord c.bytes 1)) v)
      let o := outRound Fmt.f32 f z (accVal (fmtInt f.afmt) x.1) false
      (leBytes o.val.toNat 4, x.2 ||| o.flags)
  | _, _ => (List.replicate (yBytes f) 0, 0)

/-- The start of a JMV card, before it reads any weight: the pages of its global ranges are translated, dirty copies of them
are written back, and x and its scales are broadcast (R328, R329). -/
def State.mvStart (s : State) (r : CardRef) (g : Workgroup) (c : Card) (f : FWord) (d : MvDesc) : EngOut :=
  let nb := blocksOf d.k
  let glob := (cRanges c.bytes).filter (fun x => x.space == 1)
  let xs := (List.range d.b).flatMap (fun v => [(d.xbase + v * d.xld, fmtBytes f.bfmt d.k)] ++
    (if f.bsc = 0 then [] else [(d.xsbase + v * nb, nb)]))
  let p := s.pinPages (g.cardAgent r 0x12) true none false [] (pagesOf glob)
  match p.1 with
  | .park va w => .park va w p.2
  | .fail k => .fail k p.2
  | .wait => .idle
  | .ok pins =>
    let lines := pinLines pins glob
    match (if p.2.dir.isEmpty then none else p.2.recallPlaces false (lines.map (fun l => (l, 64)))) with
    | some t => .go t
    | none =>
      let s := lines.foldl (fun s l => s.writeBack (lineKey .dev l.addr) false) p.2
      if !c.allows (xs.map (fun e => scratchRange e.1 e.2 false)) then .fail cardBounds s
      else
        .go (s.modCard r.wg r.seq (fun c => { c with mv := some ⟨pins, xs.map (fun e => (e.1, s.scratchRead g e.1 e.2))⟩ }))

/-- One turn of a JMV card: its start, then a chunk at a time: 32 rows for every vector. -/
def State.mvNext (s : State) (r : CardRef) (g : Workgroup) (c : Card) : EngOut :=
  let f := FWord.of (BitVec.ofNat 32 (cWord c.bytes 0))
  let d := MvDesc.of c.bytes
  match c.mv with
  | none => s.mvStart r g c f d
  | some m =>
    if c.prog * 32 ≥ d.n then .idle
    else
      let rows := (List.range 32).filterMap (fun i => if 32 * c.prog + i < d.n then some (32 * c.prog + i) else none)
      let x := rows.foldl (fun (x : Doing) n => (List.range d.b).foldl (fun (x : Doing) v =>
        x.part (c.allows (mvReach f d n v)) (fun s =>
          let y := s.mvElem g c m f d n v
          (s.cardStore r g (d.ybase + v * d.yld + n * yBytes f) y.1, y.2))) x) (⟨s, 0, false⟩ : Doing)
      x.out r (fun s => .go (s.modCard r.wg r.seq (fun c => { c with prog := c.prog + 1 })))

end Sys2Proof.Machine
end

