-- ==== Sys2Proof/Machine/Rot.lean ====
section
/-! DEFINITION. Rot.lean: the rotation collective: its card at the endpoint, its slots, and the packets of the Etesian
protocol (R410 to R430). -/

namespace Sys2Proof.Machine

open Sys2Proof

/-! ## The running card -/

/-- The rotation of a run changed. -/
def State.modRot (s : State) (r : CardRef) (f : RotRun → RotRun) : State :=
  s.modRun r (fun q => { q with rot := q.rot.map f })

/-- A slot changed. -/
def RotRun.modSlot (x : RotRun) (j : Nat) (f : RotSlot → RotSlot) : RotRun :=
  { x with slots := x.slots.mapIdx (fun i t => if i = j then f t else t) }

/-- The block in a slot, once it has begun to land. -/
def RotSlot.block? (t : RotSlot) : Option Nat :=
  match t.st with
  | .landing k | .held k => some k
  | _ => none

/-- The pieces of a block. -/
def RotDesc.pieces (d : RotDesc) : Nat := d.blk / 256

/-- Where a piece of a slot stands in scratchpad. -/
def RotDesc.pieceAt (d : RotDesc) (j i : Nat) : Nat := d.rbase + j * d.blk + 256 * i

/-- Bytes of a piece land in a slot: full bits are set (R419), and nothing is delivered (R412). -/
def State.landBytes (s : State) (g : Workgroup) (off : Nat) (bs : List Byte) : State :=
  let s := s.scratchWrite g off bs
  (List.range (bs.length / 16)).foldl (fun s i => s.setFe (granuleOf g (off + 16 * i)) true) s

/-- A piece has landed in slot j: the last one makes the block held, and it is acknowledged to the predecessor. -/
def State.pieceLanded (s : State) (r : CardRef) (g : Workgroup) (d : RotDesc) (x : RotRun) (j k i : Nat) : State :=
  let t := x.slots.getD j ⟨.free, [], [], false⟩
  let all := t.landed.length + 1 = d.pieces
  let s := s.modRot r (fun x => { x.modSlot j (fun t => { t with
    st := if all then .held k else .landing k
    landed := i :: t.landed }) with since := s.clock })
  if all ∧ k ≠ 0 then
    match s.neighbours g.vd d.fgrp with
    | some (p, _, _, _) => s.rotPost g.vd p.1 p.2 opAck (rotOpnd d.rid d.fgrp k j 0 false 0 0)
    | none => s
  else s

/-- A grant to the predecessor. -/
def State.sendGrant (s : State) (g : Workgroup) (d : RotDesc) (j k : Nat) : State :=
  match s.neighbours g.vd d.fgrp with
  | some (p, _, _, _) => s.rotPost g.vd p.1 p.2 opAck (rotOpnd d.rid d.fgrp k j 0 true d.nstep d.blk256)
  | none => s

/-- The consumption counter of an attention rotation. -/
def State.rotCount (s : State) (g : Workgroup) (d : RotDesc) : Nat := if d.cons = 0 then s.scratchNat g d.cbase 8 else 0

/-- Whether the block k in a slot is consumed (R423 to R425). -/
def State.rotConsumed (s : State) (g : Workgroup) (d : RotDesc) (x : RotRun) (t : RotSlot) (k : Nat) : Bool :=
  if d.cons = 0 then decide (k + 1 ≤ (s.rotCount g d + 2 ^ 64 - x.c0) % 2 ^ 64) else t.used.length == d.pieces

/-! ## The start (R417, R418) -/

/-- A page of a rotation's ranges translated; no access has been made. -/
def State.rotPin (s : State) (r : CardRef) (g : Workgroup) : List Range → Reach Unit × State
  | [] => (.ok (), s)
  | q :: rest =>
    let x := s.pinPages (g.cardAgent r 0x20) false none q.w [] (pagesOf [q])
    match x.1 with
    | .ok _ => x.2.rotPin r g rest
    | .wait => (.wait, x.2)
    | .park va w => (.park va w, x.2)
    | .fail k => (.fail k, x.2)

/-- The start of a card: the group, the pages, the slots, the first grants, and the held grants of its RID. -/
def State.rotStart (s : State) (r : CardRef) (g : Workgroup) (c : Card) (d : RotDesc) : EngOut :=
  match s.neighbours g.vd d.fgrp with
  | none => .fail cardDesc s
  | some (_, _, me, n) =>
    if d.nstep + 1 ≠ n then .fail cardDesc s
    else if !c.allows (rotFoot d) then .fail cardBounds s
    else
      let p := s.rotPin r g (rotFoot d)
      match p.1 with
      | .park va w => .park va w p.2
      | .fail k => .fail k p.2
      | .wait => .idle
      | .ok _ =>
        let s := p.2
        let fk := g.vd * 64 + d.fgrp
        let held : List (Nat × Nat × Nat × Nat × Nat × Nat) := match Tab.get? s.fgs fk with
          | some f => f.held.filter (fun h => h.1 == d.rid)
          | none => []
        let s := { s with fgs := Tab.modify s.fgs fk (fun f => { f with held := f.held.filter (fun h => h.1 != d.rid) }) }
        let slot (j : Nat) : RotSlot :=
          ⟨if j = 0 then .landing 0 else if j ≤ d.nstep then .granted j else .free, [], [], false⟩
        let count := s.rotCount g d
        let x : RotRun := ⟨me, n, (List.range d.slots).map slot, count, count, held.map (fun h => (h.2.1, h.2.2.1)), [], s.clock⟩
        let s := s.modRun r (fun q => { q with rot := some x })
        let s := (List.range d.slots).foldl (fun s j => if 1 ≤ j ∧ j ≤ d.nstep then s.sendGrant g d j j else s) s
        if held.any (fun h => h.2.2.2.1 != d.nstep || h.2.2.2.2.1 != d.blk256) then .fail cardPeer s else .go s

/-! ## One piece at a time -/

/-- The work in progress: the slot, the piece and the granule of a local copy, a sum or a destination write, coded in the
run's `prog`; 0 where there is none. -/
def rotCode (j i q : Nat) : Nat := 1 + (j * 2048 + i) * 16 + q

/-- One granule of a reduction: the sum of the slot's elements and the card's own chunk, and its flags (R425). -/
def reduceGranule (w : FWord) (a b : List Byte) : List Byte × BitVec 7 :=
  let n := outBytes w.out
  let f := if w.out = 1 then Fmt.f32 else if w.out = 2 then Fmt.bf16 else Fmt.f16
  (List.range (16 / n)).foldl (fun (x : List Byte × BitVec 7) e =>
    let at' (l : List Byte) : Num := f.val (leNat ((l.drop (e * n)).take n))
    let y := finish f ⟨w.mode, w.sat, false⟩ 0 (addNum (w.mode == .rd) (at' a) (at' b))
    (x.1 ++ leBytes y.val.toNat n, x.2 ||| y.flags)) ([], 0)

/-- A granule written at the destination. -/
def State.rotOut (s : State) (r : CardRef) (g : Workgroup) (c : Card) (d : RotDesc) (off : Nat) (bs : List Byte) :
    Reach Unit × State :=
  let a := (d.dst + off) % 2 ^ 64
  if d.dsp = 1 then s.cardWrite r g c a 0xFF bs else (.ok (), s.cardStore r g a bs)

/-- One granule of a piece: for block 0 the copy from SRC into the slot, while the piece has not landed; afterwards, and for
every later block, what the consumer does with it. -/
def State.rotGranule (s : State) (r : CardRef) (g : Workgroup) (c : Card) (run : Run) (w : FWord) (d : RotDesc) (x : RotRun)
    (t : RotSlot) (j k i q : Nat) : Reach Unit × State :=
  let off := 256 * i + 16 * q
  let at' := d.pieceAt j i + 16 * q
  if k = 0 ∧ !t.landed.contains i then
    let chunk := if d.cons = 2 then (x.me + x.g - 1) % x.g else 0
    let y := s.cardRead r g c run d.ssp (d.src + chunk * d.blk + off) 16
    match y.1 with
    | .ok bs => (.ok (), y.2.landBytes g at' bs)
    | .wait => (.wait, y.2)
    | .park va wr => (.park va wr, y.2)
    | .fail n => (.fail n, y.2)
  else
    let bs := s.scratchRead g at' 16
    if d.cons = 1 then s.rotOut r g c d ((x.me + x.g * 256 - k) % x.g * d.blk + off) bs
    else if k = 0 then (.ok (), s)
    else
      let chunk := (x.me + x.g * 256 - k - 1) % x.g
      let y := s.cardRead r g c run d.ssp (d.src + chunk * d.blk + off) 16
      match y.1 with
      | .ok own =>
        let z := reduceGranule w bs own
        let o := if k = d.nstep then y.2.rotOut r g c d off z.1 else (.ok (), y.2)
        match o.1 with
        | .ok _ =>
          (.ok (), (o.2.scratchWrite g at' z.1).modCard r.wg r.seq (fun c => { c with xflags := c.xflags ||| z.2 }))
        | _ => o
      | .wait => (.wait, y.2)
      | .park va wr => (.park va wr, y.2)
      | .fail n => (.fail n, y.2)

/-- The granules of a piece as far as they go; the last one ends the piece. A granule that waits is the one that goes on. -/
def rotPieceGo (r : CardRef) (w : FWord) (d : RotDesc) (j i : Nat) : Nat → Nat → State → EngOut
  | 0, _, s => .go s
  | fuel + 1, q, s =>
    match s.card? r, (s.engines.findSome? (fun e => e.2.run.filter (fun y => y.card == r))) with
    | some (g, c), some run =>
      match run.rot with
      | none => .idle
      | some x =>
        let t := x.slots.getD j ⟨.free, [], [], false⟩
        match t.block? with
        | none => .go (s.modRun r (fun y => { y with prog := 0 }))
        | some k =>
          if q ≥ 16 then
            let s := s.modRun r (fun y => { y with prog := 0 })
            if k = 0 ∧ !t.landed.contains i then .go (s.pieceLanded r g d x j 0 i)
            else .go (s.modRot r (fun x => { x.modSlot j (fun t => { t with used := i :: t.used }) with since := s.clock }))
          else
            let y := s.rotGranule r g c run w d x t j k i q
            match y.1 with
            | .ok _ =>
              rotPieceGo r w d j i fuel (q + 1) (y.2.modRun r (fun y => { y with prog := rotCode j i (q + 1), got := none }))
            | .wait | .park _ _ => .go (y.2.modRun r (fun y => { y with prog := rotCode j i q }))
            | .fail n => .fail n y.2
    | _, _ => .idle

/-- The piece that the endpoint works on next: the rest of block 0, then a landed piece that is not consumed. -/
def RotRun.nextPiece (x : RotRun) (d : RotDesc) : Option (Nat × Nat) :=
  let local' : Option (Nat × Nat) := match x.slots.head? with
    | some t => if t.st = SlotState.landing 0 then ((List.range d.pieces).find? (fun i => !t.landed.contains i)).map (fun i => (0, i))
      else none
    | none => none
  match local' with
  | some p => some p
  | none =>
    if d.cons = 0 then none
    else x.slots.zipIdx.findSome? (fun (e : RotSlot × Nat) =>
      if e.1.block?.isNone then none
      else ((List.range d.pieces).find? (fun i => e.1.landed.contains i && !e.1.used.contains i)).map (fun i => (e.2, i)))

/-- The next piece that may be sent: a granted block, in increasing offset, once the piece stands in its own slot and, with
a reduction, is summed (R420, R425). -/
def RotRun.nextSend (x : RotRun) (d : RotDesc) : Option (Nat × Nat × Nat × Nat) :=
  x.grants.findSome? (fun gr =>
    x.slots.zipIdx.findSome? (fun (e : RotSlot × Nat) =>
      match e.1.block? with
      | some b =>
        if b + 1 = gr.1 ∧ b < d.nstep then
          match (List.range d.pieces).find? (fun i => !x.sent.contains (b, i)) with
          | some i =>
            let ready := e.1.landed.contains i && (d.cons != 2 || b == 0 || e.1.used.contains i)
            if ready then some (b, e.2, i, gr.2) else none
          | none => none
        else none
      | none => none))

/-- A slot whose block is consumed and forwarded. -/
def State.rotFreed (s : State) (g : Workgroup) (d : RotDesc) (x : RotRun) : Option (Nat × Nat) :=
  x.slots.zipIdx.findSome? (fun (e : RotSlot × Nat) => match e.1.st with
    | .held k => if s.rotConsumed g d x e.1 k && (e.1.acked || k == d.nstep) then some (e.2, k) else none
    | _ => none)

/-- A slot freed, and granted again where the rotation goes on (R419). -/
def State.rotFree (s : State) (r : CardRef) (g : Workgroup) (d : RotDesc) (j k : Nat) : State :=
  let s := if d.cons = 0 then s else
    (List.range (d.blk / 16)).foldl (fun s i => s.setFe (granuleOf g (d.rbase + j * d.blk + 16 * i)) false) s
  let again := k + d.slots ≤ d.nstep
  let s := s.modRot r (fun x => { x.modSlot j (fun _ =>
    ⟨if again then .granted (k + d.slots) else .free, [], [], false⟩) with since := s.clock })
  if again then s.sendGrant g d j (k + d.slots) else s

/-- What a rotation card does next. -/
def State.rotNext (s : State) (r : CardRef) (g : Workgroup) (c : Card) (run : Run) : EngOut :=
  let d := RotDesc.of c.bytes
  let w := FWord.of (BitVec.ofNat 32 (cWord c.bytes 0))
  if c.code ≠ 0 then .fail c.code s
  else match run.rot with
  | none => s.rotStart r g c d
  | some x =>
    let busy := run.got.isNone && s.reqs.any (fun q => q.who == .card r && q.op == opRdu)
    let piece : Option (Nat × Nat × Nat) :=
      if run.prog ≠ 0 then some ((run.prog - 1) / 32768, (run.prog - 1) / 16 % 2048, (run.prog - 1) % 16)
      else (x.nextPiece d).map (fun p => (p.1, p.2, 0))
    match piece.filter (fun _ => !busy) with
    | some (j, i, q) => rotPieceGo r w d j i 17 q s
    | none =>
      match x.nextSend d, s.neighbours g.vd d.fgrp with
      | some (b, j, i, slot), some (_, n, _, _) =>
        match s.rotSend g.vd n.1 n.2 opWru (rotOpnd d.rid d.fgrp (b + 1) slot i false 0 0)
            (s.scratchRead g (d.pieceAt j i) 256) with
        | some t => .go (t.modRot r (fun x => { x with sent := (b, i) :: x.sent }))
        | none =>
          let t := s.markStall g.vd n.1
          if t = s then .idle else .go t
      | _, _ =>
        if s.rotCount g d ≠ x.seen then .go (s.modRot r (fun x => { x with seen := s.rotCount g d, since := s.clock }))
        else match s.rotFreed g d x with
          | some (j, k) => .go (s.rotFree r g d j k)
          | none =>
            if x.slots.all (fun t => t.st == .free) then .go (s.modRun r (fun q => { q with done := true })) else .idle

/-! ## Packets (R420 to R422) -/

/-- The card's rotation number RID in OPND. -/
def rotRid (p : Packet) : Nat := (slice p.opnd 53 16).toNat
/-- The block number at the receiver of the data. -/
def rotBlock (p : Packet) : Nat := (slice p.opnd 39 8).toNat
/-- The slot at the receiver of the data. -/
def rotSlot (p : Packet) : Nat := (slice p.opnd 36 3).toNat

/-- The running card of a rotation on this device. -/
def State.rotOf (s : State) (vd fg rid : Nat) : Option (CardRef × Workgroup × Card × RotRun) :=
  s.engines.findSome? (fun e => match e.2.run with
    | some q =>
      match q.rot, s.card? q.card with
      | some x, some (g, c) =>
        let d := RotDesc.of c.bytes
        if g.vd == vd && d.fgrp == fg && d.rid == rid then some (q.card, g, c, x) else none
      | _, _ => none
    | none => none)

/-- A rotation packet arrives. -/
def State.rotArrive (s : State) (p : Packet) (f : State → State) : Res :=
  if p.oclass ≠ 4 then .next s
  else .next (s.arrive p 4 (fun s => s.reply p opNack 4 ((p.opnd &&& ~~~(0xFF#192)) ||| BitVec.ofNat 192 nackGone) [])
    (fun _ s => f s))

/-- A grant arrives: the running card of its RID uses it, else it is held; the ninth held grant of a group is dropped. -/
def execRotGrant (p : Packet) (s : State) : Res :=
  if p.op.toNat ≠ opAck ∨ p.opnd.getLsbD 0 = false then .next s
  else s.rotArrive p (fun s =>
    let vd := p.tvd.toNat
    let ns := (slice p.opnd 80 8).toNat
    let blk := (slice p.opnd 69 11).toNat
    match s.rotOf vd (rotGrp p) (rotRid p) with
    | some (r, _, c, _) =>
      let d := RotDesc.of c.bytes
      if ns ≠ d.nstep ∨ blk ≠ d.blk256 then s.failCard r cardPeer
      else s.modRot r (fun x => { x with grants := x.grants ++ [(rotBlock p, rotSlot p)], since := s.clock })
    | none =>
      let k := vd * 64 + rotGrp p
      match Tab.get? s.fgs k with
      | none => s.portError ((s.fresh 250).toNat % 16)
      | some f =>
        if f.held.length ≥ 8 then s.portError ((s.fresh 250).toNat % 16)
        else { s with fgs := Tab.put s.fgs k { f with
          held := f.held ++ [(rotRid p, rotBlock p, rotSlot p, ns, blk, s.clock)] } })

/-- A piece arrives: it lands, or is dropped and counted. -/
def execRotPiece (p : Packet) (s : State) : Res :=
  if p.op.toNat ≠ opWru then .next s
  else s.rotArrive p (fun s =>
    let drop := s.portError ((s.fresh 250).toNat % 16)
    let i := (slice p.opnd 25 11).toNat
    match s.rotOf p.tvd.toNat (rotGrp p) (rotRid p) with
    | none => drop
    | some (r, g, c, x) =>
      let d := RotDesc.of c.bytes
      let k := rotBlock p
      let j := rotSlot p
      let t := x.slots.getD j ⟨.free, [], [], false⟩
      let open' := t.st == .granted k || t.st == .landing k
      if j < d.slots ∧ open' = true ∧ i < d.pieces ∧ !t.landed.contains i then
        (s.landBytes g (d.pieceAt j i) (p.data.take 256)).pieceLanded r g d x j k i
      else drop)

/-- A landing acknowledgement arrives: the block before it is forwarded. -/
def execRotAck (p : Packet) (s : State) : Res :=
  if p.op.toNat ≠ opAck ∨ p.opnd.getLsbD 0 = true then .next s
  else s.rotArrive p (fun s =>
    match s.rotOf p.tvd.toNat (rotGrp p) (rotRid p) with
    | none => s
    | some (r, _, _, _) =>
      s.modRot r (fun x => { x with
        since := s.clock
        grants := x.grants.filter (fun gr => gr.1 != rotBlock p)
        sent := x.sent.filter (fun e => e.1 + 1 != rotBlock p)
        slots := x.slots.map (fun t => if t.block?.map (· + 1) == some (rotBlock p) then { t with acked := true } else t) }))

/-- The cards of a rotation that run, wait in a rotation queue of this device or are parked at their start. -/
def State.rotCards (s : State) (vd fg rid : Nat) : List CardRef :=
  s.wgs.flatMap (fun g => if g.2.vd ≠ vd then [] else (g.2.cards.filter (fun c =>
    c.kind == 0x20 && [CardState.queued, .running, .parked].contains c.st && (RotDesc.of c.bytes).fgrp == fg &&
      (RotDesc.of c.bytes).rid == rid)).map (fun c => ⟨g.1, c.seq⟩))

/-- An abort, or the answer of an endpoint that is gone: the cards of the RID fail with PEER, and held grants of the RID are
discarded. -/
def execRotAbort (p : Packet) (s : State) : Res :=
  let why := (slice p.opnd 0 8).toNat
  if p.op.toNat ≠ opNack ∨ (why ≠ 6 ∧ why ≠ nackGone) then .next s
  else s.rotArrive p (fun s =>
    let s := { s with fgs := Tab.modify s.fgs (p.tvd.toNat * 64 + rotGrp p) (fun f => { f with
      held := f.held.filter (fun h => h.1 != rotRid p) }) }
    (s.rotCards p.tvd.toNat (rotGrp p) (rotRid p)).foldl (fun s r => s.failCard r cardPeer) s)

/-! ## Time limits (R420, R427) -/

/-- The cycles of a group's rotation timeout. -/
def FGroup.cycles (f : FGroup) : Nat := f.timeout * 1300000

/-- The rotation of a number that has met no progress for the timeout of its group. -/
def State.rotLate (s : State) (n : Nat) : Option CardRef :=
  match (s.engine (.rot n)).run with
  | none => none
  | some q =>
    match q.rot, s.card? q.card with
    | some x, some (g, c) =>
      let d := RotDesc.of c.bytes
      let t := match Tab.get? s.fgs (g.vd * 64 + d.fgrp) with
        | some f => f.cycles
        | none => 0
      if s.clock ≥ x.since + t ∧ s.rotCount g d = x.seen then some q.card else none
    | _, _ => none

/-- A rotation that has met no progress for the timeout of its group fails. `n` is the number under which it runs. -/
def execRotTimeout (n : Nat) (s : State) : Res :=
  match s.rotLate n with
  | some r => .next (s.failCard r cardPeer)
  | none => .next s

/-- A held grant that no card has taken up within the timeout is discarded. -/
def execRotHeldGrantExpire (vd fg : Nat) (s : State) : Res :=
  .next { s with fgs := Tab.modify s.fgs (vd * 64 + fg) (fun f => { f with
    held := f.held.filter (fun h => decide (s.clock < h.2.2.2.2.2 + f.cycles)) }) }

/-- The rotations of a virtual device that have a device as neighbour fail: its endpoint has retired (R427). -/
def State.rotPeerGone (s : State) (vd dev : Nat) : State :=
  (s.rotNeighbour vd dev).foldl (fun s r => s.failCard r cardPeer) s

end Sys2Proof.Machine
end

