-- ==== Sys2Proof/Machine/Endpoint.lean ====
section
/-! DEFINITION. Endpoint.lean: retirement and return of a peer's endpoint, and the time limits of streams and keys (R354 to
R359, R383, R427). -/

namespace Sys2Proof.Machine

open Sys2Proof

/-- Every directory entry of a virtual device's lines loses a device, with what it asked for; what waited for its IACK goes on
(R355). -/
def State.forgetHolder (s : State) (vd dev : Nat) : State :=
  s.dir.foldl (fun s x =>
    if fotOwner (s.fotOf (x.1 / 1024)) ≠ vd then s
    else
      let e := s.dirAt x.1
      let s := s.setDir x.1 { e with
        owner := e.owner.filter (fun o => o.1 != dev), sharers := e.sharers.filter (fun o => o.1 != dev)
        pending := e.pending.map (fun x => if x.1.op ≠ 15 ∧ x.1.sdev.toNat = dev then
          ({ localRecall with ifa := if Packet.writes x.1 then 1 else 0 }, x.2) else x)
        waiting := e.waiting.filter (fun p => p.sdev.toNat != dev) }
      s.yielded x.1 dev true) s

/-- A peer's endpoint has retired: what this device holds of it is dropped (R355), its groups are LOST (R383), rotations
beside it fail (R427). -/
def State.peerRetired (s : State) (vd dev svd : Nat) : State :=
  let s := s.refuseAll vd dev nackGone
  let lines := s.llc.filter (fun e => e.1 / 2 ^ 60 == 3 && e.2.vd == vd && ifaDev (e.1 % 2 ^ 60 * 64) == dev)
  let s := lines.foldl (fun s e => (s.discardLine e.1).dropL1 e.1) s
  let s := s.forgetHolder vd dev
  let alive (p : Packet) : Bool := !(p.sdev.toNat == dev && p.svd.toNat == svd) && !(p.tdev.toNat == dev && p.tvd.toNat == svd)
  let s := { s with
    halo := s.halo.filter alive
    out := s.out.filter alive
    unsent := s.unsent.filter (fun m => !(m.vd == vd && m.dev == dev))
    iacks := s.iacks.filter alive
    allow := s.allow.filter (fun e => e.1 / 8 != dev * 512 + vd) }
  let s := s.modVd vd (fun v => { v with
    pmap := Tab.put v.pmap dev { Tab.getD v.pmap dev ⟨false, 0, 0⟩ with v := false } })
  (s.rotPeerGone vd dev).loseGroupsOf vd dev

/-- RETIRE arrives from a member of the partition; RACK answers it. -/
def execRetire (p : Packet) (s : State) : Res :=
  if p.op.toNat ≠ opRetire ∨ p.oclass ≠ 6 ∨ p.tdev.toNat ≠ s.devid ∨ Packet.reserved p = true then .next (s.wrongClass p true)
  else
    let s := s.countFlits p
    match Tab.get? s.vds p.tvd.toNat with
    | none => .next s
    | some v =>
      let e := Tab.getD v.pmap p.sdev.toNat ⟨false, 0, 0⟩
      if !s.tagOk v p then .next (s.faultStream p.tvd.toNat p.sdev.toNat)
      else
        let s := s.modVd p.tvd.toNat (fun v => v.noteEpoch p s.clock)
        let s := if e.v && e.pvd == p.svd && e.inc == p.sinc then
            s.peerRetired p.tvd.toNat p.sdev.toNat p.svd.toNat else s
        .next (s.reply p opRack 6 0 [])

/-- RACK arrives. -/
def execRack (p : Packet) (s : State) : Res :=
  if p.op.toNat ≠ opRack ∨ p.oclass ≠ 6 ∨ p.tdev.toNat ≠ s.devid ∨ Packet.reserved p = true then .next (s.wrongClass p true)
  else
    let s := s.countFlits p
    match Tab.get? s.vds p.tvd.toNat with
    | none => .next s
    | some v =>
      if !s.tagOk v p then .next (s.faultStream p.tvd.toNat p.sdev.toNat)
      else .next (s.modVd p.tvd.toNat (fun v => { v.noteEpoch p s.clock with racks := v.racks.filter (· != p.sdev.toNat) }))

/-- ANNOUNCE arrives from a member: its entry becomes valid with its new incarnation. -/
def execAnnounce (p : Packet) (s : State) : Res :=
  if p.op.toNat ≠ opAnnounce ∨ p.oclass ≠ 6 ∨ p.tdev.toNat ≠ s.devid ∨ Packet.reserved p = true then
    .next (s.wrongClass p true)
  else
    let s := s.countFlits p
    match Tab.get? s.vds p.tvd.toNat with
    | none => .next s
    | some v =>
      if !s.tagOk v p then .next (s.faultStream p.tvd.toNat p.sdev.toNat)
      else
        let s := s.modVd p.tvd.toNat (fun v => v.noteEpoch p s.clock)
        let e := Tab.getD v.pmap p.sdev.toNat ⟨false, 0, 0⟩
        if !v.members.contains p.sdev.toNat || e.pvd != p.svd then .next s
        else .next (s.modVd p.tvd.toNat (fun v => { v with
          pmap := Tab.put v.pmap p.sdev.toNat { e with v := true, inc := p.sinc } }))

/-- REINCARNATION_TIMEOUT: a member unreachable for 100 ms no longer holds reincarnation back. -/
def execReincarnationTimeout (vd dev : Nat) (s : State) : Res :=
  .next (s.modVd vd (fun v =>
    if s.clock ≥ v.rackAt + 130000000 then { v with racks := v.racks.filter (· != dev) } else v))

/-- OLD_KEY_DROP: 1 ms after the first packet of a new epoch its receiver drops the old key. -/
def execOldKeyDrop (vd dev : Nat) (s : State) : Res :=
  .next (s.modVd vd (fun v =>
    let st := v.stream dev
    match st.oldTill with
    | some t => if t ≠ 0 ∧ s.clock ≥ t then { v with streams := Tab.put v.streams dev { st with oldTill := some 0 } } else v
    | none => v))

/-- STREAM_FAULT: a stream that has stalled for 10 ms without a key faults. -/
def execStreamFault (vd dev : Nat) (s : State) : Res :=
  match Tab.get? s.vds vd with
  | none => .next s
  | some v =>
    match (v.stream dev).stallAt with
    | some t => if s.clock ≥ t + 13000000 then .next (s.faultStream vd dev) else .next s
    | none => .next s

end Sys2Proof.Machine
end

