-- ==== Sys2Proof/Machine/System.lean ====
section
/-! DEFINITION. System.lean: special registers, traps and their return, sticky flags, interrupts, probes and invalidations
of translations, and the migration lock (R431 to R456). -/

namespace Sys2Proof.Machine

open Sys2Proof

/-! ## Reading special registers (R33, R49, R282, R364, R431, R434, R495) -/

/-- `%cgroup`. -/
def Wave.cgroup (w : Wave) : Nat :=
  match w.member with
  | some m => 2 ^ 31 + m.grp % 64
  | none => 0

/-- `%cmember`. -/
def Wave.cmember (w : Wave) (devid : Nat) : Nat :=
  match w.member with
  | some m => devid * 65536 + m.pos
  | none => 0

/-- `%cstate`. -/
def Wave.cstate (w : Wave) : Nat :=
  let sp := match w.spec with
    | some p => 2 ^ 29 + (match p.guard with | some n => 2 ^ 27 + n * 2 ^ 24 | none => 0)
    | none => 0
  w.last.toNat * 2 ^ 30 + sp + (if w.sent then 2 ^ 28 else 0) + (if w.sm then 2 ^ 23 else 0) + w.round.toNat

/-- The value of a special register in a lane, for the instruction `i` that reads it. -/
def State.sregVal (s : State) (i : Iss) (g : Workgroup) (c : Context) (r : SReg) (l : Nat) : Nat :=
  let w := i.w
  match r with
  | .laneid => l
  | .waveid => w.waveid
  | .tid => w.waveid * 32 + l
  | .wgid => g.wgid
  | .gangid => g.gang
  | .stage => w.stage
  | .coreid => g.core
  | .spid => spOf i.k
  | .devid => s.devid
  | .nwaves => g.nwaves
  | .wgsize => g.nthr
  | .gangsize => g.gangsz
  | .ngangs => match Tab.get? s.launches g.launch with
    | some la => la.rcd.ngangs
    | none => 0
  | .salloc => g.salloc
  | .clock => s.clock
  | .time => timeNs s.clock
  | .fair => w.fair.toNat
  | .dscope => w.dscope.toNat
  | .maxscope => s.maxScope w
  | .trapen => w.trapen.toNat
  | .rmode => w.rmode.toNat
  | .srseed => (w.seedOf l).toNat
  | .jring => g.jlog * 2 ^ 19 + g.jbase
  | .jnotify => g.jnotify
  | .parked => w.parked.toNat
  | .active => i.act.toNat
  | .frontier => i.pc.toNat
  | .trapvec => c.trapvec.toNat
  | .tcause => w.tcause.toNat
  | .tmask => w.tmask.toNat
  | .tpc => w.tpc.toNat
  | .taddr => w.taddr.toNat
  | .tcount => w.tcount.toNat
  | .tframe => w.tframe.toNat
  | .cgroup => w.cgroup
  | .cmember => w.cmember s.devid
  | .cstate => w.cstate
  | .cjournal => g.journal + w.waveid * g.jrnSize
  | .cspec => g.jrnSize * 65536 + (match w.spec with | some p => p.used | none => 0)
  | .ctxid => g.vd * 64 + g.ctx
  | .pasid => c.pasid
  | .savectr => c.savectr.toNat
  | .pmovf => match Tab.get? s.vds g.vd with
    | some v => v.pmovf.toNat
    | none => 0
  | .pmset => match s.setOf g.vd with
    | some n => 2 ^ 31 + n
    | none => 0

/-- MOVSR: a vector destination takes each participating lane's value, a scalar one that of the lowest lane of
`active()`. -/
def execMovsr (h : Hdr) (d : RegDst) (idx : BitVec 10) (s : State) : Res :=
  issue h 8 .proceeds false s (fun i s =>
    match s.wgOf i.w, SReg.ofIdx idx.toNat with
    | some g, some r =>
      match s.ctx? g.vd g.ctx with
      | none => s
      | some c =>
        if i.part = 0 then s.setWave i.k (i.step i.w)
        else
          let regs := codeRegs (regCode d) (if r.wide then 2 else 1)
          let words (l : Nat) : List Word :=
            let x := BitVec.ofNat 64 (s.sregVal i g c r l)
            if r.wide then [slice x 0 32, slice x 32 32] else [slice x 0 32]
          match s.permit i.w regs.1 regs.2 false 0 with
          | none => s.stallSpec i.k
          | some w =>
            let w := if regScalar d then w.setRegs (regCode d) 0 (words (i.act.lowest.getD 0))
              else i.part.lanes.foldl (fun (w : Wave) l => w.setRegs (regCode d) l (words l)) w
            s.setWave i.k (i.step w)
    | _, _ => s)

/-! ## Writing special registers (R58, R148, R150, R162, R237, R431, R435, R495) -/

/-- `%rmode` after a write: 6 and 7 leave RM as it is. -/
def writeRmode (old x : Word) : Word :=
  let rm : BitVec 3 := if (slice x 0 3).toNat ≥ 6 then slice old 0 3 else slice x 0 3
  (slice x 3 1 ++ rm).setWidth 32

/-- `%dscope` after a write: 11 to 15 leave SCOPE as it is; DEMOTED is only ever cleared. -/
def writeDscope (old x : Word) : Word :=
  let sc : BitVec 4 := if (slice x 0 4).toNat ≥ 11 then slice old 0 4 else slice x 0 4
  (if old.getLsbD 8 && x.getLsbD 8 then 0x100 else 0) ||| sc.setWidth 32

/-- The generator states after a write: every lane from a scalar seed, the participating lanes from a register. -/
def Wave.writeSeed (w : Wave) (part : Mask) (vec : Bool) (x : Nat → Word) : Wave :=
  if vec then part.lanes.foldl (fun (w : Wave) l => w.setSeed l (fixSeed (x l))) w
  else (List.range 32).foldl (fun (w : Wave) l => w.setSeed l (laneSeed (x 0) l)) w

/-- MOVRS. -/
def execMovrs (h : Hdr) (a : Src) (idx : BitVec 10) (s : State) : Res :=
  issue h (instrLen [a]) .stalls true s (fun i s =>
    match s.wgOf i.w, SReg.ofIdx idx.toNat with
    | some g, some r =>
      match s.ctx? g.vd g.ctx with
      | none => s
      | some c =>
        if i.part = 0 then s.setWave i.k (i.step i.w)
        else
          let rd := i.rd s (!a.isV)
          let x := rd.w32 a i.lane
          let x64 := rd.val a .w64 i.lane
          let set (w : Wave) : State := s.setWave i.k (i.step w)
          let one := Mask.one i.lane
          match r with
          | .fair => set { i.w with fair := x &&& 0xFFFF }
          | .dscope => set { i.w with dscope := writeDscope i.w.dscope x }
          | .trapen => set { i.w with trapen := x &&& 0x7F }
          | .rmode => set { i.w with rmode := writeRmode i.w.rmode x }
          | .srseed => set (i.w.writeSeed i.part a.isV (fun l => if a.isV then rd.w32 a l else x))
          | .trapvec =>
            if c.hlock then i.trap s .priv i.part
            else if !targetOk x64 then i.laneTrap s .align one [(i.lane, x64)]
            else (set i.w).modCtx g.vd g.ctx (fun c => { c with trapvec := x64 })
          | .tframe =>
            if !canonical x64 || x64.toNat % 64 != 0 then i.laneTrap s .align one [(i.lane, x64)]
            else set { i.w with tframe := x64 }
          | .pmovf => (set i.w).modVd g.vd (fun v => { v with pmovf := v.pmovf &&& ~~~x })
          | _ => set i.w
    | _, _ => s)

/-! ## TRAP, BRK and RFT (R438, R440) -/

/-- TRAP: its frame holds every lane of `active()` at the next instruction. -/
def execTrap (h : Hdr) (code : BitVec 8) (s : State) : Res :=
  issue h 8 .stalls true s (fun i s =>
    let t := s.setWave i.k (i.step i.w)
    if i.part = 0 then t else t.raise i.k { mkTrap .swtrap i.part i.pc with detail := code })

/-- BRK: its frame holds the lanes at the BRK. -/
def execBrk (h : Hdr) (code : BitVec 8) (s : State) : Res :=
  issue h 8 .stalls true s (fun i s =>
    if i.part = 0 then s.setWave i.k (i.step i.w)
    else s.raise i.k { mkTrap .brk i.part i.pc with detail := code })

/-- RFT: it waits until every thread that has not exited stands at it. Outside the handler it raises PRIV. -/
def execRft (h : Hdr) (s : State) : Res :=
  issue h 8 .stalls true s (fun i s =>
    if !i.together then i.wait s
    else
      let w := { i.w with waiting := 0 }
      if i.part = 0 then s.setWave i.k (i.step w)
      else if !i.w.tcause.getLsbD 31 then (s.setWave i.k w).raise i.k (mkTrap .priv i.part i.pc)
      else (s.setWave i.k w).returnFromTrap i.k i.pc)

/-- The lane under which the accesses of a trap frame stand among the requests of a wave: no thread has it. -/
def frameLane : Nat := 32

/-- A trap frame on a page of a peer: its bytes go out as stores of the wave at thread scope, and the wave is in its handler
once they are performed; a store that the peer refuses faults the context (R437, R439). -/
def State.frameOut (s : State) (k : Nat) (w : Wave) (t : TrapRec) (asked : Bool) : State :=
  let g := s.agentOf k w 0
  let cause : BitVec 32 := 1#1 ++ 0#15 ++ t.detail ++ t.cause
  let fail (s : State) : State := s.contextFault g.vd g.ctx (t.detail.toNat * 256 + t.cause.toNat) t.pc w.tframe
  if asked then
    if w.refused.any (fun e => e.2.1 == frameLane) then fail s
    else (s.setWave k (w.enterHandler t (match s.ctx? g.vd g.ctx with | some c => c.trapvec | none => 0) cause)).endRun k
  else
    let r := s.span g (vaOf w.tframe) 1024 true
    match r.1 with
    | .ok ps =>
      let x := r.2.storePieces k frameLane (vaOf w.tframe) g 1 false ps (frameBytes w t cause)
      if x.2.isSome then fail x.1 else x.1.setWave k { w with busy := .away true }
    | _ => (r.2.setWave k { w with trap := none, busy := .no }).takeTrap k t

/-- The frame of an RFT on a page of a peer: its bytes are loads of the wave, and RFT ends once all have come; a load that is
refused faults the context (R438, R439). -/
def State.frameIn (s : State) (k : Nat) (w : Wave) (asked : Bool) : State :=
  let g := s.agentOf k w 0
  let pc := w.issuePc.getD 0
  let finish (s : State) (got : List (Nat × Byte)) : State :=
    let w := { w with inbuf := [], rejected := [] }
    let bs := bytesAt got 1024
    if (got.map Prod.fst).eraseDups.length < 1024 ∨ frameBad w bs then
      s.contextFault g.vd g.ctx (256 + Cause.priv.code.toNat) pc w.tframe
    else (s.setWave k (w.fromFrame bs)).endRun k
  if asked then finish s ((w.inbuf.filter (fun e => e.1 == frameLane)).map Prod.snd)
  else
    let r := s.span g (vaOf w.tframe) 1024 false
    match r.1 with
    | .ok ps =>
      let x := (LoadPart.mk r.2 [] false none).pieces g w (.load k frameLane 0 0 false false) 0 1 false 0 ps
      if x.rej.isSome || !x.sent then finish x.s (if x.rej.isSome then [] else x.bytes)
      else x.s.setWave k { w with busy := .away true, inbuf := x.bytes.map (fun b => (frameLane, b.1, b.2)) }
    | _ => (r.2.setWave k { w with rft := false, busy := .no }).returnFromTrap k pc

/-- TRAP_ENTRY: a wave takes the trap that it could not take at once, or reads the frame of its RFT, once its accesses on
the fabric are performed and the page it waits for is there (R377, R437, R438). -/
def execTrapEntry (k : Nat) (s : State) : Res :=
  match Tab.get? s.waves k with
  | none => .next s
  | some w =>
    let g := s.agentOf k w 0
    let waits := match w.busy with
      | .frame va => !s.pageReady g.vd g.ctx va w.trap.isSome
      | _ => false
    if waits || s.outstanding k then .next s
    else match w.trap, w.busy with
      | some t, .away asked => .next (s.frameOut k w t asked)
      | some t, _ => .next ((s.setWave k { w with trap := none, busy := .no }).takeTrap k t)
      | none, .away asked => .next (if w.rft then s.frameIn k w asked else s)
      | none, _ =>
        if w.rft then .next ((s.setWave k { w with rft := false, busy := .no }).returnFromTrap k (w.issuePc.getD 0))
        else .next s

/-! ## STSRD and INTR (R441, R442) -/

/-- STSRD. -/
def execStsrd (h : Hdr) (d : RegDst) (m : Src) (s : State) : Res :=
  issue h (instrLen [m]) .stalls false s (fun i s =>
    let rd := i.rd s (regScalar d)
    let clr (l : Nat) : BitVec 7 := slice (rd.w32 m l) 0 7
    let w := if regScalar d then
        if i.part = 0 then i.w
        else i.w.setRegs (regCode d) 0 [(i.part.lanes.foldl (fun f l => f ||| i.w.flagsOf l) (0 : BitVec 7)).setWidth 32]
      else i.part.lanes.foldl (fun (w : Wave) l => w.setRegs (regCode d) l [(i.w.flagsOf l).setWidth 32]) i.w
    let w := i.part.lanes.foldl (fun (w : Wave) l =>
      { w with flags := Tab.set 0 w.flags l (i.w.flagsOf l &&& ~~~clr l) }) w
    s.setWave i.k (i.step w))

/-- INTR: a release at node scope, then a message of class PROGRAM. -/
def execIntr (h : Hdr) (sd : BitVec 6) (n : Src) (s : State) : Res :=
  issue h (instrLen [n]) .stalls false s (fun i s =>
    if i.part = 0 then s.setWave i.k (i.step i.w)
    else match i.release s true (some .node) with
      | some t => t
      | none =>
        let w := (s.scopeOf i.w (some .node)).2
        let x := ((i.rd s true).w32 n i.lane).toNat
        let vd := (s.agentOf i.k i.w 0).vd
        let put (s : State) (r : Word) : State := s.setWave i.k (i.step (w.setS sd.toNat r))
        if x ≥ 64 then put s 3
        else
          let o := s.irqOut vd 0 x
          match o.1 with
          | .sent => put o.2 0
          | .merged => put o.2 1
          | .unmapped => put o.2 2)

/-! ## PROBE and TLBINV (R453, R454) -/

/-- What PROBE finds for an address. -/
def State.probe (s : State) (vd ctx : Nat) (a : DWord) : DWord :=
  if !canonical a then 1
  else match s.ctx? vd ctx with
    | none => 0
    | some c =>
      match walkVa c.format s.host (vaOf a) with
      | .leaf base size frame kind w _ =>
        let ma := frame + (vaOf a - base)
        let dev := kind == 1
        let e : BitVec 32 := if ma < 0x14000000000 then s.fotOf (ma / 65536) else 0
        let own := !dev || (ma < 0x14000000000 && fotOwner e == vd)
        let psz := if size = 4096 then 0 else if size = 65536 then 1 else if size = 2 ^ 21 then 2 else 3
        let bit (b : Bool) (n : Nat) : Nat := if b then 2 ^ n else 0
        BitVec.ofNat 64 (2 ^ 63 + kind * 2 ^ 61 + bit w 60 + bit own 59 + bit (dev && e.getLsbD 31) 58 +
          bit (dev && e.getLsbD 30) 57 + psz * 2 ^ 55)
      | _ => 0

/-- PROBE. -/
def execProbe (h : Hdr) (d : RegDst) (m : MemRef) (s : State) : Res :=
  issue h (instrLen [m.base, m.off]) .stalls false s (fun i s =>
    let sc := regScalar d
    let rd := i.rd s sc
    let g := s.agentOf i.k i.w 0
    let w := (i.who sc).foldl (fun (w : Wave) l =>
      let x := s.probe g.vd g.ctx (rd.gaddr m l)
      w.setRegs (regCode d) l [slice x 0 32, slice x 32 32]) i.w
    s.setWave i.k (i.step w))

/-- The translations of a context for [a, a + n) removed from the TLBs of the cores of `reach` and of their dies. -/
def State.removeXlate (s : State) (vd pasid : Nat) (reach : Nat → Bool) (a n : Nat) : State :=
  let dies := ((List.range 160).filter reach).map dieOf ++ (if reach 1000 then [dieOf 1000] else [])
  { s with tlb := s.tlb.filter (fun e =>
    !(e.vd == vd && e.pasid == pasid && (if e.die then dies.contains e.unit else reach e.unit) &&
      decide (e.base < a + n) && decide (a < e.base + e.size))) }

/-- Whether an access of a context that used a translation of [a, a + n) has still to be performed: one on the fabric, a store
that a speculation holds (R233), or the reads of a JMV card through the pages that it translated at its start (R328). -/
def State.contextBusy (s : State) (vd ctx a n : Nat) : Bool :=
  let mine (g : Nat) : Bool := match Tab.get? s.wgs g with
    | some g => g.vd == vd && g.ctx == ctx
    | none => false
  let meets (b m : Nat) : Bool := decide (b < a + n) && decide (a < b + m)
  s.waves.any (fun e => mine e.2.wg && (s.outstanding e.1 || e.2.spec.any (fun p =>
      p.stores.any (fun h => h.space != 0 && meets h.va h.bytes.length)))) ||
    s.reqs.any (fun r => match r.who with | .card c => mine c.wg | _ => false) ||
    s.wgs.any (fun e => mine e.1 && e.2.cards.any (fun c => !c.final && c.mv.any (fun m =>
      m.pins.any (fun p => meets (p.1 % 2 ^ 57) 4096))))

/-- A full fence at a scope and the drain of the context's accesses, then translations removed. Until then TLBINV is
outstanding. -/
def Iss.invalidate (i : Iss) (s : State) (scope : Option Scope) (a n : Nat) : State :=
  let i := { i with w := { i.w with busy := .no } }
  let s := s.setWave i.k i.w
  match i.release s true scope with
  | some t => t.modWave i.k (fun w => if w.busy = .remote then { w with busy := .inv a n } else w)
  | none =>
    let g := s.agentOf i.k i.w 0
    let sc := s.scopeOf i.w scope
    let pasid := match s.ctx? g.vd g.ctx with | some c => c.pasid | none => 0
    if s.contextBusy g.vd g.ctx a n then s.setWave i.k { i.w with busy := .inv a n }
    else (s.removeXlate g.vd pasid (icReach sc.1 g.core) a n).setWave i.k (i.step sc.2)

/-- TLBINV over a range: a non-canonical address raises ALIGN, even for no page. -/
def execTlbinv (h : Hdr) (m : MemRef) (n : Src) (scope : Option Scope) (s : State) : Res :=
  issue h (instrLen [m.base, n, m.off]) .stalls true s (fun i s =>
    if i.part = 0 then s.setWave i.k (i.step i.w)
    else
      let rd := i.rd s true
      let a := rd.gaddr m i.lane
      if !canonical a then i.laneTrap s .align (Mask.one i.lane) [(i.lane, a)]
      else
        let k := (rd.w32 n i.lane).toNat
        if k = 0 then s.setWave i.k (i.step i.w) else i.invalidate s scope (vaOf a) (4096 * k))

/-- TLBINV over every address. -/
def execTlbinvAll (h : Hdr) (scope : Option Scope) (s : State) : Res :=
  issue h 8 .stalls true s (fun i s =>
    if i.part = 0 then s.setWave i.k (i.step i.w) else i.invalidate s scope 0 (2 ^ 57))

/-- What the host's IOMMU says from now on of the host page of an address (R450). -/
def State.atsTurn (s : State) (vd ctx va : Nat) : State :=
  match s.ctx? vd ctx with
  | none => s
  | some c =>
    match walkVa c.format s.host va with
    | .leaf base _ frame kind _ _ =>
      let p := (frame + (va - base)) / 4096
      let rest := s.atsBad.filter (· != p)
      if kind = 0 then { s with atsBad := if Config.atsFails s.free p then p :: rest else rest } else s
    | _ => s

/-- The invalidation requests whose accesses have drained are answered (R454). -/
def State.answerAts (s : State) : State :=
  { s with atsWait := s.atsWait.filter (fun e => s.contextBusy e.1 e.2.1 e.2.2.1 e.2.2.2) }

/-- ATS_INVALIDATION: the translations of a context for some pages are removed; the device answers once the accesses that
used them have been performed (R454). What the host's IOMMU makes of the pages from now on is the host's to say. -/
def execAtsInvalidation (vd ctx : Nat) (va : BitVec 64) (pages : Nat) (s : State) : Res :=
  match s.ctx? vd ctx with
  | none => .next s
  | some c =>
    let a := vaOf va / 4096 * 4096
    let s := s.removeXlate vd c.pasid (fun _ => true) a (4096 * pages)
    let s := (List.range pages).foldl (fun s j => s.atsTurn vd ctx (vaOf va + 4096 * j)) s
    .next (State.answerAts { s with atsWait := s.atsWait ++ [(vd, ctx, a, 4096 * pages)] })

/-! ## The migration lock (R455) -/

/-- What a migration request is answered. -/
inductive MigAnswer where
  | proceeds | lost | holdoff | busy
  deriving DecidableEq, Repr

/-- The code of an answer. -/
def MigAnswer.code : MigAnswer → Byte
  | .proceeds => 0
  | .lost => 1
  | .holdoff => 2
  | .busy => 3

/-- The key of a hold-off. -/
def holdKey (frame : Nat) (host : Bool) : Nat := 2 * frame + (if host then 1 else 0)

/-- A hold-off of 50 µs starts. -/
def State.startHoldoff (s : State) (frame : Nat) (host : Bool) : State :=
  { s with holdoff := Tab.put s.holdoff (holdKey frame host) (s.clock + 65000) }

/-- Whether a hold-off is active. -/
def State.heldOff (s : State) (frame : Nat) (host : Bool) : Bool :=
  match Tab.get? s.holdoff (holdKey frame host) with
  | some t => s.clock < t
  | none => false

/-- One migration request at the lock of a frame. -/
def State.migrate (s : State) (frame : Nat) (host : Bool) : MigAnswer × State :=
  let e := s.fotOf frame
  if e.getLsbD 30 then
    if e.getLsbD 29 == host then (.busy, s) else (.lost, s.startHoldoff frame host)
  else if s.heldOff frame host then (.holdoff, s)
  else (.proceeds, s.setFot frame (e ||| 0x40000000 ||| (if host then 0x20000000 else 0)))

/-- MIGRATION_LOCK_REQUEST: requests of the same cycle meet the lock with the host's first. -/
def execMigrationLockRequest (frame : Nat) (host dev : Bool) (s : State) : Res :=
  let a : List Byte × State := if host then
      let r := s.migrate frame true
      ([r.1.code], r.2) else ([], s)
  let b : List Byte × State := if dev then
      let r := a.2.migrate frame false
      (a.1 ++ [r.1.code], r.2) else a
  .next { b.2 with answer := b.1 }

/-- MIGRATION_DONE. -/
def execMigrationDone (frame : Nat) (s : State) : Res := .next (s.setFot frame (s.fotOf frame &&& 0x9FFFFFFF))

/-- MIGRATION_HOLDOFF_EXPIRE. -/
def execMigrationHoldoffExpire (frame : Nat) (host : Bool) (s : State) : Res :=
  .next (if s.heldOff frame host then s else { s with holdoff := Tab.del s.holdoff (holdKey frame host) })

/-- The region of a frame that one sweep walks: its stack, or the LPDDR 6 tier (8), with the frames from `lo` to below `hi`. -/
def sweepRegion (frame : Nat) : Nat := min 8 (frame / 0x100000)
/-- The first frame of a region. -/
def sweepLo (r : Nat) : Nat := r * 0x100000
/-- The frame after the last of a region. -/
def sweepHi (r : Nat) : Nat := if r < 8 then (r + 1) * 0x100000 else 0x1400000

/-- The lowest pending-zero frame from f below `hi`. A frame that is not pending-zero is listed, so that the list's length bounds
the search. -/
def State.pendingFrom (s : State) (hi : Nat) : Nat → Nat → Option Nat
  | 0, _ => none
  | n + 1, f =>
    if hi ≤ f then none else if (s.fotOf f).getLsbD 31 then some f else s.pendingFrom hi n (f + 1)

/-- What the sweep of a region visits next: the pending-zero frames in increasing address, the lowest again after the highest, and
of a frame its first page that nothing has filled (R476). -/
def State.sweepNext (s : State) (r : Nat) : Option (Nat × Nat) :=
  let n := s.fot.length + 1
  let there := s.boot.up && (if r < 8 then s.boot.stk.getLsbD r else s.boot.lp)
  (if there then (s.pendingFrom (sweepHi r) n (max (sweepLo r) (Tab.getD s.sweep r 0))).or (s.pendingFrom (sweepHi r) n (sweepLo r))
    else none).map (fun f => (f, ((List.range 16).find? (fun p => fotPending (s.fotOf f) p)).getD 0))

/-- Whether the sweeps get their turn in a cycle. Their share of the bandwidth is the signed configuration's; this cadence is the
model's choice (log entry 119). -/
def State.sweepDue (s : State) : Bool := decide (4094 ≤ s.clock % 4096)

/-- SCRUB_SWEEP_PAGE: where the sweep of its region stands at this page, it is filled with zeros, a fill that the dirty log records
(R485), unless a write has filled it; the frame is no longer pending-zero once all its pages are filled (R476). -/
def execScrubSweepPage (frame page : Nat) (s : State) : Res :=
  let r := sweepRegion frame
  if s.sweepNext r ≠ some (frame, page) then .next s
  else
    let a := frame * 65536 + page * 4096
    let t := if s.pendingAt a then (s.zeroFill a).logWrite a else s
    let e := t.fotOf frame
    .next (if e.getLsbD 31 && slice e 10 16 == 0xFFFF#16 then
        { t.setFot frame (e &&& 0x7C0003FF) with sweep := Tab.put t.sweep r (frame + 1) }
      else { t with sweep := Tab.put t.sweep r frame })

end Sys2Proof.Machine
end

