-- ==== Sys2Proof/Machine/Monitors.lean ====
section
/-! DEFINITION. Monitors.lean: reading and writing event counters and latency capture units, and MARK (R489 to R504). -/

namespace Sys2Proof.Machine

open Sys2Proof

/-! ## Counter identifiers (R490) -/

/-- The fields of a counter identifier. -/
structure Cid where
  lcu  : Bool
  cls  : Nat
  inst : Nat
  idx  : Nat
  deriving DecidableEq, Repr

/-- The fields of a legal identifier; none is BADSEL. -/
def cidOf (x : Word) : Option Cid :=
  let n := x.toNat
  let c : Cid := ⟨bitsOf n 16 1 == 1, bitsOf n 13 3, bitsOf n 4 9, bitsOf n 0 4⟩
  let idxOk := c.idx < (if c.cls = 3 ∨ c.cls = 4 then 4 else 8) && (!c.lcu || c.idx == 0)
  let instOk := match c.cls with
    | 0 | 1 => c.inst == 0
    | 2 => if c.lcu then decide (c.inst < 2) else decide (c.inst < 192) || c.inst == 0x1FF
    | 3 => decide (c.inst < 8) || c.inst == 0x1FF
    | _ => decide (c.inst < 16)
  if n < 2 ^ 17 && c.cls ≤ 4 && idxOk && instOk then some c else none

/-- The legal event codes of a class (R492). -/
def evtOk (cls evt : Nat) : Bool :=
  evt == 0 || match cls with
    | 0 => decide (1 ≤ evt ∧ evt ≤ 8)
    | 1 => decide (0x20 ≤ evt ∧ evt ≤ 0x28)
    | 2 => decide (0x40 ≤ evt ∧ evt ≤ 0x45)
    | 3 => decide (0x60 ≤ evt ∧ evt ≤ 0x63)
    | _ => decide (0x80 ≤ evt ∧ evt ≤ 0x83)

/-! ## Counters by identifier (R489) -/

/-- Where a counter stands: the bank of a sub-partition, of a core, of the LLC slices, of the stacks or of a port, and its
keys there. -/
structure CntRef where
  cls  : Nat
  unit : Nat
  keys : List Nat
  deriving DecidableEq, Repr

/-- The counters that an identifier names for a wave of a virtual device; none is NA. -/
def State.counters (s : State) (k vd : Nat) (c : Cid) : Option CntRef :=
  if c.lcu then none
  else match c.cls with
    | 0 => some ⟨0, spOf k, [c.idx]⟩
    | 1 => if (s.sp (4 * coreOf k)).holder = vd then some ⟨1, coreOf k, [c.idx]⟩ else none
    | 2 => (s.setOf vd).map (fun t => ⟨2, 0,
        (if c.inst = 0x1FF then List.range 192 else [c.inst]).map (fun i => (t * 192 + i) * 8 + c.idx)⟩)
    | 3 => (s.setOf vd).map (fun t => ⟨3, 0,
        (if c.inst = 0x1FF then List.range 8 else [c.inst]).map (fun i => (t * 8 + i) * 4 + c.idx)⟩)
    | _ => match Tab.get? s.vds vd with
      | some v => if v.ports.getLsbD c.inst then some ⟨4, c.inst, [c.idx]⟩ else none
      | none => none

/-- A port. -/
def State.portOf (s : State) (n : Nat) : Port := (Tab.get? s.ports n).getD Port.init

/-- The bank of a reference. -/
def State.bankOf (s : State) (r : CntRef) : Bank :=
  match r.cls with
  | 0 => (s.sp r.unit).bank
  | 1 => (s.core r.unit).bank
  | 2 => s.llcCnt
  | 3 => s.hbmCnt
  | _ => (s.portOf r.unit).bank

/-- The bank of a reference set. -/
def State.setBank (s : State) (r : CntRef) (b : Bank) : State :=
  match r.cls with
  | 0 => s.modSp r.unit (fun p => { p with bank := b })
  | 1 => s.modCore r.unit (fun p => { p with bank := b })
  | 2 => { s with llcCnt := b }
  | 3 => { s with hbmCnt := b }
  | _ => { s with ports := Tab.put s.ports r.unit { s.portOf r.unit with bank := b } }

/-- The sum of the counters of a reference, modulo 2^48. -/
def State.cntRead (s : State) (r : CntRef) : BitVec 48 :=
  r.keys.foldl (fun x k => x + Tab.getD (s.bankOf r).val k 0) 0

/-- The first overflow index of a class (R495). -/
def ovfBase (cls : Nat) : Nat :=
  match cls with
  | 0 => 0
  | 1 => 8
  | 2 => 16
  | 3 => 24
  | _ => 28

/-- PMRD (R500). -/
def execPmrd (h : Hdr) (dd : BitVec 6) (cid : Src) (s : State) : Res :=
  issue h (instrLen [cid]) .proceeds false s (fun i s =>
    if i.part = 0 then s.setWave i.k (i.step i.w)
    else
      let vd := (s.agentOf i.k i.w 0).vd
      let x : DWord := match (cidOf ((i.rd s true).w32 cid i.lane)).bind (s.counters i.k vd) with
        | some r => (s.cntRead r).setWidth 64
        | none => 1#64 <<< 63
      match s.permit i.w [] [dd.toNat, dd.toNat + 1] false 0 with
      | none => s.stallSpec i.k
      | some w => s.setWave i.k (i.step (w.setSw dd.toNat x)))

/-! ## Latency capture units by identifier (R497) -/

/-- The number of the unit that an identifier's class and instance name. -/
def lcuOf (k : Nat) (cls inst : Nat) : Option Nat :=
  match cls with
  | 1 => if inst = 0 then some (coreOf k) else none
  | 2 => if inst < 2 then some (160 + inst) else none
  | 4 => if inst < 16 then some (162 + inst) else none
  | _ => none

/-- A unit. -/
def State.lcuAt (s : State) (n : Nat) : Lcu := (Tab.get? s.lcus n).getD Lcu.init

/-- Whether a virtual device holds a unit: a core's with the core bank, another by its claim. -/
def State.holdsLcu (s : State) (vd n : Nat) : Bool :=
  if n < 160 then (s.sp (4 * n)).holder == vd else (s.lcuAt n).owner == vd

/-- Whether a virtual device may claim a unit: an unclaimed one of a die, or of a port that it is granted. -/
def State.mayClaim (s : State) (vd n : Nat) : Bool :=
  160 ≤ n && (s.lcuAt n).owner == 0 && (n < 162 || match Tab.get? s.vds vd with
    | some v => v.ports.getLsbD (n - 162)
    | none => false)

/-- The legal sources of a unit. -/
def lcuSrcOk (n src : Nat) : Bool := 1 ≤ src && src ≤ (if n < 160 then 4 else 2)

/-- The control word of a unit written: CLR is not kept, and writing EN = 0 ends a claim. -/
def Lcu.write (u : Lcu) (n vd : Nat) (x : Word) : Lcu :=
  let u := if x.getLsbD 30 then { Lcu.init with owner := u.owner } else u
  { u with ctl := x &&& 0xBFFFFFFF, owner := if n < 160 then 0 else if x.getLsbD 31 then vd else 0 }

/-- PMCTL on a unit: 0 success, 1 NA, 2 BADSEL, with the state after it. A unit that is not available gives NA before its
control word is looked at: DESIGN CHOICE (log entry 84). -/
def State.lcuCtl (s : State) (k vd : Nat) (c : Cid) (x : Word) : Word × State :=
  match lcuOf k c.cls c.inst with
  | none => (1, s)
  | some n =>
    if !(s.holdsLcu vd n || (x.getLsbD 31 && s.mayClaim vd n)) then (1, s)
    else if slice x 16 13 != 0#13 || slice x 4 4 != 0#4 || !lcuSrcOk n (slice x 0 4).toNat then (2, s)
    else (0, { s with lcus := Tab.put s.lcus n ((s.lcuAt n).write n vd x) })

/-- PMCTL with a control word (R501). -/
def State.pmCtl (s : State) (k vd : Nat) (cid x : Word) : Word × State :=
  match cidOf cid with
  | none => (2, s)
  | some c =>
    if c.lcu then s.lcuCtl k vd c x
    else match s.counters k vd c with
      | none => (1, s)
      | some r =>
        if slice x 8 22 != 0#22 || !evtOk c.cls (slice x 0 8).toNat then (2, s)
        else
          let b := s.bankOf r
          (0, s.setBank r { b with ctl := r.keys.foldl (fun t k => Tab.set 0 t k x) b.ctl })

/-- PMCTL with a value: the overflow bit of the counter is cleared (R501). -/
def State.pmVal (s : State) (k vd : Nat) (cid : Word) (x : DWord) : Word × State :=
  match cidOf cid with
  | none => (2, s)
  | some c =>
    match s.counters k vd c with
    | none => (1, s)
    | some r =>
      if slice x 48 16 != 0#16 then (2, s)
      else
        let b := s.bankOf r
        let s := s.setBank r { b with val := r.keys.foldl (fun t k => Tab.set 0 t k (slice x 0 48)) b.val }
        (0, s.modVd vd (fun v => { v with pmovf := v.pmovf &&& ~~~(1#32 <<< (ovfBase c.cls + c.idx)) }))

/-- A PMCTL: its outcome goes to its result register. -/
def pmctlIssue (h : Hdr) (sd : BitVec 6) (l : List Src) (s : State) (f : Iss → Nat → State → Word × State) : Res :=
  issue h (instrLen l) .stalls true s (fun i s =>
    if i.part = 0 then s.setWave i.k (i.step i.w)
    else
      let r := f i (s.agentOf i.k i.w 0).vd s
      i.setS r.2 sd.toNat r.1)

/-- PMCTL. -/
def execPmctl (h : Hdr) (sd : BitVec 6) (cid ctl : Src) (s : State) : Res :=
  pmctlIssue h sd [cid, ctl] s (fun i vd s =>
    s.pmCtl i.k vd ((i.rd s true).w32 cid i.lane) ((i.rd s true).w32 ctl i.lane))

/-- PMCTL.val. -/
def execPmctlVal (h : Hdr) (sd : BitVec 6) (cid val : Src) (s : State) : Res :=
  pmctlIssue h sd [cid, val] s (fun i vd s =>
    s.pmVal i.k vd ((i.rd s true).w32 cid i.lane) ((i.rd s true).val val .w64 i.lane))

/-- A field of a unit (R499, R502). -/
def Lcu.field (u : Lcu) (fld : Nat) : DWord :=
  match fld with
  | 0 => u.min.setWidth 64
  | 1 => u.max.setWidth 64
  | 2 => u.count.setWidth 64
  | 3 => u.sum
  | 4 => u.ctl.setWidth 64
  | n => (Tab.getD u.bins (n - 16) (0 : BitVec 32)).setWidth 64

/-- LCURD: L and IDX are ignored; a SUM that is not available reads as zero, as it can show no NA (R502). -/
def execLcurd (h : Hdr) (dd : BitVec 6) (cid : Src) (fld : BitVec 5) (s : State) : Res :=
  issue h (instrLen [cid]) .proceeds false s (fun i s =>
    if i.part = 0 then s.setWave i.k (i.step i.w)
    else
      let vd := (s.agentOf i.k i.w 0).vd
      let x := (i.rd s true).w32 cid i.lane
      let n := if x.toNat < 2 ^ 17 then lcuOf i.k (slice x 13 3).toNat (slice x 4 9).toNat else none
      let na : DWord := if fld = 3 then 0 else 1#64 <<< 63
      let r := match n with
        | some n => if s.holdsLcu vd n then (s.lcuAt n).field fld.toNat else na
        | none => na
      match s.permit i.w [] [dd.toNat, dd.toNat + 1] false 0 with
      | none => s.stallSpec i.k
      | some w => s.setWave i.k (i.step (w.setSw dd.toNat r)))

/-! ## MARK (R503) -/

/-- MARK. -/
def execMark (h : Hdr) (op : MarkOp) (tag : BitVec 8) (s : State) : Res :=
  issue h 8 .stalls false s (fun i s =>
    if i.part = 0 then s.setWave i.k (i.step i.w)
    else match op with
      | .ev => (s.countSp (spOf i.k) 7 1).setWave i.k (i.step i.w)
      | .beg => s.setWave i.k (i.step { i.w with mark := some (s.clock, tag) })
      | .fin =>
        match i.w.mark with
        | some (t, g) =>
          if g = tag then
            (s.sample (coreOf i.k) (s.agentOf i.k i.w 0).vd 3 (s.clock - t) tag).setWave i.k
              (i.step { i.w with mark := none })
          else s.setWave i.k (i.step i.w)
        | none => s.setWave i.k (i.step i.w))

end Sys2Proof.Machine
end

