-- ==== Sys2Proof/Machine/Launch.lean ====
section
/-! DEFINITION. Launch.lean: launch records, placement of gangs, and the retirement of waves, workgroups and launches (R31 to
R46, R66 to R68, R208, R468, R469, R471, R472). -/

namespace Sys2Proof.Machine

open Sys2Proof

/-! ## Accesses of the VCC (R40, R42) -/

/-- The translation of an access of the VCC through a context, by the walkers of the I/O die: no TLB of a core or a compute
die keeps it. -/
def State.vccSpan (s : State) (vd ctx va n : Nat) (write : Bool) : Span × State :=
  let r := s.span ⟨vd, ctx, 1000, 8, .vcc⟩ va n write
  (r.1, { r.2 with tlb := r.2.tlb.filter (fun e => if e.die then e.unit != dieOf 1000 else e.unit != 1000) })

/-- A fault entry of the VCC. -/
def State.vccFault (s : State) (vd ctx va : Nat) (wr : Bool) : State := s.pageFault ⟨vd, ctx, 1000, 8, .vcc⟩ va (!wr) wr false

/-! ## The launch record (R39, R40, R43) -/

/-- A stage entry as read. -/
def stageOf (t s : Nat) : StageEnt :=
  ⟨BitVec.ofNat 64 (bitsOf t (128 * s) 64), bitsOf t (128 * s + 64) 6, bitsOf t (128 * s + 72) 6⟩

/-- The fields of a record, with the stage table that it names (as a number of 256 bytes). -/
def LaunchRec.of (r t : Nat) : LaunchRec where
  entry := BitVec.ofNat 64 (bitsOf r 0 64)
  param := BitVec.ofNat 64 (bitsOf r 64 64)
  ngangs := bitsOf r 128 32
  wgthr := bitsOf r 160 11
  gangsz := bitsOf r 176 4
  fuse := bitsOf r 180 1 == 1
  nstage := bitsOf r 184 3
  prio := bitsOf r 188 3
  stagetbl := bitsOf r 192 64
  scratch := bitsOf r 256 20
  journal := bitsOf r 288 16
  nqueue := bitsOf r 304 5
  ringlog := bitsOf r 312 4
  cscope := bitsOf r 316 4
  incr := bitsOf r 320 32
  cntaddr := bitsOf r 384 64
  stages := (List.range (bitsOf r 184 3 + 1)).map (stageOf t)
  qwords := (List.range (bitsOf r 304 5)).map (fun q => BitVec.ofNat 64 (bitsOf t (1024 + 64 * q) 64))

/-- Waves of a workgroup (R32). -/
def LaunchRec.nwaves (r : LaunchRec) : Nat := (r.wgthr + 31) / 32

/-- log2 of the ring entries (R282). -/
def LaunchRec.ringLog2 (r : LaunchRec) : Nat := if r.ringlog = 0 then 6 else r.ringlog

/-- A multiple of 16. -/
def up16 (x : Nat) : Nat := (x + 15) / 16 * 16

/-- The bytes of a queue (R37, R272). -/
def qBytes (c : BitVec 64) : Nat := up16 (qDepth c * qSlotSize c)

/-- The layout of a workgroup's range (R37). -/
structure Layout where
  jbase   : Nat
  jnotify : Nat
  queues  : List Nat
  journal : Nat
  salloc  : Nat
  deriving DecidableEq, Repr

/-- The bases of queues one after the other. -/
def queueBases (b : Nat) : List (BitVec 64) → List Nat
  | [] => []
  | c :: r => b :: queueBases (b + qBytes c) r

/-- The layout that a record asks for. -/
def LaunchRec.layout (r : LaunchRec) : Layout :=
  let jbase := up16 r.scratch
  let jnotify := jbase + 32 * 2 ^ r.ringLog2
  let q0 := jnotify + 16
  let journal := q0 + r.qwords.foldl (fun n c => n + qBytes c) 0
  ⟨jbase, jnotify, queueBases q0 r.qwords, journal, (journal + r.journal * r.nwaves + 4095) / 4096 * 4096⟩

/-- A queue word of a stage table (R43, R272). -/
def stageQueueOk (nstage : Nat) (c : BitVec 64) : Bool :=
  slice c 42 22 == 0#22 && decide (2 ≤ (slice c 31 4).toNat) && qDepth c != 0 && qBase c == 0 &&
    decide (qProd c < qCons c) && decide (qCons c ≤ nstage)

/-- The fields of a record that must be zero. -/
def recZero (r : Nat) : Bool :=
  [(832, 64), (448, 320), (352, 32), (309, 3), (276, 12), (191, 1), (187, 1), (181, 3), (171, 5)].all
    (fun e => bitsOf r e.1 e.2 == 0)

/-- The checks of a record alone (R39, R40). -/
def recFieldsOk (r : Nat) : Bool :=
  let x := LaunchRec.of r 0
  recZero r && x.cntaddr % 8 == 0 && decide (x.cscope ≤ 10) && (x.ringlog == 0 || (decide (3 ≤ x.ringlog) && decide (x.ringlog ≤ 8))) &&
    decide (x.nqueue ≤ 16) && x.journal % 32 == 0 && decide (x.journal ≤ 16384) && decide (x.scratch ≤ 524288) &&
    decide (1 ≤ x.gangsz) && decide (x.gangsz ≤ 8) && decide (1 ≤ x.wgthr) && decide (x.wgthr ≤ 1024) && x.ngangs != 0 &&
    targetOk x.entry && x.stagetbl % 64 == 0 &&
    (if x.nstage = 0 then x.stagetbl == 0 && x.nqueue == 0 else x.stagetbl != 0)

/-- The checks of a record with its stage table (R40, R43). -/
def recTableOk (r t : Nat) : Bool :=
  let x := LaunchRec.of r t
  (x.nstage == 0 ||
    ((List.range (x.nstage + 1)).all (fun i => bitsOf t (128 * i + 78) 50 == 0 && bitsOf t (128 * i + 70) 2 == 0) &&
     x.stages.all (fun e => decide (e.maxw ≤ 32) && decide (e.initw ≤ 32) && targetOk e.entry &&
        (e.maxw == 0 || decide (e.initw ≤ e.maxw))) &&
     decide (x.stages.foldl (fun n e => n + e.initw) 0 ≤ x.nwaves) && x.qwords.all (stageQueueOk x.nstage))) &&
  decide (x.layout.salloc ≤ 524288)

/-! ## Populated cores (R11, R514) -/

/-- Whether a core is populated. -/
def State.populated (s : State) (core : Nat) : Bool := decide (core < 160) && s.boot.clpop.getLsbD (core / 8)
/-- The populated cores of a cluster. -/
def State.clusterCores (s : State) (cl : Nat) : List Nat := ((List.range 8).map (8 * cl + ·)).filter s.populated

/-- Whether some cluster has cores for a gang (R40). -/
def State.gangFits (s : State) (n : Nat) : Bool := (List.range 20).any (fun cl => decide (n ≤ (s.clusterCores cl).length))

/-! ## Launch queues (R468, R469, R472) -/

/-- A queue changed. -/
def State.modQueue (s : State) (k : Nat) (f : LaunchQ → LaunchQ) : State := { s with queues := Tab.modify s.queues k f }

/-- A queue halts: class QUEUE is raised. -/
def State.haltQueue (s : State) (vd ctx k : Nat) (h : Halt) : State :=
  (s.modQueue k (fun q => { q with halt := h, active := false, page := none })).irq vd 1 ctx

/-- A queue whose head record may be taken. -/
def LaunchQ.live (q : LaunchQ) : Bool := q.on && q.halt == .none && q.head != q.tail

/-- The address of a queue's head record. -/
def LaunchQ.headAt (q : LaunchQ) : Nat := vaOf (BitVec.ofNat 64 (q.base + 128 * (q.head.toNat % max q.size 1)))

/-- The effective priority of a queue's head record: PRIO plus one for each full millisecond at the head, at most 7. A record
whose page is not there counts with a PRIO of 0. -/
def State.queuePrio (s : State) (vd ctx : Nat) (q : LaunchQ) : Nat :=
  let p := match s.peek vd ctx (q.headAt + 16) with
    | some l => bitsOf (leNat (s.readBytes l 8)) 60 3
    | none => 0
  min 7 (p + (s.clock - q.since) / 1300000)

/-- The queues of a context that can give a launch, by key. -/
def State.liveQueues (s : State) (vd ctx : Nat) : List (Nat × LaunchQ) :=
  s.queues.filter (fun e => e.1 / 64 == ctxKey vd ctx && e.2.live &&
    match e.2.page with
    | some va => !s.awaits vd ctx va
    | none => true)

/-- The queue that gives the next launch (R472): the highest effective priority, the lower number on a tie. -/
def State.nextQueue (s : State) (vd ctx : Nat) : Option (Nat × LaunchQ) :=
  match s.liveQueues vd ctx with
  | [] => none
  | e :: r => some (r.foldl (fun (b : Nat × LaunchQ) x =>
      if s.queuePrio vd ctx b.2 < s.queuePrio vd ctx x.2 then x else b) e)

/-- The IV of a record's tag: SEQ, context and queue. -/
def recIv (seq : BitVec 64) (ctx q : Nat) : BitVec 96 := seq ++ BitVec.ofNat 32 (ctx * 64 + q)

/-- What the sequence checks of an authenticated queue answer (R469). -/
inductive SeqCheck where
  | go (last : BitVec 64)
  | repeated
  | halts (h : Halt)
  deriving DecidableEq, Repr

/-- The checks of an authenticated queue on a record. -/
def LaunchQ.check (q : LaunchQ) (ctx num : Nat) (bs : List Byte) : SeqCheck :=
  let r := leNat bs
  let seq := BitVec.ofNat 64 (bitsOf r 768 64)
  let ok := match q.key with
    | some k => Config.gmac k (recIv seq ctx num) (bs.take 112) == BitVec.ofNat 128 (bitsOf r 896 128)
    | none => false
  if !ok then .halts .tagerr
  else if q.last = 0xFFFFFFFFFFFFFFFF then .halts .seqend
  else if seq.toNat ≤ q.last.toNat then .repeated
  else if seq.toNat > q.last.toNat + 1 then .halts .seqerr
  else .go seq

/-- A head record done with: the queue goes on to the next. -/
def LaunchQ.advance (q : LaunchQ) (clock : Nat) : LaunchQ :=
  { q with head := q.head + 1, active := q.head + 1 != q.tail, since := clock, checked := false, page := none }

/-- Bytes that the VCC reads through a context: none while their page is absent, which then has its entry, with `false` for
bytes that cannot be read. -/
def State.vccRead (s : State) (vd ctx va n : Nat) : Option (Option (List Byte)) × Option Nat × State :=
  let r := s.vccSpan vd ctx va n false
  match r.1 with
  | .absent p => (none, some p, r.2.vccFault vd ctx p false)
  | .prot | .xlate => (some none, none, r.2)
  | .ok ps => (some (if ps.any Piece.isFab then none else some (r.2.readPieces ps)), none, r.2)

/-- A record taken: its launch waits for placement. -/
def State.takeLaunch (s : State) (vd ctx k : Nat) (r : LaunchRec) : State :=
  { s.modQueue k (fun q => q.advance s.clock) with
    launches := Tab.put s.launches s.nextId ⟨vd, ctx, r, 0, 0, false, false⟩, nextId := s.nextId + 1 }

/-- The record of a queue checked, its stage table read, and the launch taken. -/
def State.takeRecord (s : State) (vd ctx k : Nat) (bs : List Byte) : State :=
  let r := leNat bs
  let x := LaunchRec.of r 0
  if !recFieldsOk r || !s.gangFits x.gangsz then s.haltQueue vd ctx k .recbad
  else if x.nstage = 0 then
    if recTableOk r 0 then s.takeLaunch vd ctx k x else s.haltQueue vd ctx k .recbad
  else if !canonical (BitVec.ofNat 64 x.stagetbl) then s.haltQueue vd ctx k .recbad
  else
    let t := s.vccRead vd ctx (vaOf (BitVec.ofNat 64 x.stagetbl)) 256
    match t.1 with
    | none => t.2.2.modQueue k (fun q => { q with page := t.2.1 })
    | some none => t.2.2.haltQueue vd ctx k .recbad
    | some (some tb) =>
      if recTableOk r (leNat tb) then t.2.2.takeLaunch vd ctx k (LaunchRec.of r (leNat tb))
      else t.2.2.haltQueue vd ctx k .recbad

/-- Whether the VCC takes launches of a context: it runs, and its virtual device does. -/
def State.takes (s : State) (vd ctx : Nat) : Bool :=
  match Tab.get? s.vds vd, s.ctx? vd ctx with
  | some v, some c => v.st == .running && c.running && !c.faulted && !c.stopping
  | _, _ => false

/-- LAUNCH_RECORD_READ: the VCC reads, checks and takes the head record of a context's next queue. -/
def execLaunchRecordRead (vd ctx : Nat) (s : State) : Res :=
  if !s.takes vd ctx then .next s
  else match s.nextQueue vd ctx with
    | none => .next s
    | some (k, q) =>
      if !canonical (BitVec.ofNat 64 q.base) then .next (s.haltQueue vd ctx k .recbad)
      else
        let t := s.vccRead vd ctx q.headAt 128
        match t.1 with
        | none => .next (t.2.2.modQueue k (fun q => { q with page := t.2.1 }))
        | some none => .next (t.2.2.haltQueue vd ctx k .recbad)
        | some (some bs) =>
          let s := t.2.2
          if q.auth && !q.checked then
            match q.check ctx (k % 64) bs with
            | .halts h => .next (s.haltQueue vd ctx k h)
            | .repeated => .next (s.modQueue k (fun q => { q.advance s.clock with rej := min 65535 (q.rej + 1) }))
            | .go seq => .next ((s.modQueue k (fun q => { q with last := seq, checked := true, page := none })).takeRecord vd ctx k bs)
          else .next ((s.modQueue k (fun q => { q with page := none })).takeRecord vd ctx k bs)

/-! ## Where a workgroup fits (R34 to R38, R62) -/

/-- What a workgroup needs of a core. -/
structure Shape where
  nwaves : Nat
  salloc : Nat
  fuse   : Bool
  deriving DecidableEq, Repr

/-- What the workgroups of a record need. -/
def LaunchRec.shape (r : LaunchRec) : Shape := ⟨r.nwaves, r.layout.salloc, r.fuse⟩

/-- The waves of a workgroup that go to position j of n. -/
def wavesAt (nwaves n j : Nat) : Nat := (nwaves - j + n - 1) / n

/-- Members of H in increasing k: each must have slots free for the waves that fall to its position. -/
def chooseGo (free : Nat → Nat) (nwaves n : Nat) : List Nat → Nat → List Nat
  | [], _ => []
  | k :: r, j =>
    if j < n ∧ wavesAt nwaves n j ≤ free k then k :: chooseGo free nwaves n r (j + 1) else chooseGo free nwaves n r j

/-- The set H of a core (R35), from the sub-partitions held there: always the lowest k that fit, so that 16 workgroups of 3
waves fill a core, where R38's count for an empty core is 21 (DEDUCED, log entry 80). -/
def chooseH (free : Nat → Nat) (ks : List Nat) (nwaves : Nat) : Option (List Nat) :=
  let n := min 4 nwaves
  let h := chooseGo free nwaves n ks 0
  if h.length = n then some h else none

/-- The units of a core that are allocated. -/
def State.unitsUsed (s : State) (core : Nat) : List Nat :=
  (s.wgs.filter (fun e => e.2.core == core)).flatMap (fun e => e.2.units)

/-- Wave slots free on a sub-partition. -/
def State.slotsFree (s : State) (sp : Nat) : Nat := 16 - (s.waves.filter (fun e => spOf e.1 == sp)).length

/-- The place of a workgroup on a core, if it fits: the set H and the units of its range. `ks` are the sub-partitions that
its virtual device holds there, of which those in `fresh` are empty. -/
def State.fitOn (s : State) (core : Nat) (ks fresh : List Nat) (sh : Shape) : Option (List Nat × List Nat) :=
  match chooseH (fun k => if fresh.contains k then 16 else s.slotsFree (4 * core + k)) ks sh.nwaves with
  | none => none
  | some h =>
    let used := (s.unitsUsed core).filter (fun u => !fresh.contains (u / 32))
    let order := h ++ ks.filter (fun k => !h.contains k)
    let free := (order.flatMap (fun k => (List.range 32).map (fun n => 32 * k + n))).filter (fun u => !used.contains u)
    let n := (sh.salloc + 4095) / 4096
    if n ≤ free.length then some (h, free.take n) else none

/-- The sub-partitions of a core that a virtual device holds and keeps. -/
def State.heldOn (s : State) (vd core : Nat) : List Nat :=
  (List.range 4).filter (fun k => let p := s.sp (4 * core + k); p.holder == vd && p.next.isNone && p.tag == vd)

/-- Whether a pre-emption of a virtual device affects a core: nothing new is placed there (R62). -/
def State.frozenCore (s : State) (vd core : Nat) : Bool :=
  s.wgs.any (fun e => e.2.core == core && e.2.vd == vd && e.2.frozen)

/-- Whether a cluster's L1 mode lets a workgroup come (R36). -/
def State.clusterOk (s : State) (vd cl : Nat) (fuse : Bool) : Bool :=
  let here := s.wgs.filter (fun e => clusterOf e.2.core == cl)
  let fused := (s.core (8 * cl)).fused
  if fuse then if fused then here.all (fun e => e.2.vd == vd) else here.isEmpty else !fused

/-- The cores of a cluster that can take a workgroup, with the place on each. -/
def State.coresFor (s : State) (vd cl : Nat) (sh : Shape) : List (Nat × List Nat × List Nat) :=
  (s.clusterCores cl).filterMap (fun core =>
    if s.frozenCore vd core then none
    else (s.fitOn core (s.heldOn vd core) [] sh).map (fun x => (core, x)))

/-- The lowest cluster that can take a gang of n workgroups, with the place of each (R34). -/
def State.gangPlaces (s : State) (vd n : Nat) (sh : Shape) : Option (Nat × List (Nat × List Nat × List Nat)) :=
  (List.range 20).findSome? (fun cl =>
    if s.clusterOk vd cl sh.fuse then
      let l := s.coresFor vd cl sh
      if n ≤ l.length then some (cl, l.take n) else none
    else none)

/-! ## Placement (R34 to R37, R41, R44, R211) -/

/-- A wave at its start (R32, R41). -/
def Wave.start (wg waveid : Nat) (exited : Mask) (pc param : BitVec 64) (stage : Nat) (inStage : Bool) : Wave where
  wg := wg
  waveid := waveid
  v := []
  s := Tab.set 0 (Tab.set 0 [] 0 (slice param 0 32)) 1 (slice param 32 32)
  p := []
  latches := [Latch.clear, Latch.clear, Latch.clear, Latch.clear]
  chain := 0
  pc := (List.range 32).map (fun l => (l, pc))
  exited := exited
  parked := 0
  held := 0
  waiting := if inStage then 0 else ~~~exited
  reason := []
  parkArg := []
  group := []
  pend := []
  flags := []
  seed := []
  gather := 0
  arrived := false
  phase := false
  fair := 2048
  dscope := 5
  trapen := 0
  rmode := 0
  fairCnt := 0
  rover := 0
  pick := none
  tcause := 0
  tmask := 0
  tpc := 0
  taddr := 0
  tcount := 0
  tframe := 0
  mark := none
  member := none
  last := 3
  sm := false
  sent := false
  round := 0
  sited := false
  spec := none
  stage := stage
  inStage := inStage
  served := false
  busy := if inStage then .no else .stage
  trap := none
  rft := false
  preempt := none
  halted := false
  forced := false
  tail := false
  ahead := []
  refused := []
  rejected := []
  inbuf := []
  parkAt := []
  paid := none

/-- The stage in which a wave begins: none for one that begins as if it had executed SNEXT (R44). -/
def stageFor (l : List StageEnt) (st wv : Nat) : Option Nat :=
  match l with
  | [] => none
  | e :: r => if wv < e.initw then some st else stageFor r (st + 1) (wv - e.initw)

/-- The lanes of a wave that begin exited (R32). -/
def tailMask (nthr wv : Nat) : Mask := Mask.ofFn (fun l => decide (nthr ≤ 32 * wv + l))

/-- The lowest free wave slot of a sub-partition. -/
def State.freeSlot (s : State) (sp : Nat) : Option Nat :=
  ((List.range 16).map (fun i => 16 * sp + i)).find? (fun k => (Tab.get? s.waves k).isNone)

/-- A wave put in the lowest free slot of its sub-partition (R35). -/
def State.addWave (s : State) (core : Nat) (h : List Nat) (w : Wave) : State :=
  match s.freeSlot (4 * core + h.getD (w.waveid % max h.length 1) 0) with
  | some k => s.setWave k w
  | none => s

/-- The workgroup of a launch at a place. -/
def LaunchRec.workgroup (r : LaunchRec) (vd ctx launch gang wgid tag age : Nat) (pl : Nat × List Nat × List Nat) : Workgroup where
  vd := vd
  ctx := ctx
  launch := launch
  gang := gang
  wgid := wgid
  tag := tag
  core := pl.1
  nthr := r.wgthr
  nwaves := r.nwaves
  gangsz := r.gangsz
  h := pl.2.1
  units := pl.2.2
  salloc := r.layout.salloc
  jbase := r.layout.jbase
  jlog := r.ringLog2
  jnotify := r.layout.jnotify
  journal := r.layout.journal
  jrnSize := r.journal
  queues := (List.zip r.qwords r.layout.queues).mapIdx (fun i (e : BitVec 64 × Nat) =>
    (i, Queue.fresh (e.1 ||| BitVec.ofNat 64 e.2)))
  guards := []
  closed := []
  cards := []
  slots := []
  fused := []
  tracked := false
  live := r.nwaves
  bars := []
  age := age
  preempt := none

/-- The waves of a workgroup started. -/
def State.startWaves (s : State) (r : LaunchRec) (gid : Nat) (pl : Nat × List Nat × List Nat) : State :=
  (List.range r.nwaves).foldl (fun s i =>
    let st := if r.nstage = 0 then some 0 else stageFor r.stages 0 i
    s.addWave pl.1 pl.2.1 (Wave.start gid i (tailMask r.wgthr i) (r.stageEntry (st.getD 0)) r.param (st.getD 0) st.isSome)) s

/-- A workgroup placed: its range is zero and empty. -/
def State.placeWg (s : State) (r : LaunchRec) (vd ctx launch gang wgid tag : Nat) (pl : Nat × List Nat × List Nat) : State :=
  let gid := s.nextId
  let g := r.workgroup vd ctx launch gang wgid tag gid pl
  let s := s.clearUnits pl.1 pl.2.2
  State.startWaves { s with wgs := Tab.put s.wgs gid g, nextId := gid + 1 } r gid pl

/-- A cluster enters fused mode: its L1s are written back and invalidated (R36). -/
def State.fuseCluster (s : State) (cl : Nat) (fuse : Bool) : State :=
  if fuse && !(s.core (8 * cl)).fused then
    let s := s.modCore (8 * cl) (fun c => { c with fused := true })
    { s with l1 := s.l1.filter (fun e => e.1 / 2 ^ 64 / 8 != cl) }
  else s

/-- The allocation tags in use (R300): those of the gangs that are resident or saved in an image, whose JMCAST cards carry
the same. -/
def State.tagsUsed (s : State) : List Nat :=
  let of (g : Workgroup) : List Nat :=
    g.tag :: (g.cards.filter (fun c => c.kind == 4 && !c.final)).map (fun c => cTag c.bytes)
  s.wgs.flatMap (fun e => of e.2) ++ s.images.flatMap (fun i => i.wgs.flatMap (fun x => of x.wg))

/-- The first tag from a value on that is not in use. -/
def freeTag (used : List Nat) : Nat → Nat → Nat
  | 0, t => t
  | n + 1, t => if used.contains t then freeTag used n ((t + 1) % 65536) else t

/-- The tag of the next gang that is placed (R300). -/
def State.nextTag (s : State) : Nat := freeTag s.tagsUsed s.tagsUsed.length s.gangTag

/-- A gang placed. -/
def State.placeGang (s : State) (launch : Nat) (la : Launch) (pl : Nat × List (Nat × List Nat × List Nat)) : State :=
  let tag := s.nextTag
  let s := s.fuseCluster pl.1 la.rcd.fuse
  let s := (pl.2.mapIdx (fun i p => (i, p))).foldl (fun s (e : Nat × Nat × List Nat × List Nat) =>
    s.placeWg la.rcd la.vd la.ctx launch la.placed e.1 tag e.2) { s with gangTag := (tag + 1) % 65536 }
  s.modLaunch launch (fun x => { x with placed := x.placed + 1 })

/-- The oldest launch of a context with a gang to place. Nothing new is placed beside a saved image, whose gangs come
first, nor of a launch with a workgroup that is being pre-empted (R34), nor while the context stops. -/
def State.waitingLaunch (s : State) (vd ctx : Nat) : Option (Nat × Launch) :=
  match s.ctx? vd ctx with
  | none => none
  | some c =>
    if !c.running || c.faulted || c.stopping || c.saved != .no then none
    else (s.launches.find? (fun e => e.2.vd == vd && e.2.ctx == ctx && e.2.placed < e.2.rcd.ngangs)).filter (fun e =>
      !s.wgs.any (fun g => g.2.launch == e.1 && g.2.preempt.isSome))

/-- The contexts of a virtual device with a workgroup waiting for placement, in ascending order. -/
def State.waitingCtxs (s : State) (vd : Nat) : List Nat :=
  (List.range 64).filter (fun c => (s.waitingLaunch vd c).isSome)

/-- The placement rounds that begin before the next gang: until a context that waits has a balance (R471). -/
def State.placementRound (s : State) (vd : Nat) : State :=
  let l := s.waitingCtxs vd
  let n := roundsUntil (l.filterMap (fun c => (s.ctx? vd c).map (fun x => (x.deficit, 32 * (x.weight : Int)))))
  l.foldl (fun s c => s.modCtx vd c (fun x => { x with deficit := afterRounds n x.deficit (32 * x.weight) })) s

/-- The placement that comes next: the next context in turn with a balance and a gang that fits, with its launch and place. -/
def State.nextPlace (s : State) (vd last : Nat) : Option (Nat × (Nat × Launch) × (Nat × List (Nat × List Nat × List Nat))) :=
  let l := (s.waitingCtxs vd).filter (fun c => match s.ctx? vd c with | some x => x.deficit > 0 | none => false)
  let order := l.filter (fun c => last < c) ++ l.filter (fun c => c ≤ last)
  order.findSome? (fun c => (s.waitingLaunch vd c).bind (fun e =>
    (s.gangPlaces vd e.2.rcd.gangsz e.2.rcd.shape).map (fun p => (c, e, p))))

/-- GANG_PLACEMENT: the next context in turn with a balance and a gang that fits has the gang placed (R34, R471). -/
def execGangPlacement (vd : Nat) (s : State) : Res :=
  match Tab.get? s.vds vd with
  | none => .next s
  | some v =>
    if v.st != .running then .next s
    else
      let s := s.placementRound vd
      match s.nextPlace vd v.lastCtx with
      | none => .next s
      | some (c, e, p) =>
        let s := s.placeGang e.1 e.2 p
        let s := s.modCtx vd c (fun x => { x with deficit := x.deficit - e.2.rcd.gangsz * e.2.rcd.nwaves })
        .next (s.modVd vd (fun v => { v with lastCtx := c }))

/-! ## Retirement (R66 to R68, R195, R306) -/

/-- The number under which the stores of a wave that left its slot at once go on: no wave slot has it. -/
def drainKey (gid : Nat) : Nat := 10240 + gid

/-- The stores of a wave go on without it. -/
def FabReq.handOver (r : FabReq) (k k' : Nat) : FabReq :=
  match r.who with
  | .store w l t a => if w = k then { r with who := .store k' l t a } else r
  | .own w l t a b y => if w = k then { r with who := .own k' l t a b y } else r
  | _ => r

/-- Whether every wave of a workgroup but those named has gone, all stores are performed and all cards final (R67). -/
def State.canRetire (s : State) (gid : Nat) (g : Workgroup) : Bool :=
  !s.outstanding (drainKey gid) && g.cards.all Card.final

/-- WAVE_RETIRE: a wave whose threads have all exited gives back its slot, once its stores are performed unless it left by
`EXIT.tail`. The last wave of a workgroup that cannot retire yet needs an entry in the retirement tracker. -/
def execWaveRetire (k : Nat) (s : State) : Res :=
  match Tab.get? s.waves k with
  | none => .next s
  | some w =>
    match Tab.get? s.wgs w.wg with
    | none => .next (s.dropWave k)
    | some g =>
      if w.alive ≠ 0 ∨ w.trap.isSome = true ∨ (!w.tail && s.outstanding k) = true ∨ g.frozen = true then .next s
      else
        let t := if w.tail then { s with reqs := s.reqs.map (fun r => FabReq.handOver r k (drainKey w.wg)) } else s
        let t := t.dropWave k
        let wait := decide (g.live ≤ 1) && !t.canRetire w.wg g
        if wait && decide (16 ≤ (s.core g.core).tracker.length) then .next s
        else
          let t := t.modWg w.wg (fun g => { g with live := g.live - 1, tracked := wait })
          .next (if wait then t.modCore g.core (fun c => { c with tracker := c.tracker ++ [w.wg] }) else t)

/-- The fault entries of the failed cards that a workgroup leaves unreported (R306, R451). -/
def State.cardFaults (s : State) (g : Workgroup) : State :=
  let l := g.cards.filter (fun c => c.st == .failed && !c.reported)
  let s := s.modCtx g.vd g.ctx (fun x => { x with
    faults := x.faults ++ l.map (fun c => ⟨c.seq, 7, c.code, false, false, false, 1, timeNs s.clock, false⟩) })
  let s := s.postFaults g.vd g.ctx
  if l.isEmpty then s else s.modLaunch g.launch (fun x => { x with spoiled := true })

/-- WORKGROUP_RETIRE: the workgroup's resources return to the allocator, and its launch counts it. -/
def execWorkgroupRetire (gid : Nat) (s : State) : Res :=
  match Tab.get? s.wgs gid with
  | none => .next s
  | some g =>
    if g.live ≠ 0 ∨ s.canRetire gid g = false ∨ g.frozen = true then .next s
    else
      let s := s.cardFaults g
      let s := s.releaseCore gid g.core
      let s := s.modLaunch g.launch (fun x => { x with retired := x.retired + 1 })
      let s := s.modVd g.vd (fun v => { v with progress := s.clock })
      .next { s with wgs := Tab.del s.wgs gid }

/-- Whether every workgroup of a launch has retired. -/
def Launch.over' (la : Launch) : Bool := la.placed == la.rcd.ngangs && la.retired == la.rcd.ngangs * la.rcd.gangsz

/-- A launch retired. -/
def State.endLaunch (s : State) (l vd : Nat) : State :=
  { s.modVd vd (fun v => { v with progress := s.clock }) with launches := Tab.del s.launches l }

/-- LAUNCH_COMPLETION_ADD: INCR is added to the completion counter through the context's translation (R42). -/
def execLaunchCompletionAdd (l : Nat) (s : State) : Res :=
  match Tab.get? s.launches l with
  | none => .next s
  | some la =>
    let a := BitVec.ofNat 64 la.rcd.cntaddr
    if !la.over' then .next s
    else if la.spoiled || la.rcd.cntaddr == 0 then .next (s.endLaunch l la.vd)
    else if la.waiting && s.awaits la.vd la.ctx (vaOf a) then .next s
    else if !canonical a then .next (s.contextFault la.vd la.ctx Cause.xlate.code.toNat 0 a)
    else
      let r := s.vccSpan la.vd la.ctx (vaOf a) 8 true
      let g : Agent := ⟨la.vd, la.ctx, 1000, 8, .vcc⟩
      match r.1 with
      | .absent p => .next ((r.2.vccFault la.vd la.ctx p true).modLaunch l (fun x => { x with waiting := true }))
      | .prot => .next (r.2.contextFault la.vd la.ctx Cause.prot.code.toNat 0 a)
      | .xlate => .next (r.2.contextFault la.vd la.ctx Cause.xlate.code.toNat 0 a)
      | .ok ps =>
        let s := r.2
        let add (s : State) (x : Loc) : State := ((s.rmw g (vaOf a) x 8 0 0 (leBytes la.rcd.incr 8)).2).endLaunch l la.vd
        let loc : Loc := match ps with
          | p :: _ => p.loc
          | [] => ⟨.host, 0⟩
        match (if loc.space = .fab then s.fabPlace la.vd loc.addr 8 (windowNeed opSig false) else .own 0) with
        | .refused _ => .next (s.contextFault la.vd la.ctx Cause.prot.code.toNat 0 a)
        | .peer dev _ _ =>
          .next ((s.request ⟨.evict la.vd la.ctx, 0, 0, 8, opSig, atomAttrs 0 0 8 false, leBytes la.rcd.incr 8, loc.addr, vaOf a,
            la.vd, dev, false⟩).endLaunch l la.vd)
        | .own m =>
          let x : Loc := if loc.space = .fab then ⟨.dev, m⟩ else loc
          match s.recallPlaces true [(x, 8)] with
          | some t => .next t
          | none => .next (add s x)

end Sys2Proof.Machine
end

