-- ==== Sys2Proof/Machine/Image.lean ====
section
/-! DEFINITION. Image.lean: pre-emption of workgroups, the saving of a context as one image, and its restore (R62 to R65,
R310, R315, R332, R443 to R447). -/

/-- What the workgroup block of an image says that this device has not written itself (R443): the workgroup with its waves'
`%waveid`s, and its launch. The coding is the devices' own. -/
opaque Sys2Proof.Config.decodeWg : List Sys2Proof.Byte → Option (Sys2Proof.Machine.SavedWg × Sys2Proof.Machine.Launch)
/-- What such an image's wave block says. -/
opaque Sys2Proof.Config.decodeWave : List Sys2Proof.Byte → Option Sys2Proof.Machine.Wave

namespace Sys2Proof.Machine

open Sys2Proof

/-! ## Pre-emption (R62 to R65) -/

/-- The workgroups of a context on the device. -/
def State.contextWgs (s : State) (vd ctx : Nat) : List (Nat × Workgroup) :=
  s.wgs.filter (fun e => e.2.vd == vd && e.2.ctx == ctx)

/-- A wave that is to be pre-empted, by force at a cycle: a sleep ends (R197). -/
def Wave.preemptAt (w : Wave) (t : Nat) : Wave :=
  { w with preempt := some t, busy := match w.busy with | .sleep _ => .no | b => b }

/-- Every workgroup of a context is to be pre-empted: its waves halt within the virtual device's timeout (R443). -/
def State.preemptContext (s : State) (vd ctx : Nat) : State :=
  let pto := match Tab.get? s.vds vd with | some v => v.pto | none => 20
  (s.contextWgs vd ctx).foldl (fun s e =>
    if e.2.preempt.isSome then s
    else
      let s := s.modWg e.1 (fun g => { g with preempt := some s.clock })
      (s.wavesOf e.1).foldl (fun s x => s.setWave x.1 (x.2.preemptAt (s.clock + 1300 * pto))) s) s

/-- Whether a workgroup occupies a sub-partition: by its waves, by units of its range in the quarter, or by the half that
the sub-partition owns (R62, R210, R315). -/
def State.occupies (s : State) (gid : Nat) (g : Workgroup) (sp : Nat) : Bool :=
  g.core == sp / 4 && (g.h.contains (sp % 4) || g.units.any (fun u => u / 32 == sp % 4) ||
    Tab.get? (s.core g.core).halves (sp % 4) == some gid)

/-- The workgroups that occupy a sub-partition. -/
def State.occupants (s : State) (sp : Nat) : List (Nat × Workgroup) := s.wgs.filter (fun e => s.occupies e.1 e.2 sp)

/-- A sub-partition is taken from its holder: the workgroups on it are pre-empted, with their gangs and contexts. -/
def State.preemptSp (s : State) (sp : Nat) : State :=
  (s.occupants sp).foldl (fun s e => s.preemptContext e.2.vd e.2.ctx) s

/-- PREEMPT_REQUEST. -/
def execPreemptRequest (sp : Nat) (s : State) : Res := .next (s.preemptSp sp)

/-- Whether a wave stands at a reconverged point (R63). -/
def Wave.reconverged (w : Wave) : Bool :=
  let ls := w.alive.lanes
  w.chain == 0 && w.spec.isNone && w.trap.isNone && !w.rft &&
    (ls.isEmpty || w.busy == .stage ||
      (w.onePc w.alive && (w.parked == 0 || (w.parked &&& w.alive == w.alive && ls.all (fun l => w.reasonOf l == w.reasonOf (ls.headD 0))))))

/-- Whether a wave is in the middle of an instruction: its loads or its KV operation have not answered (R64, R409), it enters a
trap or returns from one, which nothing divides, or its TLBINV is outstanding (R456). One that waits before an instruction for
its posted stores stands at a boundary. -/
def State.midway (s : State) (k : Nat) (w : Wave) : Bool :=
  w.trap.isSome || w.rft || match w.busy with
  | .kv | .away _ | .inv _ _ => true
  | .remote => s.reqs.any (fun r => match r.who with
      | .load x _ _ _ _ _ | .atomic x _ _ _ | .flush x => x == k
      | _ => false)
  | _ => false

/-- Whether a wave still waits for loads, stores or KV operations (R65, R409). -/
def State.unfinished (s : State) (k : Nat) (w : Wave) : Bool := s.outstanding k || s.midway k w

/-- A wave halted: a sleep and an open interval end (R197, R503). -/
def State.haltWave (s : State) (k : Nat) (forced : Bool) : State :=
  (s.modWave k (fun w => { w with
    halted := true, forced := forced, mark := none
    busy := match w.busy with | .sleep _ | .remote => .no | b => b })).endRun k

/-- WAVE_HALT: a wave to be pre-empted halts at the first instruction boundary where it stands at a reconverged point; its
posted stores are waited for after the halt (R63, R65). -/
def execWaveHalt (k : Nat) (s : State) : Res :=
  match Tab.get? s.waves k with
  | none => .next s
  | some w =>
    if w.preempt.isSome && !w.halted && w.reconverged && !s.midway k w then .next (s.haltWave k false) else .next s

/-- PREEMPT_TIMEOUT: a wave that has not halted in time is stopped: its open chain runs to its close first, and a
speculation is rolled back to its CBR. -/
def execPreemptTimeout (k : Nat) (s : State) : Res :=
  match Tab.get? s.waves k with
  | none => .next s
  | some w =>
    match w.preempt with
    | none => .next s
    | some t =>
      if w.halted || decide (s.clock < t) || w.chain != 0 || s.midway k w then .next s
      else
        let s := if w.spec.isSome then s.rollback k true else s
        .next (s.haltWave k true)

/-! ## The image (R443, R444, R446) -/

/-- Waves, workgroups and the rest that a save counts. -/
structure Counts where
  nwave    : Nat
  nwg      : Nat
  ngang    : Nat
  maxgang  : Nat
  maxwaves : Nat
  scratch  : Nat
  journal  : Nat
  nbar     : Nat
  nguard   : Nat
  nqueue   : Nat
  ncons    : Nat
  nhalf    : Nat
  nfused   : Nat
  nattn    : Nat
  deriving DecidableEq, Repr

/-- The counts of an image's workgroups. -/
def countsOf (l : List SavedWg) : Counts :=
  let ws := l.flatMap (fun x => x.waves.map Prod.snd)
  let sum (f : SavedWg → Nat) : Nat := l.foldl (fun n x => n + f x) 0
  let most (f : SavedWg → Nat) : Nat := l.foldl (fun n x => max n (f x)) 0
  let arrivals (x : SavedWg) (o : Nat) : Bool := Tab.getD x.bytes (o + 2) 0 != 0 || Tab.getD x.bytes (o + 3) 0 != 0
  let bars (x : SavedWg) : Nat :=
    ((x.waves.flatMap (fun w => w.2.parked.lanes.filterMap w.2.barOff) ++ x.wg.bars.filter (arrivals x)).eraseDups).length
  { nwave := ws.length
    nwg := l.length
    ngang := ((l.map (fun x => (x.wg.launch, x.wg.gang))).eraseDups).length
    maxgang := most (fun x => x.wg.gangsz)
    maxwaves := most (fun x => x.wg.nwaves)
    scratch := sum (fun x => x.wg.salloc)
    journal := most (fun x => x.wg.jrnSize)
    nbar := sum bars
    nguard := sum (fun x => (x.wg.guards.filter (fun e => e.2.st != .free)).length)
    nqueue := sum (fun x => x.wg.queues.length)
    ncons := (ws.filter (fun w => w.member.isSome)).length
    nhalf := sum (fun x => x.wg.slots.length)
    nfused := sum (fun x => x.wg.fused.length)
    nattn := sum (fun x => if x.wg.cards.any (fun c => !c.final && c.kind == 0x18 && c.st != .published) then 1 else 0) }

/-- The bytes of an image by its counts (R443), raised to a multiple of 64 (R444). -/
def imageLen (nwg scratch nhalf nwave : Nat) : Nat :=
  (128 + 512 * nwg + scratch + scratch / 128 + 122880 * nhalf + 9216 * nwave + 63) / 64 * 64

/-- The bytes of an image. -/
def Counts.length (c : Counts) : Nat := imageLen c.nwg c.scratch c.nhalf c.nwave

/-- The bits that a header holds in [895:560]. -/
def headerBits (c : Counts) (ctr : BitVec 64) (ctxid : Nat) (prot full inh fuse : Bool) : Nat :=
  let b (x : Bool) (n : Nat) : Nat := if x then 2 ^ n else 0
  ctr.toNat * 2 ^ 832 + ctxid * 2 ^ 800 + 2 ^ 792 + b fuse 787 + b inh 786 + b full 785 + b prot 784 + c.length * 2 ^ 744 +
    c.nwave % 65536 * 2 ^ 720 + c.nwg % 65536 * 2 ^ 704 + c.ngang % 65536 * 2 ^ 688 + c.maxgang * 2 ^ 680 + c.maxwaves * 2 ^ 672 +
    c.scratch % 2 ^ 32 * 2 ^ 640 + c.journal * 2 ^ 624 + c.nbar % 65536 * 2 ^ 608 + c.nguard % 256 * 2 ^ 600 +
    c.nqueue % 256 * 2 ^ 592 + c.ncons % 256 * 2 ^ 584 + c.nhalf % 256 * 2 ^ 576 + c.nfused % 256 * 2 ^ 568 + c.nattn % 256 * 2 ^ 560

/-- The key of a virtual device. -/
def State.memKey (s : State) (vd : Nat) : BitVec 256 :=
  match Tab.get? s.vds vd with
  | some v => Tab.getD s.keys v.mkey 0
  | none => 0

/-- The key of a context's protected images (R446). -/
def State.imageKey (s : State) (vd ctx : Nat) : BitVec 256 :=
  Config.hkdf (s.memKey vd) ([0x63, 0x74, 0x78] ++ leBytes (vd * 64 + ctx) 4)

/-- The IV of an image: SAVECTR over CTXID. -/
def imageIv (vd ctx : Nat) (ctr : BitVec 64) : BitVec 96 := ctr ++ BitVec.ofNat 32 (vd * 64 + ctx)

/-- A body encrypted in place, or decrypted: the key stream is added (R446). -/
def State.seal (s : State) (vd ctx : Nat) (ctr : BitVec 64) (body : List Byte) : List Byte :=
  let k := s.imageKey vd ctx
  body.mapIdx (fun i b => b ^^^ Config.gcmStream k (imageIv vd ctx ctr) i)

/-- The tag of a protected image over its header's bytes 0–111 and its encrypted body (R446). -/
def State.imageTag (s : State) (vd ctx : Nat) (ctr : BitVec 64) (head body : List Byte) : BitVec 128 :=
  Config.gcmTag (s.imageKey vd ctx) (imageIv vd ctx ctr) head body

/-- The places in a body of a workgroup's waves, whose block is at `o`: behind the block, the range, the full/empty bits and the
halves (R443). -/
def SavedWg.wavesAt (x : SavedWg) (o : Nat) : Nat :=
  o + 512 + x.wg.salloc + x.wg.salloc / 128 + 122880 * x.wg.slots.length

/-- The bytes of a workgroup in a body. -/
def SavedWg.size (x : SavedWg) : Nat := x.wavesAt 0 + 9216 * x.waves.length

/-- Bytes [o, o + n) of a body where the device codes them in its own way. -/
def codedBytes (seed o n : Nat) : List Byte := (List.range n).map (fun i => Config.imageByte seed (o + i))

/-- A workgroup's bytes at `o` of a body. -/
def SavedWg.body (x : SavedWg) (seed o : Nat) : List Byte :=
  codedBytes seed o 512 ++ (List.range x.wg.salloc).map (fun i => Tab.getD x.bytes i 0) ++
    (List.range (x.wg.salloc / 128)).map (fun j =>
      BitVec.ofNat 8 ((List.range 8).foldl (fun n b => if x.fe.contains (8 * j + b) then n + 2 ^ b else n) 0)) ++
    x.wg.slots.flatMap (fun e => (List.range 20480).flatMap (fun i => leBytes (Tab.getD x.tiles (e.1 * 20480 + i) 0).toNat 6)) ++
    codedBytes seed (x.wavesAt o) (9216 * x.waves.length)

/-- The workgroups of an image with their places in its body. -/
def placed : Nat → List SavedWg → List (Nat × SavedWg)
  | _, [] => []
  | o, x :: r => (o, x) :: placed (o + x.size) r

/-- The body of an image of n bytes. -/
def imageBody (seed n : Nat) (l : List SavedWg) : List Byte :=
  let b := (placed 0 l).flatMap (fun e => e.2.body seed e.1)
  b ++ codedBytes seed b.length (n - b.length)

/-- What a save takes of a workgroup: its range, full bits, tiles by slot, and waves by `%waveid`. -/
def State.saveWg (s : State) (gid : Nat) (g : Workgroup) : SavedWg where
  id := gid
  wg := g
  bytes := (List.range g.salloc).filterMap (fun o =>
    let b := cellGet s.scratch (scratchAddr g o)
    if b = 0 then none else some (o, b))
  fe := (List.range (g.salloc / 16)).filter (fun i => s.feOf (granuleOf g (16 * i)))
  tiles := g.slots.flatMap (fun e =>
    (s.acc.filter (fun x => x.1 / 20480 == g.core * 4 + e.2)).map (fun x => (e.1 * 20480 + x.1 % 20480, x.2)))
  tags := g.slots.flatMap (fun e =>
    (s.accInt.filter (fun x => x.1 / 40 == g.core * 4 + e.2)).map (fun x => e.1 * 40 + x.1 % 40))
  waves := ((List.range 32).flatMap (fun i => (s.wavesOf gid).filter (fun e => e.2.waveid == i))).map (fun e => (e.2.waveid, e.2))

/-- Whether everything of a pre-empted workgroup stands still (R65, R281, R310, R409). -/
def State.wgStill (s : State) (gid : Nat) (g : Workgroup) : Bool :=
  g.frozen && (s.wavesOf gid).all (fun e => (e.2.halted || e.2.alive == 0) && !s.unfinished e.1 e.2) &&
    g.cards.all (fun c => c.st != .running) && g.queues.all (fun q => q.2.copies.isEmpty && q.2.popping == 0) &&
    !s.outstanding (drainKey gid) && s.kvcopies.all (fun l => l.2.all (fun c => c.op.wg != gid))

/-- Waves leave their slots for an image; they keep their consensus positions (R361). -/
def State.unseat (s : State) (gid : Nat) : State :=
  { s with
    waves := s.waves.filter (fun e => e.2.wg != gid)
    sps := s.sps.map (fun e => (e.1, { e.2 with run := match e.2.run with
      | some r => (match Tab.get? s.waves r.wave with
        | some w => if w.wg = gid then none else e.2.run
        | none => e.2.run)
      | none => none })) }

/-- A workgroup leaves its core for an image. -/
def State.unload (s : State) (gid : Nat) (g : Workgroup) : State :=
  let s := (s.unseat gid).dropCards gid
  let s := g.slots.foldl (fun s e => s.clearHalf g.core e.2) s
  let s := s.releaseCore gid g.core
  { s with wgs := Tab.del s.wgs gid }

/-- A context written out as one image of its workgroups, which leave the device. -/
def State.saveContext (s : State) (vd ctx : Nat) (c : Context) : State :=
  let ws := s.contextWgs vd ctx
  let saved := ws.map (fun e => s.saveWg e.1 e.2)
  let n := countsOf saved
  let any (f : Wave → Bool) : Bool := saved.any (fun x => x.waves.any (fun w => f w.2))
  let ctr := c.savectr + 1
  let fuse := ws.any (fun e => ((s.rcdOf e.2).map LaunchRec.fuse).getD false)
  let head := (leBytes (headerBits n ctr (ctxKey vd ctx) c.prot (any Wave.forced) (any (fun w => w.tcause.getLsbD 31)) fuse) 112)
  let plain := imageBody s.free (n.length - 128) saved
  let body := if c.prot then s.seal vd ctx ctr plain else plain
  let tag := if c.prot then s.imageTag vd ctx ctr head body else 0
  let t := { s with host := cellsSet s.host c.save (head ++ leBytes tag.toNat 16 ++ body) }
  let t := ws.foldl (fun s e => s.unload e.1 e.2) t
  let img : Image := ⟨vd, ctx, ctr, s.free, saved⟩
  let t : State := { t with images := t.images.filter (fun (i : Image) => !(i.vd == vd && i.ctx == ctx)) ++ [img] }
  t.modCtx vd ctx (fun c => { c with
    savectr := ctr, used := false, running := c.running && !c.stopping, stopping := false
    saved := if c.stopping || !c.running then .hold else .retry false })

/-- CONTEXT_SAVE: once all its workgroups stand still a context is written out as one image, and leaves the device. -/
def execContextSave (vd ctx : Nat) (s : State) : Res :=
  match s.ctx? vd ctx with
  | none => .next s
  | some c =>
    let ws := s.contextWgs vd ctx
    if ws.isEmpty || !ws.all (fun e => s.wgStill e.1 e.2) then .next s else .next (s.saveContext vd ctx c)

/-! ## The restore (R447) -/

/-- The outcomes of a restore. -/
inductive Restored where
  | accepted | badimg | stale | short | never | tag
  deriving DecidableEq, Repr

/-- The code of a refusal. -/
def Restored.code : Restored → Nat
  | .accepted => 0
  | .badimg => 1
  | .stale => 2
  | .short => 3
  | .never => 4
  | .tag => 5

/-- Check 1 on a header: FMT, zero fields, CTXID, and LENGTH against the counts. -/
def headerOk (h : Nat) (ctxid : Nat) : Bool :=
  let f (lo n : Nat) : Nat := bitsOf h lo n
  f 792 8 == 1 && f 788 4 == 0 && f 736 8 == 0 && f 0 560 == 0 && f 800 32 == ctxid &&
    f 744 40 == imageLen (f 704 16) (f 640 32) (f 576 8) (f 720 16)

/-- Check 3: whether the image could ever fit. -/
def State.couldFit (s : State) (v : VDev) (l : List SavedWg) : Bool :=
  l.all (fun x =>
    let gang := l.filter (fun y => y.wg.launch == x.wg.launch && y.wg.gang == x.wg.gang)
    s.gangFits gang.length && decide (gang.foldl (fun n y => n + min 4 y.wg.nwaves) 0 ≤ v.maxsp) &&
      decide (x.wg.salloc ≤ 524288) && decide (x.wg.slots.length ≤ 4) && decide (x.wg.fused.length ≤ 2))

/-- What a parked thread of a restored wave still knows of what it waits for: the rest is checked again (R64). -/
def keepArg (a : ParkArg) : Bool :=
  match a with
  | .granule _ | .counter _ _ _ => false
  | _ => true

/-- A wave as an image gives it back. -/
def Wave.restored (w : Wave) : Wave :=
  { w.dropLatches with
    preempt := none, halted := false, forced := false, ahead := [], parkArg := w.parkArg.filter (fun e => keepArg e.2) }

/-- A card of a restored ring: every card that is not final is admitted again (R310). -/
def Card.restored (c : Card) : Card :=
  if c.final then c else { c with st := .published, eng := none, page := none, implied := none }

/-- The slots of a workgroup bound again, fused pairs first, each pair to the halves of one engine (R332). -/
def State.rebind (s : State) (gid : Nat) (g : Workgroup) : Option State :=
  let old := g.slots
  let single := (old.map Prod.fst).filter (fun sl => !(g.fused.contains sl || g.fused.any (fun f => f + 1 == sl)))
  let s0 := s.modWg gid (fun g => { g with slots := [], fused := [] })
  let pair (s : Option State) (sl : Nat) : Option State := s.bind (fun s =>
    (Tab.get? s.wgs gid).bind (fun g =>
      let f := s.freeHalves g
      ([0, 1].find? (fun e => f.contains (2 * e) && f.contains (2 * e + 1))).map (fun e =>
        let h := Tab.getD old sl 0 % 2
        (s.bindHalf gid g.core sl (2 * e + h)).bindHalf gid g.core (sl + 1) (2 * e + 1 - h))))
  let one (s : Option State) (sl : Nat) : Option State := s.bind (fun s =>
    (Tab.get? s.wgs gid).bind (fun g => (s.freeHalves g).head?.map (fun h => s.bindHalf gid g.core sl h)))
  single.foldl one (g.fused.foldl pair (some s0))

/-- The threads of a workgroup that are parked at barrier objects check their phases again (R64, R266, R281). -/
def State.recheckBarriers (s : State) (gid : Nat) : State :=
  let offs := ((s.wavesOf gid).flatMap (fun e => e.2.parked.lanes.filterMap e.2.barOff)).eraseDups
  offs.foldl (fun s off => s.barResume gid off) s

/-- A workgroup put back at a place. -/
def State.restoreWg (s : State) (x : SavedWg) (pl : Nat × List Nat × List Nat) : Option State :=
  let g := { x.wg with core := pl.1, h := pl.2.1, units := pl.2.2, preempt := none, cards := x.wg.cards.map Card.restored }
  let attn := x.wg.cards.any (fun c => !c.final && c.kind == 0x18 && c.st != .published)
  if (attn && (s.core pl.1).attn.isSome) || (g.tracked && decide (16 ≤ (s.core pl.1).tracker.length)) then none
  else
    let s := s.clearUnits pl.1 pl.2.2
    let s := { s with wgs := Tab.put s.wgs x.id g }
    (s.rebind x.id g).map (fun s =>
      let g := (Tab.get? s.wgs x.id).getD g
      let s := s.modCore pl.1 (fun c => { c with
        attn := if attn then some x.id else c.attn, tracker := if g.tracked then c.tracker ++ [x.id] else c.tracker })
      let s : State := { s with
        scratch := x.bytes.foldl (fun m e => cellSet m (scratchAddr g e.1) e.2) s.scratch
        fe := x.fe.foldl (fun t i => Tab.set false t (granuleOf g (16 * i)) true) s.fe
        acc := x.tiles.foldl (fun t e => match Tab.get? g.slots (e.1 / 20480) with
          | some h => Tab.set 0 t ((g.core * 4 + h) * 20480 + e.1 % 20480) e.2
          | none => t) s.acc
        accInt := x.tags.foldl (fun t k => match Tab.get? g.slots (k / 40) with
          | some h => Tab.set false t ((g.core * 4 + h) * 40 + k % 40) true
          | none => t) s.accInt }
      State.recheckBarriers (x.waves.foldl (fun s w => s.addWave pl.1 pl.2.1 w.2.restored) s) x.id)

/-- The cores of a cluster that can take a gang's workgroups in increasing number, each workgroup on the next core that
takes it. -/
def takeCores (f : Nat → SavedWg → Option (List Nat × List Nat)) : List Nat → List SavedWg → Option (List (SavedWg × Nat × List Nat × List Nat))
  | _, [] => some []
  | [], _ :: _ => none
  | c :: cs, x :: xs =>
    match f c x with
    | some p => (takeCores f cs xs).map (fun l => (x, c, p) :: l)
    | none => takeCores f cs (x :: xs)

/-- A gang put back on the lowest cluster that takes it. -/
def State.restoreGang (s : State) (vd : Nat) (gang : List SavedWg) : Option State :=
  let fuse := gang.any (fun x => match Tab.get? s.launches x.wg.launch with
    | some la => la.rcd.fuse
    | none => false)
  (List.range 20).findSome? (fun cl =>
    if !s.clusterOk vd cl fuse then none
    else
      let cores := (s.clusterCores cl).filter (fun c => !s.frozenCore vd c)
      match takeCores (fun c x => s.fitOn c (s.heldOn vd c) [] ⟨x.wg.nwaves, x.wg.salloc, fuse⟩) cores gang with
      | none => none
      | some l => l.foldl (fun (t : Option State) e => t.bind (fun s => s.restoreWg e.1 e.2)) (some (s.fuseCluster cl fuse)))

/-- The gangs of an image, in increasing launch and index order. -/
def gangsOf (l : List SavedWg) : List (List SavedWg) :=
  ((l.map (fun x => (x.wg.launch, x.wg.gang))).eraseDups).map (fun k => l.filter (fun x => (x.wg.launch, x.wg.gang) == k))

/-- The workgroup block at `o` of a body: the device's own as it was written, or another device's. -/
def readBlock (own : Option Image) (b : List Byte) (o : Nat) : Option (SavedWg × Option Launch) :=
  let bs := (b.drop o).take 512
  match own.bind (fun i => if bs = codedBytes i.seed o 512 then (placed 0 i.wgs).find? (fun e => e.1 == o) else none) with
  | some e => some (e.2, none)
  | none => (Config.decodeWg bs).map (fun y => (y.1, some y.2))

/-- The wave block at `o` of a body, whose wave is the j-th of its workgroup. -/
def readWave (own : Option Image) (b : List Byte) (at' j o : Nat) : Option Wave :=
  let bs := (b.drop o).take 9216
  match own.bind (fun i => if bs = codedBytes i.seed o 9216 then
      ((placed 0 i.wgs).find? (fun e => e.1 == at')).bind (fun e => e.2.waves[j]?) else none) with
  | some e => some e.2
  | none => Config.decodeWave bs

/-- A workgroup as a body holds it at `o`: its blocks decoded, its range, full/empty bits and tiles as they stand there. -/
def readWg (own : Option Image) (b : List Byte) (o : Nat) : Option (SavedWg × Option Launch) :=
  (readBlock own b o).bind (fun y =>
    let x := y.1
    let n := x.wg.salloc
    let half := o + 512 + n + n / 128
    let waves := x.waves.mapIdx (fun j w => (w.1, readWave own b o j (x.wavesAt o + 9216 * j)))
    if waves.any (fun w => w.2.isNone) then none
    else some ({ x with
      bytes := (((b.drop (o + 512)).take n).mapIdx (fun i v => (i, v))).filter (fun e => e.2 != 0)
      fe := (List.range (n / 16)).filter (fun i => (b.getD (o + 512 + n + i / 8) 0).getLsbD (i % 8))
      tiles := (x.wg.slots.mapIdx (fun k e => (List.range 20480).filterMap (fun i =>
        let v := leNat ((b.drop (half + 122880 * k + 6 * i)).take 6)
        if v = 0 then none else some (e.1 * 20480 + i, BitVec.ofNat 48 v)))).flatten
      waves := waves.filterMap (fun w => w.2.map (fun v => (w.1, v))) }, y.2))

/-- The workgroups of a body from `o` on. -/
def readWgs (own : Option Image) (b : List Byte) : Nat → Nat → Option (List (SavedWg × Option Launch))
  | 0, _ => some []
  | n + 1, o => (readWg own b o).bind (fun y => (readWgs own b n (o + y.1.size)).map (fun l => y :: l))

/-- A copy card of a ring that another device wrote goes on from PROG of its entry (R487). -/
def SavedWg.reread (x : SavedWg) (c : Card) : Card :=
  if isCopy c.kind && !c.final then
    { c with prog := leNat ((List.range 5).map (fun i => Tab.getD x.bytes (x.wg.cardAt c.seq 20 + i) 0)) }
  else c

/-- Workgroups and launches that another device wrote take numbers of this one. -/
def numbered (next vd ctx : Nat) (l : List (SavedWg × Option Launch)) : List (SavedWg × Option (Nat × Launch)) :=
  l.mapIdx (fun i e => match e.2 with
    | none => (e.1, none)
    | some la =>
      let ln := next + 2 * l.findIdx (fun y => y.2.isSome && y.1.wg.launch == e.1.wg.launch) + 1
      let id := next + 2 * i
      ({ e.1 with
        id := id
        wg := { e.1.wg with vd := vd, ctx := ctx, launch := ln, cards := e.1.wg.cards.map e.1.reread }
        waves := e.1.waves.map (fun w => (w.1, { w.2 with wg := id, waveid := w.1 })) },
        some (ln, { la with vd := vd, ctx := ctx })))

/-- The header that stands in a context's save area. -/
def State.savedHeader (s : State) (c : Context) : Nat := leNat (cellsGet s.host c.save 128)

/-- Whether an image counts as protected: by its header, or because its context is. -/
def sealed (h : Nat) (c : Context) : Bool := bitsOf h 784 1 == 1 || c.prot

/-- The bytes of the body that stands in a context's save area. -/
def State.savedBody (s : State) (c : Context) : List Byte :=
  cellsGet s.host (c.save + 128) (bitsOf (s.savedHeader c) 744 40 - 128)

/-- The workgroups of the image that stands in a context's save area, none where its blocks do not make up its length. -/
def State.savedWgs (s : State) (vd ctx : Nat) (c : Context) : Option (List (SavedWg × Option (Nat × Launch))) :=
  let h := s.savedHeader c
  let ctr := BitVec.ofNat 64 (bitsOf h 832 64)
  let b := s.savedBody c
  let b := if sealed h c then s.seal vd ctx ctr b else b
  let own := s.images.find? (fun i => i.vd == vd && i.ctx == ctx && i.savectr == ctr)
  ((readWgs own b (bitsOf h 704 16) 0).filter (fun l =>
    (128 + l.foldl (fun n y => n + y.1.size) 0 + 63) / 64 * 64 == bitsOf h 744 40)).map (numbered s.nextId vd ctx)

/-- Check 6: every wave has park reasons of R51 and PCs of R438. -/
def Wave.imageOk (w : Wave) : Bool :=
  w.alive.lanes.all (fun l => canonical (w.pcOf l) && (w.pcOf l).toNat % 8 == 0 && decide (w.reasonOf l ≤ 6))

/-- The checks of a restore in their order, with the state in which an accepted image is resident. -/
def State.tryRestore (s : State) (vd ctx : Nat) : Restored × State :=
  match Tab.get? s.vds vd, s.ctx? vd ctx with
  | some v, some c =>
    let bs := cellsGet s.host c.save 128
    let h := s.savedHeader c
    let ctr := BitVec.ofNat 64 (bitsOf h 832 64)
    if !headerOk h (ctxKey vd ctx) then (.badimg, s)
    else if ctr ≠ c.savectr ∨ c.used = true then (.stale, s)
    else
      let tagOk : Bool := !sealed h c || s.imageTag vd ctx ctr (bs.take 112) (s.savedBody c) == BitVec.ofNat 128 (bitsOf h 896 128)
      match s.savedWgs vd ctx c with
      | none => (if tagOk then .badimg else .tag, s)
      | some l =>
        let ws := l.map Prod.fst
        let new := l.filterMap Prod.snd
        let u : State := { s with
          launches := new.foldl (fun t e => Tab.put t e.1 e.2) s.launches
          nextId := if new.isEmpty then s.nextId else s.nextId + 2 * l.length }
        if !s.couldFit v ws then (.never, s)
        else match (gangsOf ws).foldl (fun (t : Option State) g => t.bind (fun s => s.restoreGang vd g)) (some u) with
          | none => (.short, s)
          | some t =>
            if !tagOk then (.tag, s)
            else if !ws.all (fun x => x.waves.all (fun w => w.2.imageOk)) then (.badimg, s)
            else
              let t : State := { t with images := t.images.filter (fun (x : Image) => !(x.vd == vd && x.ctx == ctx)) }
              (.accepted, t.modCtx vd ctx (fun c => { c with used := true, saved := .no }))
  | _, _ => (.stale, s)

/-- A refusal reported to the owner. -/
def State.reportRefusal (s : State) (vd ctx code : Nat) : State :=
  (s.modCtx vd ctx (fun c => { c with report := some (code, 0, 0) })).irq vd 2 ctx

/-- CONTEXT_RESTORE: an image is checked, and restored or refused. -/
def State.restore (s : State) (vd ctx : Nat) : State :=
  let r := s.tryRestore vd ctx
  match r.1 with
  | .accepted => r.2
  | .stale => (s.modCtx vd ctx (fun c => { c with saved := .hold })).reportRefusal vd ctx 2
  | .short =>
    let first : Bool := match s.ctx? vd ctx with
      | some c => c.saved != .retry true
      | none => false
    let s := s.modCtx vd ctx (fun c => { c with saved := .retry true })
    if first then s.reportRefusal vd ctx 3 else s
  | x => s.contextFault vd ctx x.code 0 0

/-- CONTEXT_RESTORE at a grant: the images that R447 tries then. -/
def execContextRestore (vd ctx : Nat) (s : State) : Res :=
  match Tab.get? s.vds vd, s.ctx? vd ctx with
  | some v, some c =>
    match c.saved with
    | .retry _ => if v.st = .running && c.running && !c.stopping then .next (s.restore vd ctx) else .next s
    | _ => .next s
  | _, _ => .next s

end Sys2Proof.Machine
end

