-- ==== Sys2Proof/Machine/Slice.lean ====
section
/-! DEFINITION. Slice.lean: the slice scheduler: readiness, virtual times, a scheduling pass, world switches with the saving
and restoring of counters, and counter sets (R210, R470, R489, R494, R496). -/

namespace Sys2Proof.Machine

open Sys2Proof

/-! ## Counters in the save area (R496) -/

/-- The bytes of n counters of a bank from an index: values, then control words. -/
def Bank.bytes (b : Bank) (base n : Nat) : List Byte :=
  (List.range n).flatMap (fun i => leBytes (Tab.getD b.val (base + i) (0 : BitVec 48)).toNat 8) ++
    (List.range n).flatMap (fun i => leBytes (Tab.getD b.ctl (base + i) (0 : BitVec 32)).toNat 4)

/-- A bank with n counters from an index taken from bytes. -/
def Bank.load (b : Bank) (base n : Nat) (bs : List Byte) : Bank :=
  (List.range n).foldl (fun (b : Bank) i =>
    { val := Tab.set 0 b.val (base + i) (BitVec.ofNat 48 (leNat ((bs.drop (8 * i)).take 8)))
      ctl := Tab.set 0 b.ctl (base + i) (BitVec.ofNat 32 (leNat ((bs.drop (8 * n + 4 * i)).take 4))) }) b

/-- The bytes of a core's latency capture unit. -/
def Lcu.bytes (u : Lcu) : List Byte :=
  leBytes u.min.toNat 4 ++ leBytes u.max.toNat 4 ++ leBytes u.count.toNat 8 ++ leBytes u.sum.toNat 8 ++ leBytes u.ctl.toNat 4 ++
    (List.range 16).flatMap (fun i => leBytes (Tab.getD u.bins i (0 : BitVec 32)).toNat 4)

/-- A unit taken from bytes. -/
def Lcu.load (bs : List Byte) : Lcu :=
  let f (o n : Nat) : Nat := leNat ((bs.drop o).take n)
  ⟨BitVec.ofNat 32 (f 24 4), BitVec.ofNat 32 (f 0 4), BitVec.ofNat 32 (f 4 4), BitVec.ofNat 48 (f 8 8), BitVec.ofNat 64 (f 16 8),
    (List.range 16).foldl (fun t i => Tab.set 0 t i (BitVec.ofNat 32 (f (28 + 4 * i) 4))) [], 0⟩

/-- The save area of a virtual device. -/
def State.csaveOf (s : State) (vd : Nat) : Nat :=
  match Tab.get? s.vds vd with
  | some v => v.csave
  | none => 0

/-- Bytes written to a save area. -/
def State.csaveWrite (s : State) (vd off : Nat) (bs : List Byte) : State :=
  { s with host := cellsSet s.host (s.csaveOf vd + off) bs }
/-- Bytes read from a save area. -/
def State.csaveRead (s : State) (vd off n : Nat) : List Byte := cellsGet s.host (s.csaveOf vd + off) n

/-- The counters of a sub-partition, and those of its core with sub-partition 0, saved for the holder. -/
def State.saveBanks (s : State) (vd sp : Nat) : State :=
  let s := s.csaveWrite vd (128 * sp) ((s.sp sp).bank.bytes 0 8)
  if sp % 4 = 0 then
    let c := sp / 4
    s.csaveWrite vd (81920 + 256 * c) ((s.core c).bank.bytes 0 8 ++ (s.lcuAt c).bytes)
  else s

/-- The counters of a sub-partition, and those of its core with sub-partition 0, taken back for a holder; none for nobody. -/
def State.loadBanks (s : State) (vd sp : Nat) : State :=
  let c := sp / 4
  let b := if vd = 0 then Bank.zero else Bank.load Bank.zero 0 8 (s.csaveRead vd (128 * sp) 96)
  let s := s.modSp sp (fun p => { p with bank := b })
  if sp % 4 ≠ 0 then s
  else
    let cb := if vd = 0 then Bank.zero else Bank.load Bank.zero 0 8 (s.csaveRead vd (81920 + 256 * c) 96)
    let u := if vd = 0 then Lcu.init else Lcu.load (s.csaveRead vd (81920 + 256 * c + 96) 92)
    let s := s.modCore c (fun k => { k with bank := cb })
    { s with lcus := Tab.put s.lcus c u }

/-! ## Counter sets (R494) -/

/-- The keys of a set in a bank of m units with n counters each. -/
def setKeys (t m n : Nat) (k : Nat) : Bool := t * m * n ≤ k && k < (t + 1) * m * n

/-- The values and controls of a set saved for its owner. -/
def State.saveSet (s : State) (vd t : Nat) : State :=
  let s := (List.range 192).foldl (fun (s : State) x => s.csaveWrite vd (122880 + 96 * x) (s.llcCnt.bytes ((t * 192 + x) * 8) 8)) s
  (List.range 8).foldl (fun (s : State) x => s.csaveWrite vd (141312 + 48 * x) (s.hbmCnt.bytes ((t * 8 + x) * 4) 4)) s

/-- The states of R459 that follow a kill. -/
def VdState.dying : VdState → Bool
  | .killing | .draining | .scrubbing | .resetting => true
  | _ => false

/-- Whether a virtual device is being killed: its banks were saved at STOP, and not again (R496). -/
def State.isDying (s : State) (vd : Nat) : Bool :=
  match Tab.get? s.vds vd with
  | some v => v.st.dying
  | none => false

/-- A set freed: its values and controls go to the owner's save area. -/
def State.freeSet (s : State) (vd t : Nat) : State :=
  let s := if s.isDying vd then s else s.saveSet vd t
  let cut (b : Bank) (m n : Nat) : Bank :=
    ⟨b.val.filter (fun e => !setKeys t m n e.1), b.ctl.filter (fun e => !setKeys t m n e.1)⟩
  let s : State := { s with llcCnt := cut s.llcCnt 192 8, hbmCnt := cut s.hbmCnt 8 4, setOwner := Tab.del s.setOwner t }
  s.modVd vd (fun v => { v with pmset := none })

/-- The lowest free set allocated to a virtual device that holds a sub-partition and has no set. -/
def State.allocSet (s : State) (vd : Nat) : State :=
  if vd = 0 ∨ (s.setOf vd).isSome = true then s
  else match (List.range 16).find? (fun t => (Tab.get? s.setOwner t).isNone) with
    | none => s
    | some t =>
      let s : State := { s with
        setOwner := Tab.put s.setOwner t vd
        llcCnt := (List.range 192).foldl (fun (b : Bank) x => b.load ((t * 192 + x) * 8) 8 (s.csaveRead vd (122880 + 96 * x) 96)) s.llcCnt
        hbmCnt := (List.range 8).foldl (fun (b : Bank) x => b.load ((t * 8 + x) * 4) 4 (s.csaveRead vd (141312 + 48 * x) 48)) s.hbmCnt }
      s.modVd vd (fun v => { v with pmset := some t })

/-- Whether a virtual device holds a sub-partition. -/
def State.holdsSp (s : State) (vd : Nat) : Bool := s.sps.any (fun e => e.2.holder == vd)

/-- Whether a virtual device has a card that is not final, resident or saved. -/
def State.openCards (s : State) (vd : Nat) : Bool :=
  s.wgs.any (fun e => e.2.vd == vd && e.2.cards.any (fun c => !c.final)) ||
    s.images.any (fun i => i.vd == vd && (match s.ctx? vd i.ctx with | some c => c.saved != .no | none => false) &&
      i.wgs.any (fun x => x.wg.cards.any (fun c => !c.final)))

/-- The sets whose owners hold no sub-partition and have no open card are freed, and those who wait for one get it. -/
def State.turnSets (s : State) : State :=
  let gone := s.setOwner.filter (fun e => !s.holdsSp e.2 && !s.openCards e.2)
  let s := gone.foldl (fun s e => s.freeSet e.2 e.1) s
  (s.vds.filter (fun e => e.2.pmset.isNone && s.holdsSp e.1)).foldl (fun s e => s.allocSet e.1) s

/-! ## World switches (R199, R210, R470) -/

/-- A sub-partition passes to a holder (0: to nobody): counters saved and taken back, its quarter cleared, its loop buffer
emptied. -/
def State.switchSp (s : State) (sp vd : Nat) : State :=
  let old := (s.sp sp).holder
  let s := if old = 0 ∨ s.isDying old = true then s else s.saveBanks old sp
  let s := s.clearUnits (sp / 4) ((List.range 32).map (32 * (sp % 4) + ·))
  let s := s.modSp sp (fun p => { p with
    holder := vd, tag := vd, next := none, loop := none, run := none, deficit := [], last := 0 })
  (s.loadBanks vd sp).allocSet vd

/-- The world switches under way whose sub-partitions have been left. -/
def State.finishSwitches (s : State) : State :=
  s.sps.foldl (fun s e =>
    match e.2.next with
    | some d => if (s.occupants e.1).isEmpty then s.switchSp e.1 d else s
    | none => s) s

/-! ## Readiness (R470) -/

/-- The workgroups of a virtual device that wait for placement or restore, as shapes. -/
def State.waitingShapes (s : State) (vd : Nat) : List Shape :=
  (List.range 64).flatMap (fun c =>
    match s.ctx? vd c with
    | none => []
    | some x =>
      (match s.waitingLaunch vd c with
        | some e => [e.2.rcd.shape]
        | none => []) ++
      (match x.saved with
        | .retry _ =>
          if x.running && !x.stopping then
            ((s.savedWgs vd c x).getD []).map (fun y => ⟨y.1.wg.nwaves, y.1.wg.salloc,
              match (y.2.map Prod.snd).or (Tab.get? s.launches y.1.wg.launch) with
              | some la => la.rcd.fuse
              | none => false⟩)
          else []
        | _ => []))

/-- Whether a virtual device is ready. -/
def State.readyVd (s : State) (vd : Nat) (v : VDev) : Bool :=
  v.st == .running &&
    (s.wgs.any (fun e => e.2.vd == vd && e.2.h.any (fun k => (s.sp (4 * e.2.core + k)).holder == vd)) ||
      !(s.waitingShapes vd).isEmpty)

/-- A virtual device that has become ready does not fall behind those that were ready before it. -/
def State.noteReady (s : State) : State :=
  let before := s.vds.filter (fun e => e.2.wasReady && s.readyVd e.1 e.2)
  let least : Option Rat := before.foldl (fun m e => match m with
    | none => some e.2.vtime
    | some x => some (min x e.2.vtime)) none
  s.vds.foldl (fun s e =>
    let r := s.readyVd e.1 e.2
    if r = e.2.wasReady then s
    else s.modVd e.1 (fun v => { v with
      wasReady := r
      vtime := if r then (match least with
        | some x => max v.vtime x
        | none => v.vtime) else v.vtime })) s

/-! ## A scheduling pass (R470) -/

/-- The sub-partitions whose choice falls due. -/
def State.dueSps (s : State) : List Nat :=
  (List.range 640).filter (fun n => s.populated (n / 4) && (s.sp n).next.isNone &&
    ((s.sp n).holder == 0 || decide ((s.sp n).till ≤ s.clock)))

/-- A pass in progress: the choices made (0: nobody) and the exclusions as (sub-partition, virtual device). -/
structure Pass where
  st  : State
  got : Tab Nat
  no  : List (Nat × Nat)

/-- Sub-partitions that a virtual device keeps whatever the pass does. -/
def State.kept (s : State) (due : List Nat) (vd : Nat) : Nat :=
  (s.sps.filter (fun e => !due.contains e.1 && (e.2.next.getD e.2.holder) == vd)).length

/-- The charge of a grant. -/
def VDev.charge (v : VDev) : Rat := (v.slice : Rat) / (v.weight : Rat)

/-- The virtual device of least virtual time, the lower number on a tie. -/
def leastVt (l : List (Nat × VDev)) : Option Nat :=
  match l with
  | [] => none
  | e :: r => some (r.foldl (fun (b : Nat × VDev) x => if x.2.vtime < b.2.vtime then x else b) e).1

/-- The choice for one sub-partition. -/
def Pass.choose (due : List Nat) (p : Pass) (sp : Nat) : Pass :=
  let held (d : Nat) : Nat := p.st.kept due d + (p.got.filter (fun e => e.2 == d)).length
  let ready := p.st.vds.filter (fun e => p.st.readyVd e.1 e.2 && !p.no.contains (sp, e.1))
  let a := ready.filter (fun e => decide (held e.1 < e.2.minsp))
  let b := ready.filter (fun e => decide (held e.1 < e.2.maxsp))
  match (match leastVt a with | some d => some d | none => leastVt b) with
  | none => { p with got := Tab.put p.got sp 0 }
  | some d => { p with
      st := p.st.modVd d (fun v => { v with vtime := v.vtime + v.charge })
      got := Tab.put p.got sp d }

/-- Whether a grant of a sub-partition of a core to a virtual device stands: to its holder always, else when a waiting
workgroup would fit. -/
def Pass.stands (due : List Nat) (p : Pass) (sp d : Nat) : Bool :=
  let c := sp / 4
  let mine (k : Nat) : Bool :=
    let n := 4 * c + k
    if due.contains n then Tab.get? p.got n == some d else (p.st.sp n).holder == d && (p.st.sp n).next.isNone
  let ks := (List.range 4).filter mine
  let fresh := ks.filter (fun k => (p.st.sp (4 * c + k)).holder != d)
  d == 0 || (p.st.sp sp).holder == d || (p.st.waitingShapes d).any (fun sh => (p.st.fitOn c ks fresh sh).isSome)

/-- Grants withdrawn and chosen again, the lowest first, until all stand. -/
def Pass.settle (due : List Nat) : Nat → Pass → Pass
  | 0, p => p
  | n + 1, p =>
    match p.got.find? (fun e => !p.stands due e.1 e.2) with
    | none => p
    | some (sp, d) =>
      let l := (p.got.filter (fun e => e.1 / 4 == sp / 4 && e.2 == d && (p.st.sp e.1).holder != d)).map Prod.fst
      let p := { p with
        st := l.foldl (fun s _ => s.modVd d (fun v => { v with vtime := v.vtime - v.charge })) p.st
        got := l.foldl Tab.del p.got
        no := p.no ++ l.map (fun x => (x, d)) }
      Pass.settle due n (l.foldl (Pass.choose due) p)

/-- The grants of a pass made. -/
def State.grant (s : State) (sp d : Nat) : State :=
  let p := s.sp sp
  let till := s.clock + 130000 * (match Tab.get? s.vds d with | some v => v.slice | none => 0)
  if d = p.holder then (if d = 0 then s else s.modSp sp (fun x => { x with till := till }))
  else
    let s := s.modSp sp (fun x => { x with till := till })
    if (s.occupants sp).isEmpty then s.switchSp sp d
    else (s.modSp sp (fun x => { x with next := some d })).preemptSp sp

/-- A scheduling pass over the sub-partitions whose choice falls due, in increasing number. -/
def State.schedule (s : State) : State :=
  let due := s.dueSps
  let p := due.foldl (Pass.choose due) ⟨s.noteReady, [], []⟩
  let p := Pass.settle due (640 * (s.vds.length + 1)) p
  p.got.foldl (fun s e => s.grant e.1 e.2) p.st

/-- SLICE_END: the choices that fall due are made in one pass. -/
def execSliceEnd (sp : Nat) (s : State) : Res := if s.dueSps.contains sp then .next s.schedule else .next s

/-! ## Power (R473) -/

/-- What a virtual device draws in a cycle: every sub-partition that it holds, and every engine that runs a card of it. -/
def State.drawn (s : State) (vd : Nat) : Nat :=
  (s.sps.filter (fun e => e.2.holder == vd)).foldl (fun n e => n + Config.energy (2 * e.1) s.free) 0 +
    (s.engines.filter (fun e => match e.2.run.bind (fun r => Tab.get? s.wgs r.card.wg) with
      | some g => g.vd == vd
      | none => false)).foldl (fun n e => n + Config.energy (2 * e.1 + 1) s.free) 0

/-- The VCC meters a cycle: one that holds nothing and runs no card gets nothing. -/
def State.meter (s : State) : State :=
  if s.sps.isEmpty && s.engines.isEmpty then s
  else { s with vds := s.vds.map (fun (e : Nat × VDev) =>
    (e.1, { e.2 with energy := e.2.energy + BitVec.ofNat 64 (s.drawn e.1) })) }

/-- PCAP_EXCEEDED: the issue slots and card releases of a virtual device are withheld whose mean power over the last millisecond
exceeds its cap. -/
def execPcapExceeded (vd : Nat) (s : State) : Res :=
  .next (s.modVd vd (fun v => if v.pcap ≠ 0 ∧ v.pcap < v.power then { v with capped := true } else v))

/-- A virtual device whose mean power has fallen below its cap, or that has none, goes on. -/
def State.uncap (s : State) : State :=
  if s.vds.any (fun e => e.2.capped) then
    { s with vds := s.vds.map (fun e =>
      (e.1, if e.2.capped && (e.2.pcap == 0 || decide (e.2.power < e.2.pcap)) then { e.2 with capped := false } else e.2)) }
  else s

end Sys2Proof.Machine
end

