-- ==== Sys2Proof/Machine/Command.lean ====
section
/-! DEFINITION. Command.lean: what every command of the management interface shares: its fields, its completion, the checks
that come before its own (R460 to R464, R480, R509). -/

namespace Sys2Proof.Machine

open Sys2Proof

/-! ## Fields and status codes (R461, R463) -/

/-- n bits of a command from bit lo. -/
def cmdBits (c : BitVec 512) (lo n : Nat) : Nat := c.toNat / 2 ^ lo % 2 ^ n
/-- n bytes of a command from byte i, as a little-endian number. -/
def cmdField (c : BitVec 512) (i n : Nat) : Nat := cmdBits c (8 * i) (8 * n)
/-- The command code. -/
def cmdOpc (c : BitVec 512) : Nat := cmdBits c 0 8
/-- The target virtual device. -/
def cmdVd (c : BitVec 512) : Nat := cmdBits c 16 9
/-- Byte 8: the sub-command, the key kind or the role. -/
def cmdSub (c : BitVec 512) : Nat := cmdField c 8 1
/-- The bytes of an argument, for a key. -/
def cmdBytes (c : BitVec 512) (i n : Nat) : List Byte := (List.range n).map (fun j => BitVec.ofNat 8 (cmdField c (i + j) 1))

/-- The status codes of R463. -/
def stOk : Nat := 0
/-- BADOP. -/
def stBadOp : Nat := 1
/-- BADVD. -/
def stBadVd : Nat := 2
/-- BADSTATE. -/
def stBadState : Nat := 3
/-- BADARG. -/
def stBadArg : Nat := 4
/-- NOSPACE. -/
def stNoSpace : Nat := 5
/-- QUOTA. -/
def stQuota : Nat := 6
/-- OWNED. -/
def stOwned : Nat := 7
/-- NOKEY. -/
def stNoKey : Nat := 8
/-- BADKEY. -/
def stBadKey : Nat := 9
/-- OVERFLOW. -/
def stOverflow : Nat := 10
/-- BUSY. -/
def stBusy : Nat := 11
/-- KILLED. -/
def stKilled : Nat := 12
/-- PEER. -/
def stPeer : Nat := 13
/-- STARTFAIL. -/
def stStartFail : Nat := 14

/-! ## Completion (R460, R462) -/

/-- MCHEAD moves over the completed commands at the head of the ring. -/
def Mgmt.advance (m : Mgmt) : Nat → Mgmt
  | 0 => m
  | n + 1 =>
    if m.done.contains m.head.toNat then
      Mgmt.advance { m with head := m.head + 1, done := m.done.erase m.head.toNat } n
    else m

/-- A command completes: RESULT and then STATUS are written into its entry, MCHEAD advances over what is complete, and the
physical function is interrupted. Each completion is also what the device last answered. -/
def State.complete (s : State) (c : BitVec 512) (status result : Nat) : State :=
  let s := { s with answer := leBytes result 4 ++ leBytes status 4 }
  match s.mgmt.runs.find? (fun r => r.begun && r.cmd == c) with
  | none => s
  | some r =>
    let m : Mgmt := { s.mgmt with runs := s.mgmt.runs.erase r }
    match r.idx with
    | none => { s with mgmt := m }
    | some i =>
      let at_ := m.base + 64 * (i % max m.size 1)
      let s := { s with host := cellsSet (cellsSet s.host (at_ + 60) (leBytes result 4)) (at_ + 56) (leBytes status 4) }
      let m' := Mgmt.advance { m with done := i :: m.done } (m.done.length + 1)
      let s : State := { s with mgmt := m' }
      if m'.head = m.head then s else s.sendMsi 0 m.vec.toNat

/-- A command that does not complete at once runs until its effect is complete. Where it came by the ring its run has begun
already; an equal command behind it in the ring waits its turn. -/
def State.enrol (s : State) (c : BitVec 512) : State :=
  if s.mgmt.runs.any (fun r => r.begun && r.cmd == c) then s
  else { s with mgmt := { s.mgmt with runs := s.mgmt.runs ++ [⟨none, c, true⟩] } }

/-- The commands of a virtual device that are running. -/
def State.runningCmds (s : State) (vd : Nat) : List (BitVec 512) :=
  (s.mgmt.runs.filter (fun r => r.begun && cmdVd r.cmd == vd)).map CmdRun.cmd

/-- A virtual device that does not exist: every field zero (R459). -/
def VDev.free : VDev where
  st := .free
  inc := 0
  csave := 0
  energy := 0
  quota := 0
  fpart := 0
  mkey := 0
  fkey := 0
  fkeyn := 0
  epoch := false
  gen := 0
  incs := 0
  maxscope := 0
  wdog := 0
  wmode := false
  scrubk := false
  pto := 0
  slice := 0
  maxsp := 0
  minsp := 0
  weight := 0
  pcap := 0
  logovf := false
  dlog := false
  bmap := false
  fstep := 0
  fcode := 0
  logtail := 0
  mlog := 0
  mlogl := 0
  loghead := 0
  recent := []
  windows := []
  pmap := []
  members := []
  streams := []
  resv := [16, 16, 16, 16, 32]
  retired := false
  handles := []
  vtime := 0
  wasReady := false
  lastCtx := 63
  progress := 0
  csel := 0
  cause := 0
  pmovf := 0
  pmset := none
  ports := 0
  drops := 0
  killFor := none
  racks := []
  rackAt := 0
  tdi := .unlocked
  capped := false
  mark := 0
  power := 0

/-- A context that nothing has configured. -/
def Context.fresh : Context where
  pasid := 0
  weight := 1
  prot := false
  hlock := false
  enable := false
  save := 0
  fqBase := 0
  fqSize := 0
  fqHead := 0
  fqTail := 0
  fqSeq := 0
  format := 0
  trapvec := 0
  savectr := 0
  used := false
  running := false
  faulted := false
  saved := .no
  stopping := false
  deficit := 0
  faults := []
  refused := []
  report := none

/-- A context changed, made where it was not. -/
def State.putCtx (s : State) (vd ctx : Nat) (f : Context → Context) : State :=
  { s with ctxs := Tab.put s.ctxs (ctxKey vd ctx) (f ((s.ctx? vd ctx).getD Context.fresh)) }

/-! ## The checks before a command's own (R461, R463, R464, R480, R509) -/

/-- What a command leads to. -/
inductive Reply where
  /-- It completes now. -/
  | done (status result : Nat) (s : State)
  /-- It completes when its effect is complete. -/
  | run (s : State)

/-- A refused command changes nothing. -/
def refuse (status : Nat) (s : State) : Reply := .done status 0 s

/-- The bits of bytes that rows of R464 and R465 name: ranges of bits. -/
def namedBits (l : List (Nat × Nat)) : Nat := l.foldl (fun m r => m ||| ((2 ^ r.2 - 1) * 2 ^ r.1)) 0

/-- Whether every bit of a command's arguments that no row names is zero, and the zero fields of its first word. -/
def zeroOk (c : BitVec 512) (l : List (Nat × Nat)) : Bool :=
  cmdBits c 8 8 == 0 && cmdBits c 25 7 == 0 &&
    (cmdBits c 64 384 * 2 ^ 64) &&& (2 ^ 512 - 1 - namedBits l) == 0

/-- What a command asks for before its own checks: the argument bits that it names, whether a killing virtual device
answers BUSY (R480), whether a locked TDI does (R509), and the states it is legal in. -/
structure CmdRule where
  bits   : List (Nat × Nat)
  memory : Bool
  config : Bool
  legal  : VDev → Bool

/-- A command of a virtual device that exists: the shared checks, then its own meaning. -/
def State.command (s : State) (c : BitVec 512) (r : CmdRule) (f : Nat → VDev → State → Reply) : Res :=
  let vd := cmdVd c
  let x : Reply :=
    match (if vd = 0 then none else Tab.get? s.vds vd) with
    | none => refuse stBadVd s
    | some v =>
      if v.st = .free then refuse stBadVd s
      else if !zeroOk c r.bits then refuse stBadArg s
      else if r.memory && v.st.dying then refuse stBusy s
      else if r.config && (v.tdi == .locked || v.tdi == .run) then refuse stBusy s
      else if !r.legal v then refuse stBadState s
      else f vd v s
  match x with
  | .done st res t => .next (t.complete c st res)
  | .run t => .next (t.enrol c)

/-- BADOP: an unassigned code. -/
def execBadop (c : BitVec 512) (s : State) : Res := .next (s.complete c stBadOp 0)

end Sys2Proof.Machine
end

