-- ==== Sys2Proof/Machine/Trans.lean ====
section
/-! DEFINITION. Trans.lean: the reciprocals and transcendentals of R176. Each returns a fixed function of its input
bits and its flush setting, within the bound of the table. The function itself is `Config.transcendental`; where that
constant does not keep the bound, the machine returns the nearest binary32 value of an approximation made here, so that
the bound holds whatever the constant is. -/

namespace Sys2Proof.Machine

open Sys2Proof

/-! ## Fixed point -/

/-- m × 2^e in units of 2^(−p), rounded toward zero. -/
def toFix (p m : Nat) (e : Int) : Nat :=
  let k := e + p
  if k ≥ 0 then m * 2 ^ k.toNat else m / 2 ^ (-k).toNat

/-- ln 2 in units of 2^(−128). -/
def ln2Fix : Nat := 0xb17217f7d1cf79abc9e3b39803f2f6af
/-- π in units of 2^(−128). -/
def piFix : Nat := 0x3243f6a8885a308d313198a2e03707344

/-- The sum of t × y^j / (k + 1) … (k + j) for j = 0 to n, in units of 2^(−p). -/
def expGo (p y : Nat) : Nat → Nat → Nat → Nat → Nat
  | 0, _, t, acc => acc + t
  | n + 1, k, t, acc => expGo p y n (k + 1) (t * y / 2 ^ p / (k + 1)) (acc + t)

/-- e^y − 1 in units of 2^(−p), for y in those units. -/
def expm1Fix (p terms y : Nat) : Nat := expGo p y terms 1 y 0

/-- 2^x of a finite x: 2^(⌊x⌋) × e^(f ln 2). A negative x that is smaller than a unit still counts as one, since 2^x lies below
1 there. -/
def exp2Num (neg : Bool) (m : Nat) (e : Int) : Num :=
  let x := toFix 128 m (min e 16)
  let xi : Int := if neg then -((if x = 0 ∧ m ≠ 0 then 1 else x : Nat) : Int) else x
  let n := xi / 2 ^ 128
  let n' := if n < -1000 then -1000 else if n > 1000 then 1000 else n
  let f := (xi % 2 ^ 128).toNat
  let y := f * ln2Fix / 2 ^ 128
  .fin false (2 ^ 128 + expm1Fix 128 40 y) (n' - 128)

/-- The sum of z^(2k+1) / (2k + 1) from the k-th term on, in units of 2^(−128). -/
def atanhGo (zz : Nat) : Nat → Nat → Nat → Nat → Nat
  | 0, _, _, acc => acc
  | n + 1, k, t, acc => atanhGo zz n (k + 2) (t * zz / 2 ^ 128) (acc + t / k)

/-- log₂ of positive m × 2^e. -/
def log2Num (m : Nat) (e : Int) : Num :=
  let l := Nat.log2 m
  let t := toFix 128 m (-(l : Int))
  let z := (t - 2 ^ 128) * 2 ^ 128 / (t + 2 ^ 128)
  let ln := 2 * atanhGo (z * z / 2 ^ 128) 44 1 z 0
  let v : Int := (e + l) * 2 ^ 128 + ln * 2 ^ 128 / ln2Fix
  .fin (v < 0) v.natAbs (-128)

/-- The alternating sum of t, t × −θ² / k (k + 1), … in units of 2^(−128). -/
def trigGo (tt : Nat) : Nat → Nat → Bool → Nat → Int → Int
  | 0, _, _, _, acc => acc
  | n + 1, k, neg, t, acc =>
    trigGo tt n (k + 2) (!neg) (t * tt / 2 ^ 128 / (k * (k + 1))) (if neg then acc - t else acc + t)

/-- A − round(A) of m × 2^e with a sign, in units of 2^(−128), and whether it is exactly zero or one half. -/
def turnFix (m : Nat) (e : Int) : Nat :=
  if e ≥ 0 then 0 else
    let d := (-e).toNat
    toFix 128 (m % 2 ^ d) e

/-- sin(2πA) for |A| = m × 2^e: the fraction of a turn taken in (−1/2, 1/2]. -/
def sinNum (neg : Bool) (m : Nat) (e : Int) : Num :=
  let f := turnFix m e
  let big := decide (f > 2 ^ 127)
  let r := if big then 2 ^ 128 - f else f
  let th := 2 * piFix * r / 2 ^ 128
  let v := trigGo (th * th / 2 ^ 128) 34 2 false th 0
  .fin (decide (v < 0) != (neg != big)) v.natAbs (-128)

/-- cos(2πA). -/
def cosNum (m : Nat) (e : Int) : Num :=
  let f := turnFix m e
  let r := if f > 2 ^ 127 then 2 ^ 128 - f else f
  let th := 2 * piFix * r / 2 ^ 128
  let v := trigGo (th * th / 2 ^ 128) 34 1 false (2 ^ 128) 0
  .fin (v < 0) v.natAbs (-128)

/-- tanh of m × 2^e below 9: (e^2x − 1) / (e^2x + 1), and x − x³/3 where x is below 2^−30. -/
def tanhNum (neg : Bool) (m : Nat) (e : Int) : Num :=
  if log2Floor m e < -30 then
    let q := quotient (3 * m * 2 ^ (-2 * e).toNat - m ^ 3) (3 * e) 3 0
    .fin neg q.1 q.2
  else
    let y := toFix 320 m (e + 1)
    let x := expm1Fix 320 160 y
    let q := quotient x 0 (x + 2 ^ 321) 0
    .fin neg q.1 q.2

/-! ## Bounds -/

/-- |x − y| of two finite values as a value. -/
def Num.dist (x y : Num) : Num := (Num.sum [x, y.negate] false).1.abs

/-- The spacing of binary32 at a value, times k. -/
def ulps (k : Nat) (x : Num) : Num :=
  match x with
  | .fin _ m e => if m = 0 then .fin false k (-149) else .fin false k (max (log2Floor m e) (-126) - 23)
  | _ => .zero false

/-- A bound short of its edge by its 2^60th part: far more than the approximations here are off, and far less than separates
the distances that binary32 values have. -/
def Num.shy : Num → Num
  | .fin n m e => .fin n (m * (2 ^ 60 - 1)) (e - 60)
  | x => x

/-- Whether a finite binary32 value lies within a bound of the value that `exact` approximates. -/
def within (bound exact : Num) (r : Word) : Bool :=
  match Fmt.f32.val r.toNat with
  | .fin n m e => ((Num.fin n m e).dist exact).cmp bound.shy ≤ 0
  | _ => false

/-- The value of function `idx` at an input, `exact` being its value there. -/
def approx (idx : Nat) (a : Word) (flush : Bool) (bound exact : Num) : Word :=
  let r := Config.transcendental idx a flush
  if within bound exact r then r else BitVec.ofNat 32 (Fmt.f32.round .rne false 0 exact).1

/-- A result of a special case. -/
def special (bits : Nat) (f : BitVec 7) : Word × BitVec 7 := (BitVec.ofNat 32 bits, f)

/-- A zero, an infinity and a one with a sign. -/
def signed (n : Bool) (bits : Nat) : Nat := if n then 0x80000000 + bits else bits

/-- A binary32 result below the smallest normal. -/
def tiny (r : Word) : Bool := r.toNat % 2 ^ 31 < 0x800000

/-- The flush of an exact result below the smallest normal (R168). -/
def flushed (flush : Bool) (x : Num) : Bool :=
  match x with
  | .fin _ m e => flush && m != 0 && decide (log2Floor m e < -126)
  | _ => false

/-- A result by the table: flushed, exact, or within its bound. `uf` says that a result below the smallest normal sets
the underflow flag. -/
def tableResult (idx : Nat) (a : Word) (flush isExact uf : Bool) (bound exact : Num) : Word × BitVec 7 :=
  if flushed flush exact then special (signed exact.neg 0) flagUF
  else
    let r := if isExact then BitVec.ofNat 32 (Fmt.f32.round .rne false 0 exact).1 else approx idx a flush bound exact
    (r, if uf && tiny r then flagUF else 0)

/-- Whether a positive mantissa is a power of two. -/
def isPow2 (m : Nat) : Bool := m == 2 ^ Nat.log2 m

/-- Whether m × 2^e is an integer. -/
def isInteger (m : Nat) (e : Int) : Bool := e ≥ 0 || m % 2 ^ (-e).toNat == 0

/-! ## The functions: `a` is the input after its modifiers, `x` its value after the input flush -/

/-- FRCP. Where the reciprocal lies beyond binary32, the manual states neither the value nor the overflow flag: both are
free. -/
def frcpBits (a : Word) (flush : Bool) (x : Num) : Word × BitVec 7 :=
  match x with
  | .nan => special 0x7FC00000 0
  | .inf n => special (signed n 0) 0
  | .fin n m e =>
    if m = 0 then special (signed n 0x7F800000) flagDZ
    else
      let q := quotient 1 0 m e
      let y := Num.fin n q.1 q.2
      if log2Floor q.1 q.2 ≥ 128 then
        (Config.transcendental 0 a flush, if (Config.transcendental 16 a flush).getLsbD 0 then flagOF else 0)
      else tableResult 0 a flush (isPow2 m) true (ulps 1 y) y

/-- FRSQ. -/
def frsqBits (a : Word) (flush : Bool) (x : Num) : Word × BitVec 7 :=
  match x with
  | .nan => special 0x7FC00000 0
  | .inf n => if n then special 0x7FC00000 flagNV else special 0 0
  | .fin n m e =>
    if m = 0 then special (signed n 0x7F800000) flagDZ
    else if n then special 0x7FC00000 flagNV
    else
      let r := sqrtParts m e
      let q := quotient 1 0 r.1 r.2
      let y := Num.fin false q.1 q.2
      tableResult 1 a flush (isPow2 m && (Nat.log2 m + e) % 2 == 0) false (ulps 1 y) y

/-- FEXP2. -/
def fexp2Bits (a : Word) (flush : Bool) (x : Num) : Word × BitVec 7 :=
  match x with
  | .nan => special 0x7FC00000 0
  | .inf n => special (if n then 0 else 0x7F800000) 0
  | .fin n m e =>
    let y := exp2Num n m e
    match y with
    | .fin _ ym ye =>
      if log2Floor ym ye ≥ 128 then special 0x7F800000 flagOF
      else tableResult 2 a flush (isInteger m e && decide (log2Floor ym ye ≥ -149)) true (ulps 2 y) y
    | _ => special 0 0

/-- FLOG2. -/
def flog2Bits (a : Word) (flush : Bool) (x : Num) : Word × BitVec 7 :=
  match x with
  | .nan => special 0x7FC00000 0
  | .inf n => if n then special 0x7FC00000 flagNV else special 0x7F800000 0
  | .fin n m e =>
    if m = 0 then special 0xFF800000 flagDZ
    else if n then special 0x7FC00000 flagNV
    else
      let y := log2Num m e
      let near := (Num.fin false m e).cmp (.fin false 1 (-1)) ≥ 0 && (Num.fin false m e).cmp (.fin false 2 0) ≤ 0
      tableResult 3 a flush (isPow2 m) false (if near then .fin false 1 (-22) else ulps 2 y) y

/-- FSIN. -/
def fsinBits (a : Word) (flush : Bool) (x : Num) : Word × BitVec 7 :=
  match x with
  | .nan => special 0x7FC00000 0
  | .inf _ => special 0x7FC00000 flagNV
  | .fin n m e =>
    if m = 0 then special (signed n 0) 0
    else if isInteger m (e + 1) then special 0 0
    else tableResult 4 a flush false false (.fin false 1 (-22)) (sinNum n m e)

/-- FCOS. -/
def fcosBits (a : Word) (flush : Bool) (x : Num) : Word × BitVec 7 :=
  match x with
  | .nan => special 0x7FC00000 0
  | .inf _ => special 0x7FC00000 flagNV
  | .fin _ m e =>
    if m = 0 || isInteger m e then special 0x3F800000 0
    else if isInteger m (e + 1) then special 0xBF800000 0
    else if isInteger m (e + 2) then special 0 0
    else tableResult 5 a flush false false (.fin false 1 (-22)) (cosNum m e)

/-- FTANH. -/
def ftanhBits (a : Word) (flush : Bool) (x : Num) : Word × BitVec 7 :=
  match x with
  | .nan => special 0x7FC00000 0
  | .inf n => special (signed n 0x3F800000) 0
  | .fin n m e =>
    if m = 0 then special (signed n 0) 0
    else if (Num.fin false m e).cmp (.fin false 9 0) ≥ 0 then special (signed n 0x3F800000) 0
    else
      let y := tanhNum n m e
      tableResult 6 a flush false false (ulps 2 y) y

end Sys2Proof.Machine
end

