-- ==== Sys2Proof/Machine/Attn.lean ====
section
/-! DEFINITION. Attn.lean: the attention engine: token streams, the online softmax step, and its ends (R385 to R396). -/

namespace Sys2Proof.Machine

open Sys2Proof

/-! ## Arithmetic of a step (R393) -/

/-- A value rounded to binary32 by RNE; the flag OF where a finite value became infinite. -/
def rne32 (x : Num) : Nat × BitVec 7 :=
  match x with
  | .nan => (Fmt.f32.nan, 0)
  | y => let r := Fmt.f32.round .rne false 0 y; (r.1, r.2 &&& flagOF)

/-- The function E of a binary32 value. -/
def attnExp (a : Nat) : Num := Fmt.f32.val (fexp2Bits (BitVec.ofNat 32 a) false (Fmt.f32.val a)).1.toNat

/-- A row with nothing seen (R388). -/
def AttnRow.init (d : Nat) : AttnRow := ⟨0xFF800000, 0, List.replicate d 0, false⟩
/-- A poisoned row. -/
def AttnRow.poison (d : Nat) : AttnRow := ⟨0x7FC00000, 0x7FC00000, List.replicate d 0x7FC00000, true⟩

/-- The score of a query row with one key: the accumulator over groups of 32, then two roundings. -/
def attnScore (scl : Num) : List Num → List Num → Nat → Nat → Num
  | _, _, 0, acc => Fmt.f32.val (rne32 ((Fmt.f32.val (rne32 (Fmt.acc.val acc)).1).mul scl)).1
  | q, k, n + 1, acc =>
    attnScore scl (q.drop 32) (k.drop 32) n (accAdd acc (groupSum ((q.take 32).zip (k.take 32)))).1

/-- The larger of two numbers that are not NaN. -/
def numMax (x y : Num) : Num := if Num.cmp x y < 0 then y else x

/-- One row's step. `keys` holds, for each token, its key and value elements, none where it is absent or masked. -/
def AttnRow.step (r : AttnRow) (q : List Num) (scl : Num) (d : Nat) (keys : List (Option (List Num)))
    (vals : List (List Num)) : AttnRow × BitVec 7 :=
  if r.bad then (r, 0)
  else
    let xs : List Num := keys.map (fun k => match k with
      | some k => attnScore scl q k (d / 32) 0
      | none => .inf true)
    if xs.any (fun x => x.isNan || x == .inf false) then
      let nanIn := q.any Num.isNan || keys.any (fun k => match k with | some l => l.any Num.isNan | none => false)
      (AttnRow.poison d, if nanIn then 0 else flagNV)
    else
      let mo := Fmt.f32.val r.m.toNat
      let mn := xs.foldl numMax mo
      if mn == .inf true then (r, 0)
      else
        let sub (x : Num) : Nat := (rne32 (Num.sum [x, mn.negate] false).1).1
        let al := if mo == .inf true then Num.zero false else attnExp (sub mo)
        let p := xs.map (fun x => if x == .inf true then Num.zero false else attnExp (sub x))
        let l := rne32 (Num.sum ((Fmt.f32.val r.l.toNat).mul al :: p) false).1
        let o := r.o.zipIdx.map (fun e =>
          rne32 (Num.sum ((Fmt.f32.val e.1.toNat).mul al :: (p.zip vals).map (fun x => x.1.mul (x.2.getD e.2 (.zero false))))
            false).1)
        let m := (Fmt.f32.round .rne false 0 mn).1
        let fl : BitVec 7 := o.foldl (fun f x => f ||| x.2) l.2
        (⟨BitVec.ofNat 32 m, BitVec.ofNat 32 l.1, o.map (fun x => BitVec.ofNat 32 x.1), false⟩, fl)

/-! ## The state of a card in scratchpad (R393 to R395) -/

/-- Elements of a Q, K or V format from bytes. -/
def attnVals (code : Nat) (inf : Bool) (n : Nat) (bs : List Byte) : List Num :=
  match EFmt.ofCode code inf with
  | some e => (elemsOf (8 * attnBytes code) n bs).map e.val
  | none => []

/-- The rows as they stand in scratchpad. -/
def State.attnLoad (s : State) (g : Workgroup) (d : AttnDesc) : List AttnRow :=
  (List.range d.qr).map (fun i =>
    let w (o : Nat) : Word := BitVec.ofNat 32 (s.scratchNat g o 4)
    let m := w (d.ml + 8 * i)
    ⟨m, w (d.ml + 8 * i + 4), (List.range d.d).map (fun e => w (d.obase + i * d.old + 4 * e)),
      (Fmt.f32.val m.toNat).isNan⟩)

/-- m and l of every row written. -/
def State.attnStats (s : State) (r : CardRef) (g : Workgroup) (d : AttnDesc) (rows : List AttnRow) : State :=
  s.cardStore r g d.ml (rows.flatMap (fun x => leBytes x.m.toNat 4 ++ leBytes x.l.toNat 4))

/-- O of every row written as binary32. -/
def State.attnRaw (s : State) (r : CardRef) (g : Workgroup) (d : AttnDesc) (rows : List AttnRow) : State :=
  rows.zipIdx.foldl (fun s e =>
    s.cardStore r g (d.obase + e.2 * d.old) (e.1.o.flatMap (fun x => leBytes x.toNat 4))) s

/-- The progress granule written. -/
def State.attnMark (s : State) (r : CardRef) (g : Workgroup) (d : AttnDesc) (tdone p : Nat) : State :=
  s.cardStore r g (d.ml + 256) (leBytes tdone 8 ++ leBytes p 8)

/-- A card that stops writes its state (R395) and remembers that it did: PROG holds TDONE + 1. -/
def State.attnSave (s : State) (r : CardRef) (g : Workgroup) (d : AttnDesc) (a : AttnRun) : State :=
  let s := ((s.attnStats r g d a.rows).attnRaw r g d a.rows).attnMark r g d a.tdone 1
  s.modCard r.wg r.seq (fun c => { c with prog := a.tdone + 1 })

/-- The rows with which a card starts or goes on. -/
def State.attnRows (s : State) (g : Workgroup) (c : Card) (d : AttnDesc) : AttnRun :=
  if c.prog ≠ 0 then ⟨s.attnLoad g d, c.prog - 1, none⟩
  else if d.init then ⟨s.attnLoad g d, 0, none⟩
  else ⟨List.replicate d.qr (AttnRow.init d.d), 0, none⟩

/-- One row of normalised output: its bytes, flags, and the generators after it. -/
def attnOutRow (w : FWord) (x : AttnRow) (z : List Word) : List Byte × BitVec 7 × List Word :=
  let f := outFmt w.out
  let n := outBytes w.out
  x.o.zipIdx.foldl (fun (r : List Byte × BitVec 7 × List Word) e =>
    let g := e.2 % 32
    let l := Fmt.f32.val x.l.toNat
    let v : Num := if x.bad then .nan else if l.isZero then .zero false else (divNum (Fmt.f32.val e.1.toNat) l).1
    let o := outRound f w (r.2.2.getD g 0) v false
    (r.1 ++ leBytes o.val.toNat n, r.2.1 ||| (o.flags &&& (flagOF ||| flagUF ||| flagSAT)), r.2.2.set g o.seed)) ([], 0, z)

/-- The end of the stream (R394). -/
def State.attnEnd (s : State) (r : CardRef) (g : Workgroup) (c : Card) (w : FWord) (d : AttnDesc) (a : AttnRun) : State :=
  let s := s.attnStats r g d a.rows
  let x : State × BitVec 7 × List Word := if d.final then
      a.rows.zipIdx.foldl (fun (x : State × BitVec 7 × List Word) e =>
        let y := attnOutRow w e.1 x.2.2
        (x.1.cardStore r g (d.obase + e.2 * d.old) y.1, x.2.1 ||| y.2.1, y.2.2)) (s, 0, jobSeeds (cWord c.bytes 1))
    else (s.attnRaw r g d a.rows, 0, [])
  let s := x.1.attnMark r g d a.tdone 0
  let s := s.modCard r.wg r.seq (fun c => { c with xflags := c.xflags ||| x.2.1 })
  s.modRun r (fun q => { q with done := true, attn := some a })

/-! ## Token streams (R391, R392) -/

/-- A read of global memory by the attention engine. -/
def State.attnRead (s : State) (r : CardRef) (g : Workgroup) (va n : Nat) : Reach (List Byte) × State :=
  if !canonical (BitVec.ofNat 64 va) then (.fail cardAlign, s)
  else
    let ag := g.cardAgent r 0x18
    let x := s.span ag (vaOf (BitVec.ofNat 64 va)) n false
    match x.1 with
    | .absent v => (.park v false, x.2)
    | .prot => (.fail cardProt, x.2)
    | .xlate => (.fail cardXlate, x.2)
    | .ok ps =>
      if ps.any Piece.isFab then (.fail cardBounds, x.2)
      else match x.2.recallPlaces false (ps.map (fun q => (q.loc, q.len))) with
        | some t => (.wait, t)
        | none => (.ok (x.2.readPieces ps), x.2.touchPieces ag ps true)

/-- Sixteen tokens of a stream: each token's key and value bytes, none where it is absent. -/
abbrev Tokens := List (Option (List Byte × List Byte))

/-- The tokens of a slot-ring step, once every granule that holds them is full. -/
def State.slotTokens (s : State) (g : Workgroup) (d : AttnDesc) (esz t : Nat) : Option Tokens :=
  let base := d.rbase + t / d.bt % d.slots * (d.bt * d.tpb)
  let rows := (List.range 16).map (fun j => base + (t % d.bt + j) * d.tpb)
  let n := d.d * esz
  let full (o : Nat) : Bool := (List.range ((o + n - 1) / 16 - o / 16 + 1)).all (fun i =>
    s.feOf (granuleOf g (16 * (o / 16 + i))))
  if rows.all (fun r => full (r + d.koff) && full (r + d.voff)) then
    some (rows.map (fun r => some (s.scratchRead g (r + d.koff) n, s.scratchRead g (r + d.voff) n)))
  else none

/-- After the last step of a slot-ring block (R392). -/
def State.slotDone (s : State) (g : Workgroup) (d : AttnDesc) (t : Nat) : State :=
  if t % d.bt ≠ 0 then s
  else
    let base := d.rbase + (t / d.bt - 1) % d.slots * (d.bt * d.tpb)
    let s := (List.range (d.bt * d.tpb / 16)).foldl (fun s i => s.setFe (granuleOf g (base + 16 * i)) false) s
    if d.cv then s.scratchWrite g d.cbase (leBytes ((s.scratchNat g d.cbase 8 + 1) % 2 ^ 64) 8) else s

/-- What a pool source reads at start: its pool's address, the descriptor and the number of its blocks (those named, or all from
BFIRST to the end of the table), or the failure. -/
def State.poolSource (s : State) (r : CardRef) (g : Workgroup) (d : AttnDesc) (esz : Nat) : Reach (Nat × Pool × Nat) × State :=
  let h := s.attnRead r g d.table 16
  match h.1 with
  | .park v w => (.park v w, h.2)
  | .fail k => (.fail k, h.2)
  | .wait => (.wait, h.2)
  | .ok hb =>
    let a := leNat (hb.drop 8)
    if !poolAddr a 128 then (.fail cardDesc, h.2)
    else
      let p := h.2.attnRead r g a 128
      match p.1 with
      | .park v w => (.park v w, p.2)
      | .fail k => (.fail k, p.2)
      | .wait => (.wait, p.2)
      | .ok pb =>
        let q := Pool.of (leNat pb)
        let nb := bfield hb 0 32
        let cap := bfield hb 32 32
        if !q.ok || cap = 0 || nb > cap || d.bfirst + d.bcount > nb || decide (d.koff + d.d * esz > q.tpb) ||
            decide (d.voff + d.d * esz > q.tpb) then (.fail cardDesc, p.2)
        else (.ok (a, q, if d.bcount = 0 then nb - d.bfirst else d.bcount), p.2)

/-- The tokens of a pool step, with the entry of its block. -/
def State.poolTokens (s : State) (r : CardRef) (g : Workgroup) (d : AttnDesc) (p : Pool) (esz t : Nat) (e : KvEntry) :
    Reach Tokens × State :=
  let n := d.d * esz
  (List.range 16).foldl (fun (x : Reach Tokens × State) j =>
    match x.1 with
    | .ok l =>
      let tok := t % p.bs + j
      if !e.v || tok ≥ e.filled then (.ok (l ++ [none]), x.2)
      else
        let row := p.blockAt e.tier e.block + tok * p.tpb
        let page (i : Nat) : Bool :=
          match x.2.peek g.vd g.ctx (vaOf (BitVec.ofNat 64 (if i = 0 then row else (row / 4096 + i) * 4096))) with
          | some l => l.space == .dev
          | none => true
        if !(List.range ((row + p.tpb - 1) / 4096 - row / 4096 + 1)).all page then (.fail cardBounds, x.2)
        else
          let k := x.2.attnRead r g (row + d.koff) n
          match k.1 with
          | .ok kb =>
            let v := k.2.attnRead r g (row + d.voff) n
            (match v.1 with
              | .ok vb => .ok (l ++ [some (kb, vb)])
              | .park a w => .park a w
              | .fail c => .fail c
              | .wait => .wait, v.2)
          | .park a w => (.park a w, k.2)
          | .fail c => (.fail c, k.2)
          | .wait => (.wait, k.2)
    | _ => x) (.ok [], s)

/-! ## The card -/

/-- The rows after one step at token t, whose position is `pos`. -/
def attnStepRows (s : State) (g : Workgroup) (w : FWord) (d : AttnDesc) (rows : List AttnRow) (pos : Nat) (l : Tokens) :
    List AttnRow × BitVec 7 :=
  let eq := attnBytes w.afmt
  let scl := Fmt.f32.val d.scl
  let kv := l.map (fun x => x.map (fun b => (attnVals w.bfmt w.binf d.d b.1, attnVals w.bfmt w.binf d.d b.2)))
  let vals := kv.map (fun x => match x with | some y => y.2 | none => [])
  let out := rows.zipIdx.map (fun e =>
    let q := attnVals w.afmt w.ainf d.d (s.scratchRead g (d.qbase + e.2 * d.qld) (d.d * eq))
    let keys := kv.zipIdx.map (fun x => if d.causal && decide (pos + x.2 > d.qpos + e.2) then none else x.1.map Prod.fst)
    e.1.step q scl d.d keys vals)
  (out.map Prod.fst, out.foldl (fun f x => f ||| x.2) 0)

/-- The card after a step of 16 tokens. -/
def State.attnStepped (s : State) (r : CardRef) (g : Workgroup) (w : FWord) (d : AttnDesc) (a : AttnRun) (pos : Nat)
    (l : Tokens) (block : List Byte) : State :=
  let x := attnStepRows s g w d a.rows pos l
  let s := s.modCard r.wg r.seq (fun c => { c with xflags := c.xflags ||| x.2 })
  let s := s.modRun r (fun q => { q with attn := some { a with rows := x.1, tdone := a.tdone + 16 }, desc := block })
  s.countCore g.core g.vd 0x27 1

/-- A card that parks: its state is written first. -/
def State.attnPark (s : State) (r : CardRef) (g : Workgroup) (c : Card) (d : AttnDesc) (run : Run) (va : Nat) (w : Bool) :
    EngOut :=
  .park va w (s.attnSave r g d (run.attn.getD (s.attnRows g c d)))

/-- A card stopped at a step boundary for a pre-emption. -/
def State.attnHalt (s : State) (r : CardRef) (g : Workgroup) (c : Card) (d : AttnDesc) (run : Run) : EngOut :=
  let s := (s.attnSave r g d (run.attn.getD (s.attnRows g c d))).takeOff r
  .go (s.modCard r.wg r.seq (fun c => { c with st := .parked, page := none }))

/-- The start: the source's checks and the registration of a pool's reader, once every page that it touches is there. -/
def State.attnStart (s : State) (r : CardRef) (g : Workgroup) (c : Card) (w : FWord) (d : AttnDesc) (run : Run) : EngOut :=
  let begin' (s : State) (p : Option (Pool × Nat)) : EngOut :=
    .go (s.modRun r (fun q => { q with attn := some { s.attnRows g c d with pool := p } }))
  if !c.allows (attnRanges d w) then .fail cardBounds s
  else if d.ring then begin' s none
  else
    let p := s.poolSource r g d (attnBytes w.bfmt)
    match p.1 with
    | .park va b => p.2.attnPark r g c d run va b
    | .fail k => .fail k p.2
    | .wait => .go p.2
    | .ok (a, q, n) =>
      if c.reader.isSome then begin' p.2 (some (q, n))
      else
        let ag := g.cardAgent r 0x18
        let odd := q.epoch % 2 == 1
        let x := p.2.kvCountNeed ag a q odd ((q.rcnt odd + 1) % 2 ^ 32)
        match x.1 with
        | some (.park va b) => x.2.attnPark r g c d run va b
        | some .wait => .go x.2
        | some (.trap .prot _) => .fail cardProt x.2
        | some (.trap .xlate _) => .fail cardXlate x.2
        | some _ => .fail cardDesc x.2
        | none =>
          let y := x.2.poolRegister ag a
          begin' (y.2.modCard r.wg r.seq (fun c => { c with reader := some (a, y.1) })) (some (q, n))

/-- A step of a slot-ring card. -/
def State.attnRing (s : State) (r : CardRef) (g : Workgroup) (c : Card) (w : FWord) (d : AttnDesc) (a : AttnRun) : EngOut :=
  if a.tdone ≥ d.nblk * d.bt then .go (s.attnEnd r g c w d a)
  else match s.slotTokens g d (attnBytes w.bfmt) a.tdone with
    | none => .idle
    | some l => .go ((s.attnStepped r g w d a a.tdone l []).slotDone g d (a.tdone + 16))

/-- The entry of the current block: held from its first step, or read now as an acquire. -/
def State.attnEntry (s : State) (r : CardRef) (g : Workgroup) (d : AttnDesc) (run : Run) (b : Nat) : Reach (List Byte) × State :=
  if run.desc.isEmpty then s.attnRead r g (entryAt d.table b) 8 else (.ok run.desc, s)

/-- A step of a pool card. -/
def State.attnPool (s : State) (r : CardRef) (g : Workgroup) (c : Card) (w : FWord) (d : AttnDesc) (run : Run) (a : AttnRun) :
    EngOut :=
  let p := (a.pool.map Prod.fst).getD (Pool.of 0)
  if a.tdone ≥ (a.pool.map Prod.snd).getD 0 * p.bs then .go (s.attnEnd r g c w d a)
  else
    let b := d.bfirst + a.tdone / p.bs
    let x := s.attnEntry r g d run b
    match x.1 with
    | .park va k => x.2.attnPark r g c d run va k
    | .fail k => .fail k x.2
    | .wait => .go x.2
    | .ok eb =>
      let e := KvEntry.of (leNat eb)
      if e.v && !e.ok p then .fail cardDesc x.2
      else
        let l := x.2.poolTokens r g d p (attnBytes w.bfmt) a.tdone e
        match l.1 with
        | .park va k => l.2.attnPark r g c d run va k
        | .fail k => .fail k l.2
        | .wait => .go l.2
        | .ok ts =>
          let last := (a.tdone + 16) % p.bs == 0
          .go (l.2.attnStepped r g w d a (d.bfirst * p.bs + a.tdone) ts (if last then [] else eb))

/-- What a JATTN card does next. -/
def State.attnNext (s : State) (r : CardRef) (g : Workgroup) (c : Card) (run : Run) : EngOut :=
  let w := FWord.of (BitVec.ofNat 32 (cWord c.bytes 0))
  let d := AttnDesc.of c.bytes
  if g.frozen && !g.feedsRotation c then s.attnHalt r g c d run
  else match run.attn with
    | none => s.attnStart r g c w d run
    | some a => if d.ring then s.attnRing r g c w d a else s.attnPool r g c w d run a

end Sys2Proof.Machine
end

