-- ==== Sys2Proof/Machine/Engines.lean ====
section
/-! DEFINITION. Engines.lean: the steps of the engines: work, parks, failures, ends and cancels of running cards, the
chunks of the ISMVs, and the reset of an engine that does not drain (R292, R293, R302 to R308, R331, R478). -/

namespace Sys2Proof.Machine

open Sys2Proof

/-- The card that an engine runs, with its workgroup and its run. An ISMV runs the cards at the heads of its queues turn by
turn; one that waits for a peer takes no turn (R326). -/
def State.running (s : State) (e : Engine) : Option (CardRef × Workgroup × Card × Run) :=
  match e with
  | .ismv st =>
    match (s.ismvTurn st).find? (fun x => match s.card? x.2 with
      | some (_, c) => c.st == .running && !s.cardBusy x.2
      | none => false) with
    | some x => (s.card? x.2).map (fun y => (x.2, y.1, y.2, Run.fresh x.2 y.2))
    | none => none
  | _ =>
    match (s.engine e).run with
    | some q => (s.card? q.card).map (fun y => (q.card, y.1, y.2, q))
    | none => none

/-- Whether the ISMV card has done all its chunks. -/
def mvDone (c : Card) : Bool := decide (c.prog * 32 ≥ (MvDesc.of c.bytes).n) || c.atAdd

/-- Whether a copy card stands at a boundary of its destination granules. -/
def Run.atGranule (q : Run) : Bool :=
  let d := CopyDesc.of q.desc
  q.done || q.desc.isEmpty || q.prog == 0 ||
    (d.target (q.prog - 1)).map (fun y => y / 32) != (d.target q.prog).map (fun y => y / 32)

/-- Whether a card stops for the cancel that waits for it: a copy at its next granule, a rotation at its next piece (R307,
R430). One whose counter add has gone out ends as done (R303). -/
def Card.stopping (c : Card) (q : Run) : Bool :=
  c.cancel && !c.adding && !(c.kind == 0x20 && q.prog != 0) && !(isCopy c.kind && !q.atGranule)

/-- Whether the card that an engine runs stops now: no access of it is on its way. -/
def State.stops (s : State) (r : CardRef) (c : Card) (q : Run) : Bool := c.stopping q && !s.cardBusy r

/-- What an engine does next. A card that stops for its cancel does no more work (R307). -/
def State.engineNext (s : State) (e : Engine) : EngOut :=
  match s.running e with
  | none => .idle
  | some (r, g, c, q) =>
    if s.stops r c q then .idle
    else match e with
      | .ismv _ => if mvDone c then s.finishCard r else s.mvNext r g c
      | _ =>
        if q.done then s.finishCard r
        else if c.kind = 0x20 then s.rotNext r g c q
        else match e with
          | .copy _ _ => s.copyNext r g c q
          | .half _ _ => s.halfNext r g c q
          | _ => s.attnNext r g c q

/-- The work of an engine, if work is what it does next. -/
def State.engineWork (s : State) (e : Engine) : State :=
  match s.engineNext e with
  | .go t => t
  | _ => s

/-- The bytes that a step of a copy card moved, for the core's counter 0x25: one event for each 64 bytes. -/
def State.countCopied (s t : State) (e : Engine) : State :=
  match s.running e, t.running e with
  | some (r, g, c, q), some (r', _, _, q') =>
    let moved (q : Run) : Nat := (CopyDesc.of q'.desc).progOf q.prog / 64
    if r = r' ∧ isCopy c.kind = true ∧ q.desc.isEmpty = false then t.countCore g.core g.vd 0x25 (moved q' - moved q) else t
  | _, _ => t

/-- ENGINE_GRANULE_WRITE: a copy channel, a matrix half or a rotation works on until its next granule. -/
def execEngineGranuleWrite (e : Engine) (s : State) : Res :=
  match e with
  | .copy _ _ => .next (s.countCopied (s.engineWork e) e)
  | .half _ _ | .rot _ => .next (s.engineWork e)
  | .attn _ | .ismv _ => .next s

/-- ATTN_STEP: the attention engine of a core goes one step on. -/
def execAttnStep (core : Nat) (s : State) : Res :=
  .next (s.engineWork (.attn core))

/-- ISMV_CHUNK: the ISMV of a stack starts the card whose turn it is, or computes its next chunk. -/
def execIsmvChunk (stack : Nat) (s : State) : Res :=
  let e := Engine.ismv stack
  match s.running e, s.engineNext e with
  | some (_, g, c, _), .go t =>
    let d := MvDesc.of c.bytes
    let x := t.engine e
    let t := t.setEngine e { x with last := g.core }
    .next (if c.mv.isSome then t.countHbm g.vd (stack * 2 ^ 36) 0x62 (d.rowb * 32 / 256) else t)
  | _, _ => .next s

/-- CARD_PARK: the card meets a page that it needs and that is not there. -/
def execCardPark (e : Engine) (s : State) : Res :=
  match s.running e, s.engineNext e with
  | some (r, _, _, _), .park va w t => .next (t.parkCard r va w)
  | _, _ => .next s

/-- CARD_FINISH: every effect has been made, and the card is done. -/
def execCardFinish (e : Engine) (s : State) : Res :=
  match s.engineNext e with
  | .fin t => .next t
  | _ => .next s

/-- CARD_FAIL: the card fails. -/
def execCardFail (e : Engine) (s : State) : Res :=
  match s.running e, s.engineNext e with
  | some (r, _, _, _), .fail k t => .next (t.failCard r k)
  | _, _ => .next s

/-- CARD_CANCEL_STOP: a running card stops at its boundary for the cancel that waits for it (R307). -/
def execCardCancelStop (e : Engine) (s : State) : Res :=
  match s.running e with
  | some (r, _, c, q) => if s.stops r c q then .next (s.finalCard r.wg r.seq .cancelled 0) else .next s
  | none => .next s

/-! ## The reset of an engine that does not drain (R331, R478, R479) -/

/-- The cards that an engine holds. -/
def State.heldBy (s : State) (e : Engine) : List CardRef :=
  let q := (s.engine e).queue ++ ((s.engine e).run.map (fun x => x.card)).toList
  match e with
  | .ismv st => q ++ (s.ismvq.filter (fun x => x.1 / 160 == st)).flatMap Prod.snd
  | _ => q

/-- ENGINE_DRAIN_TIMEOUT: an engine that has not drained 100 µs after STOP is reset alone: its cards of surviving virtual
devices fail with ENGRESET, and a half is cleared as at binding. A card whose counter add has gone out to a peer ends by its
answer. -/
def execEngineDrainTimeout (e : Engine) (s : State) : Res :=
  match (s.engine e).stopAt with
  | none => .next s
  | some t =>
    if s.clock < t + 130000 then .next s
    else
      let added (r : CardRef) : Bool := (s.card? r).any (fun x => x.2.adding)
      let s := ((s.heldBy e).filter (fun r => !added r)).foldl (fun s r => s.failCard r cardReset) s
      let s := s.setEngine e { s.engine e with
        stopAt := none, queue := [], run := (s.engine e).run.filter (fun q => added q.card) }
      .next (match e with | .half core h => s.clearHalf core h | _ => s)

end Sys2Proof.Machine
end

