-- ==== Sys2Proof/Machine/Integer.lean ====
section
/-! DEFINITION. Integer.lean: the integer and address instructions (R108 to R121). -/

namespace Sys2Proof.Machine

open Sys2Proof

/-! ## Results as exact integers (R109, R110, R114) -/

/-- ext(x) of the low n bits of an operand (R109). -/
def extInt (u : Bool) (n : Nat) (x : DWord) : Int :=
  let v := x.toNat % 2 ^ n
  if !u && v ≥ 2 ^ (n - 1) then (v : Int) - 2 ^ n else v

/-- An exact result written at width n, saturated where SAT is set (R109). -/
def narrowInt (n : Nat) (u sat : Bool) (x : Int) : DWord × BitVec 7 :=
  let lo : Int := if u then 0 else -(2 ^ (n - 1))
  let hi : Int := if u then 2 ^ n - 1 else 2 ^ (n - 1) - 1
  if sat && (x < lo || x > hi) then (BitVec.ofNat 64 (intCode n (if x < lo then lo else hi)), flagSAT)
  else (BitVec.ofNat 64 (intCode n x), 0)

/-- The width of an operand. -/
def widthOf (w : Bool) : Width := if w then .w64 else .w32
/-- Bits of a width. -/
def bitsW (w : Bool) : Nat := if w then 64 else 32

/-- The exact integer of a source operand. -/
def Rd.int (r : Rd) (u w : Bool) (x : Src) (l : Nat) : Int := extInt u (bitsW w) (r.val x (widthOf w) l)

/-- The relation of ICMP (R111). -/
def cmpRel (c : Cmp) (a b : Int) : Bool :=
  match c with
  | .eq => a == b
  | .ne => a != b
  | .lt => a < b
  | .le => a ≤ b
  | .gt => a > b
  | .ge => a ≥ b

/-- Quotient and remainder of R114, with the flags that each sets. -/
def divInt (n : Nat) (u sat : Bool) (a b : Int) : (DWord × BitVec 7) × (DWord × BitVec 7) :=
  if b = 0 then ((BitVec.ofNat 64 (2 ^ n - 1), flagIDZ), (BitVec.ofNat 64 (intCode n a), flagIDZ))
  else if !u && a == -(2 ^ (n - 1)) && b == -1 then
    (if sat then (BitVec.ofNat 64 (2 ^ (n - 1) - 1), flagSAT) else (BitVec.ofNat 64 (2 ^ (n - 1)), 0), (0, 0))
  else
    let q := Int.tdiv a b
    ((BitVec.ofNat 64 (intCode n q), 0), (BitVec.ofNat 64 (intCode n (a - q * b)), 0))

/-! ## Logic, shifts and bit fields (R116 to R121) -/

/-- LOP3 on one value (R116). -/
def lop3Bits (lut : BitVec 8) (a b c : DWord) : DWord :=
  (List.range 64).foldl (fun r i =>
    let k := (if a.getLsbD i then 4 else 0) + (if b.getLsbD i then 2 else 0) + (if c.getLsbD i then 1 else 0)
    if lut.getLsbD k then r ||| (1#64 <<< i) else r) 0

/-- The shift count of R117. -/
def shiftCount (n : Nat) (wrap : Bool) (b : Word) : Nat := if wrap then b.toNat % n else b.toNat

/-- A left shift of the low n bits. -/
def shlBits (n : Nat) (x : DWord) (k : Nat) : DWord := if k ≥ n then 0 else x <<< k
/-- A right shift of the low n bits. -/
def shrBits (n : Nat) (x : DWord) (k : Nat) : DWord := if k ≥ n then 0 else BitVec.ofNat 64 (x.toNat % 2 ^ n / 2 ^ k)
/-- An arithmetic right shift of the low n bits. -/
def sarBits (n : Nat) (x : DWord) (k : Nat) : DWord :=
  BitVec.ofNat 64 (intCode n (extInt false n x / 2 ^ (min k n)))

/-- The bits pos to pos + len − 1, as a mask. -/
def fieldMask (pos len : Nat) : DWord := BitVec.ofNat 64 ((2 ^ len - 1) * 2 ^ pos)

/-- BFE (R119). -/
def bfeBits (n : Nat) (sx : Bool) (a : DWord) (ctl : Word) : DWord :=
  let pos := ctl.toNat % 256
  let len := min (ctl.toNat / 256 % 256) n
  let f := a.toNat % 2 ^ n / 2 ^ pos % 2 ^ len
  if sx && len != 0 && f ≥ 2 ^ (len - 1) then BitVec.ofNat 64 (intCode n ((f : Int) - 2 ^ len)) else BitVec.ofNat 64 f

/-- BFI (R119). -/
def bfiBits (n : Nat) (a b : DWord) (ctl : Word) : DWord :=
  let pos := ctl.toNat % 256
  let len := min (ctl.toNat / 256 % 256) n
  let m := fieldMask pos len
  let f := BitVec.ofNat 64 (a.toNat % 2 ^ len * 2 ^ pos)
  (b &&& ~~~m) ||| (f &&& m)

/-- Leading zeros of the low n bits. -/
def clzBits (n : Nat) (x : DWord) : Nat :=
  let v := x.toNat % 2 ^ n
  if v = 0 then n else n - 1 - Nat.log2 v

/-- Trailing zeros of the low n bits. -/
def ctzBits (n : Nat) (x : DWord) : Nat := ((List.range n).find? x.getLsbD).getD n

/-- The low n bits in reverse (R120). -/
def brevBits (n : Nat) (x : DWord) : DWord :=
  (List.range n).foldl (fun r i => if x.getLsbD i then r ||| (1#64 <<< (n - 1 - i)) else r) 0

/-- BPERM (R121). -/
def bpermBits (a b sel : Word) : DWord :=
  let v := b.toNat * 2 ^ 32 + a.toNat
  let byte (j : Nat) : Nat :=
    let s := sel.toNat / 2 ^ (4 * j) % 16
    let x := v / 2 ^ (8 * (s % 8)) % 256
    if s ≥ 8 then (if x ≥ 128 then 255 else 0) else x
  BitVec.ofNat 64 (byte 0 + byte 1 * 2 ^ 8 + byte 2 * 2 ^ 16 + byte 3 * 2 ^ 24)

/-- An integer without a flag. -/
def plain (x : DWord) : DWord × BitVec 7 := (x, 0)
/-- A count without a flag. -/
def count (n : Nat) : DWord × BitVec 7 := (BitVec.ofNat 64 n, 0)

/-! ## Arithmetic (R109, R110) -/

/-- IADD. -/
def execIadd (h : Hdr) (d : Dst) (a b : Src) (u sat : Bool) (s : State) : Res :=
  intIssue h d false [a, b] s (fun r l => narrowInt 32 u sat (r.int u false a l + r.int u false b l))

/-- ISUB. -/
def execIsub (h : Hdr) (d : Dst) (a b : Src) (u sat : Bool) (s : State) : Res :=
  intIssue h d false [a, b] s (fun r l => narrowInt 32 u sat (r.int u false a l - r.int u false b l))

/-- IADD3. -/
def execIadd3 (h : Hdr) (d : Dst) (a b c : Src) (u sat : Bool) (s : State) : Res :=
  intIssue h d false [a, b, c] s (fun r l =>
    narrowInt 32 u sat (r.int u false a l + r.int u false b l + r.int u false c l))

/-- IADDW. -/
def execIaddw (h : Hdr) (d : Dst) (a b : Src) (u sat : Bool) (s : State) : Res :=
  intIssue h d true [a, b] s (fun r l => narrowInt 64 u sat (r.int u true a l + r.int u true b l))

/-- ISUBW. -/
def execIsubw (h : Hdr) (d : Dst) (a b : Src) (u sat : Bool) (s : State) : Res :=
  intIssue h d true [a, b] s (fun r l => narrowInt 64 u sat (r.int u true a l - r.int u true b l))

/-- IMUL. -/
def execImul (h : Hdr) (d : Dst) (a b : Src) (u sat : Bool) (s : State) : Res :=
  intIssue h d false [a, b] s (fun r l => narrowInt 32 u sat (r.int u false a l * r.int u false b l))

/-- IMULHI: bits [63:32] of the exact product. -/
def execImulhi (h : Hdr) (d : Dst) (a b : Src) (u : Bool) (s : State) : Res :=
  intIssue h d false [a, b] s (fun r l =>
    narrowInt 32 u false ((r.int u false a l * r.int u false b l) / 2 ^ 32))

/-- IMAD. -/
def execImad (h : Hdr) (d : Dst) (a b c : Src) (u sat : Bool) (s : State) : Res :=
  intIssue h d false [a, b, c] s (fun r l =>
    narrowInt 32 u sat (r.int u false a l * r.int u false b l + r.int u false c l))

/-- IMADW: 32-bit factors, a 64-bit addend and result. -/
def execImadw (h : Hdr) (d : Dst) (a b c : Src) (u sat : Bool) (s : State) : Res :=
  intIssue h d true [a, b, c] s (fun r l =>
    narrowInt 64 u sat (r.int u false a l * r.int u false b l + r.int u true c l))

/-- IMIN. -/
def execImin (h : Hdr) (d : Dst) (a b : Src) (u w : Bool) (s : State) : Res :=
  intIssue h d w [a, b] s (fun r l => narrowInt (bitsW w) u false (min (r.int u w a l) (r.int u w b l)))

/-- IMAX. -/
def execImax (h : Hdr) (d : Dst) (a b : Src) (u w : Bool) (s : State) : Res :=
  intIssue h d w [a, b] s (fun r l => narrowInt (bitsW w) u false (max (r.int u w a l) (r.int u w b l)))

/-- IABS. -/
def execIabs (h : Hdr) (d : Dst) (a : Src) (sat : Bool) (s : State) : Res :=
  intIssue h d false [a] s (fun r l => narrowInt 32 false sat (r.int false false a l).natAbs)

/-- IDIFF. -/
def execIdiff (h : Hdr) (d : Dst) (a b : Src) (u : Bool) (s : State) : Res :=
  intIssue h d false [a, b] s (fun r l => count (r.int u false a l - r.int u false b l).natAbs)

/-- ICLAMP. -/
def execIclamp (h : Hdr) (d : Dst) (a lo hi : Src) (u : Bool) (s : State) : Res :=
  intIssue h d false [a, lo, hi] s (fun r l =>
    narrowInt 32 u false (min (max (r.int u false a l) (r.int u false lo l)) (r.int u false hi l)))

/-! ## Comparison and selection (R111, R112) -/

/-- The lanes in which a relation holds, combined with the old predicate. -/
def cmpMask (pd : BitVec 3) (a b : Src) (cmp : Cmp) (u w : Bool) (comb : Comb) (i : Iss) (r : Rd) : Mask × Wave :=
  let t := Mask.ofFn (fun l => i.part.has l && cmpRel cmp (r.int u w a l) (r.int u w b l))
  (combine comb (i.w.getP pd.toNat) t, i.w)

/-- ICMP. -/
def execIcmp (h : Hdr) (pd : BitVec 3) (a b : Src) (cmp : Cmp) (u : Bool) (comb : Comb) (s : State) : Res :=
  predIssue h pd [a, b] s (cmpMask pd a b cmp u false comb)

/-- ICMPW. -/
def execIcmpw (h : Hdr) (pd : BitVec 3) (a b : Src) (cmp : Cmp) (u : Bool) (comb : Comb) (s : State) : Res :=
  predIssue h pd [a, b] s (cmpMask pd a b cmp u true comb)

/-- ISEL. -/
def execIsel (h : Hdr) (d : Dst) (a b : Src) (ps : BitVec 3) (pn w : Bool) (s : State) : Res :=
  intIssue h d w [a, b] s (fun r l =>
    plain (r.val (if (r.w.getP ps.toNat).has l != pn then a else b) (widthOf w) l))

/-! ## Moves and extension (R113) -/

/-- MOV. -/
def execMov (h : Hdr) (d : Dst) (a : Src) (s : State) : Res :=
  intIssue h d false [a] s (fun r l => plain (r.val a .w32 l))

/-- MOVW. -/
def execMovw (h : Hdr) (d : Dst) (a : Src) (s : State) : Res :=
  intIssue h d true [a] s (fun r l => plain (r.val a .w64 l))

/-- MOVHI. -/
def execMovhi (h : Hdr) (d : Dst) (a b : Src) (s : State) : Res :=
  intIssue h d true [a, b] s (fun r l => plain (r.w32 a l ++ r.w32 b l))

/-- Bits and sign of an extension mode, and whether its destination is wide. -/
def extParts : ExtMode → Nat × Bool × Bool
  | .s8 => (8, true, false)
  | .u8 => (8, false, false)
  | .s16 => (16, true, false)
  | .u16 => (16, false, false)
  | .s32 => (32, true, true)
  | .u32 => (32, false, true)

/-- IEXT. -/
def execIext (h : Hdr) (d : Dst) (a : Src) (mode : ExtMode) (s : State) : Res :=
  let p := extParts mode
  intIssue h d p.2.2 [a] s (fun r l => narrowInt (bitsW p.2.2) false false (extInt (!p.2.1) p.1 (r.val a .w32 l)))

/-! ## Division and address formation (R114, R115) -/

/-- IDIV. -/
def execIdiv (h : Hdr) (d : Dst) (a b : Src) (u sat w : Bool) (s : State) : Res :=
  intIssue h d w [a, b] s (fun r l => (divInt (bitsW w) u sat (r.int u w a l) (r.int u w b l)).1)

/-- IREM. -/
def execIrem (h : Hdr) (d : Dst) (a b : Src) (u w : Bool) (s : State) : Res :=
  intIssue h d w [a, b] s (fun r l => (divInt (bitsW w) u false (r.int u w a l) (r.int u w b l)).2)

/-- LEA. -/
def execLea (h : Hdr) (d : Dst) (a b c : Src) (u : Bool) (sh : BitVec 3) (s : State) : Res :=
  intIssue h d true [a, b, c] s (fun r l =>
    narrowInt 64 false false
      (r.int false true a l + r.int u false b l * 2 ^ sh.toNat + r.int false false c l))

/-! ## Logic (R116) -/

/-- AND. -/
def execAnd (h : Hdr) (d : Dst) (a b : Src) (w : Bool) (s : State) : Res :=
  intIssue h d w [a, b] s (fun r l => plain (r.val a (widthOf w) l &&& r.val b (widthOf w) l))

/-- OR. -/
def execOr (h : Hdr) (d : Dst) (a b : Src) (w : Bool) (s : State) : Res :=
  intIssue h d w [a, b] s (fun r l => plain (r.val a (widthOf w) l ||| r.val b (widthOf w) l))

/-- XOR. -/
def execXor (h : Hdr) (d : Dst) (a b : Src) (w : Bool) (s : State) : Res :=
  intIssue h d w [a, b] s (fun r l => plain (r.val a (widthOf w) l ^^^ r.val b (widthOf w) l))

/-- ANDN. -/
def execAndn (h : Hdr) (d : Dst) (a b : Src) (w : Bool) (s : State) : Res :=
  intIssue h d w [a, b] s (fun r l => plain (r.val a (widthOf w) l &&& ~~~(r.val b (widthOf w) l)))

/-- LOP3. -/
def execLop3 (h : Hdr) (d : Dst) (a b c : Src) (w : Bool) (lut : BitVec 8) (s : State) : Res :=
  intIssue h d w [a, b, c] s (fun r l =>
    plain (lop3Bits lut (r.val a (widthOf w) l) (r.val b (widthOf w) l) (r.val c (widthOf w) l)))

/-! ## Shifts (R117, R118) -/

/-- SHL. -/
def execShl (h : Hdr) (d : Dst) (a b : Src) (wrap : Bool) (s : State) : Res :=
  intIssue h d false [a, b] s (fun r l => plain (shlBits 32 (r.val a .w32 l) (shiftCount 32 wrap (r.w32 b l))))

/-- SHR. -/
def execShr (h : Hdr) (d : Dst) (a b : Src) (wrap : Bool) (s : State) : Res :=
  intIssue h d false [a, b] s (fun r l => plain (shrBits 32 (r.val a .w32 l) (shiftCount 32 wrap (r.w32 b l))))

/-- SAR. -/
def execSar (h : Hdr) (d : Dst) (a b : Src) (wrap : Bool) (s : State) : Res :=
  intIssue h d false [a, b] s (fun r l => plain (sarBits 32 (r.val a .w32 l) (shiftCount 32 wrap (r.w32 b l))))

/-- SHF. -/
def execShf (h : Hdr) (d : Dst) (a b c : Src) (dir : ShfDir) (wrap : Bool) (s : State) : Res :=
  intIssue h d false [a, b, c] s (fun r l =>
    let v := r.w32 b l ++ r.w32 a l
    let k := if wrap then (r.w32 c l).toNat % 64 else min (r.w32 c l).toNat 64
    match dir with
    | .r => plain (slice (v >>> k) 0 32 |>.setWidth 64)
    | .l => plain (slice (v <<< k) 32 32 |>.setWidth 64))

/-- SHLW. -/
def execShlw (h : Hdr) (d : Dst) (a b : Src) (wrap : Bool) (s : State) : Res :=
  intIssue h d true [a, b] s (fun r l => plain (shlBits 64 (r.val a .w64 l) (shiftCount 64 wrap (r.w32 b l))))

/-- SHRW. -/
def execShrw (h : Hdr) (d : Dst) (a b : Src) (wrap : Bool) (s : State) : Res :=
  intIssue h d true [a, b] s (fun r l => plain (shrBits 64 (r.val a .w64 l) (shiftCount 64 wrap (r.w32 b l))))

/-- SARW. -/
def execSarw (h : Hdr) (d : Dst) (a b : Src) (wrap : Bool) (s : State) : Res :=
  intIssue h d true [a, b] s (fun r l => plain (sarBits 64 (r.val a .w64 l) (shiftCount 64 wrap (r.w32 b l))))

/-! ## Bit fields (R119 to R121) -/

/-- BFE. -/
def execBfe (h : Hdr) (d : Dst) (a ctl : Src) (sx w : Bool) (s : State) : Res :=
  intIssue h d w [a, ctl] s (fun r l => plain (bfeBits (bitsW w) sx (r.val a (widthOf w) l) (r.w32 ctl l)))

/-- BFI. -/
def execBfi (h : Hdr) (d : Dst) (a b ctl : Src) (w : Bool) (s : State) : Res :=
  intIssue h d w [a, b, ctl] s (fun r l =>
    plain (bfiBits (bitsW w) (r.val a (widthOf w) l) (r.val b (widthOf w) l) (r.w32 ctl l)))

/-- POPC. -/
def execPopc (h : Hdr) (d : Dst) (a : Src) (w : Bool) (s : State) : Res :=
  intIssue h d false [a] s (fun r l => count (popCount (r.val a (widthOf w) l)))

/-- CLZ. -/
def execClz (h : Hdr) (d : Dst) (a : Src) (w : Bool) (s : State) : Res :=
  intIssue h d false [a] s (fun r l => count (clzBits (bitsW w) (r.val a (widthOf w) l)))

/-- CTZ. -/
def execCtz (h : Hdr) (d : Dst) (a : Src) (w : Bool) (s : State) : Res :=
  intIssue h d false [a] s (fun r l => count (ctzBits (bitsW w) (r.val a (widthOf w) l)))

/-- BREV. -/
def execBrev (h : Hdr) (d : Dst) (a : Src) (w : Bool) (s : State) : Res :=
  intIssue h d w [a] s (fun r l => plain (brevBits (bitsW w) (r.val a (widthOf w) l)))

/-- BPERM. -/
def execBperm (h : Hdr) (d : Dst) (a b sel : Src) (s : State) : Res :=
  intIssue h d false [a, b, sel] s (fun r l => plain (bpermBits (r.w32 a l) (r.w32 b l) (r.w32 sel l)))

end Sys2Proof.Machine
end

