-- ==== Sys2Proof/Machine/Lane.lean ====
section
/-! DEFINITION. Lane.lean: the lane and predicate instructions (R122 to R130). -/

namespace Sys2Proof.Machine

open Sys2Proof

/-! ## Results over the participating set -/

/-- A scalar result that takes no source lane: one value, if a lane participates. -/
def onceDst (i : Iss) (x : DWord) : Tab DWord × Wave := (if i.part = 0 then [] else [(0, x)], i.w)

/-- A value for each participating lane. -/
def eachLane (i : Iss) (f : Nat → DWord) : Tab DWord × Wave := (i.part.lanes.map (fun l => (l, f l)), i.w)

/-- A value in the form of a destination: once, or in every participating lane. -/
def inForm (d : Dst) (i : Iss) (w : Wave) (x : DWord) : Tab DWord × Wave :=
  (if i.part = 0 then [] else if d.scalar then [(0, x)] else i.part.lanes.map (fun l => (l, x)), w)

/-- BALLOT (R123). -/
def execBallot (h : Hdr) (d : Dst) (ps : BitVec 3) (pn : Bool) (s : State) : Res :=
  aluIssue h d false [] noGen s (fun i _ => onceDst i ((i.pred ps pn).setWidth 64))

/-- VOTE (R124). -/
def execVote (h : Hdr) (mode : VoteMode) (pd ps : BitVec 3) (pn : Bool) (s : State) : Res :=
  predIssue h pd [] s (fun i _ =>
    let p := i.pred ps pn
    let t := match mode with
      | .any => p != 0
      | .all => p == i.part
      | .uni => p == 0 || p == i.part
    (if t then i.part else 0, i.w))

/-- PPOPC (R123). -/
def execPpopc (h : Hdr) (d : Dst) (ps : BitVec 3) (pn : Bool) (s : State) : Res :=
  aluIssue h d false [] noGen s (fun i _ => onceDst i (BitVec.ofNat 64 (popCount (i.pred ps pn))))

/-- MRANK (R123). -/
def execMrank (h : Hdr) (d : Dst) (ps : BitVec 3) (pn : Bool) (s : State) : Res :=
  aluIssue h d false [] noGen s (fun i _ =>
    eachLane i (fun l => BitVec.ofNat 64 (popCount (i.pred ps pn &&& (Mask.one l - 1)))))

/-! ## Shuffles (R125, R126) -/

/-- The segment size of SHFL. -/
def segSize : ShflSeg → Nat
  | .seg32 => 32
  | .seg16 => 16
  | .seg8 => 8
  | .seg4 => 4
  | .seg2 => 2
  | .seg1 => 1

/-- The source lane of SHFL by position, in lane l with count k. -/
def shflLane (mode : ShflMode) (sz l k : Nat) : Nat :=
  let l0 := l / sz * sz
  match mode with
  | .idx => l0 + k % sz
  | .up => if l < l0 + k then l else l - k
  | .down => if l + k ≥ l0 + sz then l else l + k
  | .xor => Nat.xor l (k % sz)

/-- SHFL: a lane whose source does not participate keeps its own value. -/
def execShfl (h : Hdr) (d : Dst) (a b : Src) (mode : ShflMode) (seg : ShflSeg) (w : Bool) (s : State) : Res :=
  aluIssue h d w [a, b] noGen s (fun i r => eachLane i (fun l =>
    let j := shflLane mode (segSize seg) l (r.w32 b l).toNat
    r.val a (widthOf w) (if i.part.has j then j else l)))

/-- RDLANE: the register of a lane, whatever that lane does. -/
def execRdlane (h : Hdr) (d : Dst) (vs : BitVec 6) (b : Src) (w : Bool) (s : State) : Res :=
  aluIssue h d w [b] noGen s (fun i r => onceDst i (r.val (.v vs) (widthOf w) ((r.w32 b i.lane).toNat % 32)))

/-- WRLANE: one lane written, if it participates; a latch operand is read in the lowest lane of `active()`. -/
def execWrlane (h : Hdr) (d : Dst) (a b : Src) (w : Bool) (s : State) : Res :=
  aluIssue h d w [a, b] noGen s (fun i r =>
    let r := { r with scalar := true }
    let j := (r.w32 b i.lane).toNat % 32
    (if i.part.has j then [(j, r.val a (widthOf w) i.lane)] else [], i.w))

/-! ## Reductions and scans (R127) -/

/-- FADD of two binary32 values under `%rmode` (R127). -/
def faddBits (e : FEnv) (seed : Word) (a b : Word) : LaneOut :=
  finish .f32 e seed (addNum (e.mode == .rd) (Fmt.f32.val (modBits .f32 e.flush noMod a.toNat))
    (Fmt.f32.val (modBits .f32 e.flush noMod b.toNat)))

/-- FMIN or FMAX of two binary32 values (R172). -/
def fminmaxBits (e : FEnv) (max : Bool) (a b : Word) : LaneOut :=
  ⟨BitVec.ofNat 64 (minMaxBits .f32 max (modBits .f32 e.flush noMod a.toNat) (modBits .f32 e.flush noMod b.toNat)),
    0, 0⟩

/-- One step of a reduction: the value, the flags and the generator state. -/
def redStep (op : RedOp) (w : Bool) (e : FEnv) (seed : Word) (a b : DWord) : LaneOut :=
  let n := bitsW w
  let pick (u : Bool) (max : Bool) : LaneOut :=
    let x := extInt u n a
    let y := extInt u n b
    ⟨if decide (x < y) != max then a else b, 0, seed⟩
  match op with
  | .add => ⟨a + b, 0, seed⟩
  | .min => pick false false
  | .max => pick false true
  | .umin => pick true false
  | .umax => pick true true
  | .and => ⟨a &&& b, 0, seed⟩
  | .or => ⟨a ||| b, 0, seed⟩
  | .xor => ⟨a ^^^ b, 0, seed⟩
  | .fadd => faddBits e seed (slice a 0 32) (slice b 0 32)
  | .fmin => { fminmaxBits e false (slice a 0 32) (slice b 0 32) with seed := seed }
  | .fmax => { fminmaxBits e true (slice a 0 32) (slice b 0 32) with seed := seed }

/-- The identity of an operation. -/
def redIdentity (op : RedOp) (w : Bool) : DWord :=
  match op with
  | .add | .or | .xor | .umax => 0
  | .min => if w then 0x7FFFFFFFFFFFFFFF else 0x7FFFFFFF
  | .max => if w then 0x8000000000000000 else 0x80000000
  | .umin | .and => if w then 0xFFFFFFFFFFFFFFFF else 0xFFFFFFFF
  | .fadd => 0x80000000
  | .fmin => 0x7F800000
  | .fmax => 0xFF800000

/-- The rounding of a reduction: `%rmode` alone. -/
def redEnv (w : Wave) : FEnv := ⟨w.rm, false, w.ftz⟩

/-- Whether a reduction over at least `n` lanes draws: the first lane's value is taken as it is (R153). -/
def redGen (op : RedOp) (n : Nat) (i : Iss) (_ : Rd) : Bool :=
  op == .fadd && i.w.rm == .sr && decide (n ≤ i.part.lanes.length)

/-- The value of WRED with the flags and the generator state of its steps, all drawn from one generator. -/
def redGo (op : RedOp) (w : Bool) (e : FEnv) (val : Nat → DWord) : List Nat → LaneOut → LaneOut
  | [], o => o
  | l :: r, o =>
    let n := redStep op w e o.seed o.val (val l)
    redGo op w e val r ⟨n.val, o.flags ||| n.flags, n.seed⟩

/-- WRED. -/
def execWred (h : Hdr) (d : Dst) (vs : BitVec 6) (op : RedOp) (w : Bool) (s : State) : Res :=
  aluChecked h d w [] (redGen op 2) s noBad (fun i r =>
    match i.part.lanes with
    | [] => ([], i.w)
    | l :: ls =>
      let val := r.val (.v vs) (widthOf w)
      let o := redGo op w (redEnv i.w) val ls ⟨val l, 0, i.w.seedOf l⟩
      let wv := if d.scalar then i.w.addFlags l o.flags else (l :: ls).foldl (fun w j => w.addFlags j o.flags) i.w
      inForm d i (wv.setSeed l o.seed) o.val)

/-- WSCAN over the lanes in order: results so far, and the wave with flags and generators. -/
def scanGo (op : RedOp) (w excl : Bool) (e : FEnv) (val : Nat → DWord) :
    List Nat → Option DWord → Tab DWord → Wave → Tab DWord × Wave
  | [], _, rs, wv => (rs, wv)
  | l :: r, acc, rs, wv =>
    if excl then
      let rs := rs ++ [(l, acc.getD (redIdentity op w))]
      match acc with
      | none => scanGo op w excl e val r (some (val l)) rs wv
      | some x =>
        if r.isEmpty then (rs, wv)
        else
          let o := redStep op w e (wv.seedOf l) x (val l)
          scanGo op w excl e val r (some o.val) rs ((wv.addFlags l o.flags).setSeed l o.seed)
    else
      match acc with
      | none => scanGo op w excl e val r (some (val l)) (rs ++ [(l, val l)]) wv
      | some x =>
        let o := redStep op w e (wv.seedOf l) x (val l)
        scanGo op w excl e val r (some o.val) (rs ++ [(l, o.val)]) ((wv.addFlags l o.flags).setSeed l o.seed)

/-- WSCAN. -/
def execWscan (h : Hdr) (d : Dst) (a : Src) (op : RedOp) (w excl : Bool) (s : State) : Res :=
  aluChecked h d w [a] (redGen op (if excl then 3 else 2)) s noBad (fun i r =>
    scanGo op w excl (redEnv i.w) (r.val a (widthOf w)) i.part.lanes none [] i.w)

/-! ## Match, elect and predicate logic (R128 to R130) -/

/-- MATCH. -/
def execMatchLane (h : Hdr) (d : Dst) (a : Src) (w : Bool) (s : State) : Res :=
  aluIssue h d false [a] noGen s (fun i r => eachLane i (fun l =>
    (Mask.ofFn (fun j => i.part.has j && r.val a (widthOf w) j == r.val a (widthOf w) l)).setWidth 64))

/-- The mask of the elected lane. -/
def electMask (i : Iss) : Mask := match i.part.lowest with | some l => Mask.one l | none => 0

/-- ELECT, with a register result where it has a lane destination. -/
def execElect (h : Hdr) (pd : BitVec 3) (d : Option Dst) (s : State) : Res :=
  match d with
  | none => predIssue h pd [] s (fun i _ => (electMask i, i.w))
  | some d => aluIssue h d false [] noGen s (fun i _ =>
      let r := onceDst i (BitVec.ofNat 64 i.lane)
      (r.1, r.2.writeP pd i.part (electMask i)))

/-- PLOP. -/
def execPlop (h : Hdr) (pd pa pb : BitVec 3) (lut : BitVec 4) (s : State) : Res :=
  predIssue h pd [] s (fun i _ =>
    (Mask.ofFn (fun l =>
      lut.getLsbD ((if (i.w.getP pa.toNat).has l then 2 else 0) + (if (i.w.getP pb.toNat).has l then 1 else 0))), i.w))

/-- S2P. -/
def execS2p (h : Hdr) (pd : BitVec 3) (a : Src) (mask : Bool) (s : State) : Res :=
  predIssue h pd [a] s (fun i r =>
    (Mask.ofFn (fun l => if mask then (r.w32 a l).getLsbD l else r.w32 a l != 0), i.w))

end Sys2Proof.Machine
end

