-- ==== Sys2Proof/Machine/Float.lean ====
section
/-! DEFINITION. Float.lean: the floating-point and conversion instructions (R165 to R185). -/

namespace Sys2Proof.Machine

open Sys2Proof

/-! ## Sources and rounding -/

/-- The value of a binary32 source after its modifiers and the input flush (R166, R168). -/
def Rd.f32 (r : Rd) (flush : Bool) (m : SMod) (x : Src) (l : Nat) : Num :=
  Fmt.f32.val (modBits .f32 flush m (r.w32 x l).toNat)

/-- Element i of a packed source, as bits after modifiers and flush (R177). -/
def Rd.half (r : Rd) (f : Fmt16) (flush : Bool) (m : SMod) (x : Src) (i l : Nat) : Nat :=
  modBits (fmt16 f) flush m ((r.val x (.packed f) l).toNat / 2 ^ (16 * i))

/-- Whether an instruction with the rounding modifiers of CF draws (R169). -/
def drawsF (m : FMod) (w : Wave) : Bool := (fenv m w).mode == .sr

/-- Flushing with the FZ bit of an instruction that does not round. -/
def flushEnv (ftz : Bool) (w : Wave) : FEnv := ⟨.rne, false, ftz || w.ftz⟩

/-- Two 16-bit results as one register; the low element draws first (R151). -/
def twoHalves (e : FEnv) (f : Fmt) (seed : Word) (x0 x1 : Num × BitVec 7) : LaneOut :=
  let a := finish f e seed x0
  let b := finish f e a.seed x1
  ⟨a.val + b.val * 65536, a.flags ||| b.flags, b.seed⟩

/-- A packed operation of two or three sources. -/
def packedOp (f : Fmt16) (e : FEnv) (seed : Word) (g : Nat → Num × BitVec 7) : LaneOut :=
  twoHalves e (fmt16 f) seed (g 0) (g 1)

/-! ## Binary32 arithmetic (R171 to R175) -/

/-- FADD. -/
def execFadd (h : Hdr) (d : Dst) (a b : Src) (ma mb : SMod) (m : FMod) (s : State) : Res :=
  floatIssue h d false [a, b] (drawsF m) s (fun r l z =>
    let e := fenv m r.w
    finish .f32 e z (addNum (e.mode == .rd) (r.f32 e.flush ma a l) (r.f32 e.flush mb b l)))

/-- FSUB. -/
def execFsub (h : Hdr) (d : Dst) (a b : Src) (ma mb : SMod) (m : FMod) (s : State) : Res :=
  floatIssue h d false [a, b] (drawsF m) s (fun r l z =>
    let e := fenv m r.w
    finish .f32 e z (addNum (e.mode == .rd) (r.f32 e.flush ma a l) (r.f32 e.flush mb b l).negate))

/-- FMUL. -/
def execFmul (h : Hdr) (d : Dst) (a b : Src) (ma mb : SMod) (m : FMod) (s : State) : Res :=
  floatIssue h d false [a, b] (drawsF m) s (fun r l z =>
    let e := fenv m r.w
    finish .f32 e z (mulNum (r.f32 e.flush ma a l) (r.f32 e.flush mb b l)))

/-- FFMA. -/
def execFfma (h : Hdr) (d : Dst) (a b c : Src) (ma mb mc : SMod) (m : FMod) (s : State) : Res :=
  floatIssue h d false [a, b, c] (drawsF m) s (fun r l z =>
    let e := fenv m r.w
    finish .f32 e z (fmaNum (e.mode == .rd) (r.f32 e.flush ma a l) (r.f32 e.flush mb b l) (r.f32 e.flush mc c l)))

/-- The lesser or greater of two binary32 sources. -/
def minMax32 (max : Bool) (a b : Src) (ma mb : SMod) (ftz : Bool) (r : Rd) (l : Nat) : DWord × BitVec 7 :=
  let e := flushEnv ftz r.w
  count (minMaxBits .f32 max (modBits .f32 e.flush ma (r.w32 a l).toNat) (modBits .f32 e.flush mb (r.w32 b l).toNat))

/-- FMIN. -/
def execFmin (h : Hdr) (d : Dst) (a b : Src) (ma mb : SMod) (ftz : Bool) (s : State) : Res :=
  intIssue h d false [a, b] s (minMax32 false a b ma mb ftz)

/-- FMAX. -/
def execFmax (h : Hdr) (d : Dst) (a b : Src) (ma mb : SMod) (ftz : Bool) (s : State) : Res :=
  intIssue h d false [a, b] s (minMax32 true a b ma mb ftz)

/-- FCMP. -/
def execFcmp (h : Hdr) (pd : BitVec 3) (a b : Src) (ma mb : SMod) (cmp : FCmp) (comb : Comb) (s : State) : Res :=
  predIssue h pd [a, b] s (fun i r =>
    let t := Mask.ofFn (fun l => i.part.has l && fcmpRel cmp (r.f32 i.w.ftz ma a l) (r.f32 i.w.ftz mb b l))
    (combine comb (i.w.getP pd.toNat) t, i.w))

/-- FCLASS. -/
def execFclass (h : Hdr) (d : Dst) (a : Src) (s : State) : Res :=
  intIssue h d false [a] s (fun r l => count (fclassBits (r.w32 a l).toNat))

/-- FRND. -/
def execFrnd (h : Hdr) (d : Dst) (a : Src) (ma : SMod) (rm : Option RMode) (ftz : Bool) (s : State) : Res :=
  floatIssue h d false [a] (fun w => rm.getD w.rm == .sr) s (fun r l z =>
    frndBits (rm.getD r.w.rm) z (modBits .f32 (ftz || r.w.ftz) ma (r.w32 a l).toNat))

/-- A power of two by which a binary32 value is scaled; beyond ±2,000 the result no longer changes. -/
def scaleBy (b : Word) : Int := max (-2000) (min 2000 b.toInt)

/-- FSCALE. -/
def execFscale (h : Hdr) (d : Dst) (a b : Src) (ma : SMod) (m : FMod) (s : State) : Res :=
  floatIssue h d false [a, b] (drawsF m) s (fun r l z =>
    let e := fenv m r.w
    finish .f32 e z ((r.f32 e.flush ma a l).scale (scaleBy (r.w32 b l)), 0))

/-- FDIV. -/
def execFdiv (h : Hdr) (d : Dst) (a b : Src) (ma mb : SMod) (m : FMod) (s : State) : Res :=
  floatIssue h d false [a, b] (drawsF m) s (fun r l z =>
    let e := fenv m r.w
    finish .f32 e z (divNum (r.f32 e.flush ma a l) (r.f32 e.flush mb b l)))

/-! ## Square root, reciprocals and transcendentals (R176) -/

/-- FSQRT. -/
def execFsqrt (h : Hdr) (d : Dst) (a : Src) (ma : SMod) (rm : Option RMode) (ftz : Bool) (s : State) : Res :=
  floatIssue h d false [a] (drawsF ⟨rm, false, ftz⟩) s (fun r l z =>
    let e := fenv ⟨rm, false, ftz⟩ r.w
    finish .f32 e z (sqrtNum (r.f32 e.flush ma a l)))

/-- A function of the table of R176. -/
def tableOp (f : Word → Bool → Num → Word × BitVec 7) (a : Src) (ma : SMod) (ftz : Bool) (r : Rd) (l : Nat) :
    DWord × BitVec 7 :=
  let fl := ftz || r.w.ftz
  let x := BitVec.ofNat 32 (modBits .f32 false ma (r.w32 a l).toNat)
  let o := f x fl (r.f32 fl ma a l)
  (o.1.setWidth 64, o.2)

/-- FRCP. -/
def execFrcp (h : Hdr) (d : Dst) (a : Src) (ma : SMod) (ftz : Bool) (s : State) : Res :=
  intIssue h d false [a] s (tableOp frcpBits a ma ftz)

/-- FRSQ. -/
def execFrsq (h : Hdr) (d : Dst) (a : Src) (ma : SMod) (ftz : Bool) (s : State) : Res :=
  intIssue h d false [a] s (tableOp frsqBits a ma ftz)

/-- FEXP2. -/
def execFexp2 (h : Hdr) (d : Dst) (a : Src) (ma : SMod) (ftz : Bool) (s : State) : Res :=
  intIssue h d false [a] s (tableOp fexp2Bits a ma ftz)

/-- FLOG2. -/
def execFlog2 (h : Hdr) (d : Dst) (a : Src) (ma : SMod) (ftz : Bool) (s : State) : Res :=
  intIssue h d false [a] s (tableOp flog2Bits a ma ftz)

/-- FSIN. -/
def execFsin (h : Hdr) (d : Dst) (a : Src) (ma : SMod) (ftz : Bool) (s : State) : Res :=
  intIssue h d false [a] s (tableOp fsinBits a ma ftz)

/-- FCOS. -/
def execFcos (h : Hdr) (d : Dst) (a : Src) (ma : SMod) (ftz : Bool) (s : State) : Res :=
  intIssue h d false [a] s (tableOp fcosBits a ma ftz)

/-- FTANH. -/
def execFtanh (h : Hdr) (d : Dst) (a : Src) (ma : SMod) (ftz : Bool) (s : State) : Res :=
  intIssue h d false [a] s (tableOp ftanhBits a ma ftz)

/-! ## Packed 16-bit arithmetic and dot products (R177, R178) -/

/-- HADD2. -/
def execHadd2 (h : Hdr) (d : Dst) (a b : Src) (ma mb : SMod) (m : FMod) (fmt : Fmt16) (s : State) : Res :=
  floatIssue h d false [a, b] (drawsF m) s (fun r l z =>
    let e := fenv m r.w
    packedOp fmt e z (fun i => addNum (e.mode == .rd) ((fmt16 fmt).val (r.half fmt e.flush ma a i l))
      ((fmt16 fmt).val (r.half fmt e.flush mb b i l))))

/-- HMUL2. -/
def execHmul2 (h : Hdr) (d : Dst) (a b : Src) (ma mb : SMod) (m : FMod) (fmt : Fmt16) (s : State) : Res :=
  floatIssue h d false [a, b] (drawsF m) s (fun r l z =>
    let e := fenv m r.w
    packedOp fmt e z (fun i => mulNum ((fmt16 fmt).val (r.half fmt e.flush ma a i l))
      ((fmt16 fmt).val (r.half fmt e.flush mb b i l))))

/-- HFMA2. -/
def execHfma2 (h : Hdr) (d : Dst) (a b c : Src) (ma mb mc : SMod) (m : FMod) (fmt : Fmt16) (s : State) : Res :=
  floatIssue h d false [a, b, c] (drawsF m) s (fun r l z =>
    let e := fenv m r.w
    packedOp fmt e z (fun i => fmaNum (e.mode == .rd) ((fmt16 fmt).val (r.half fmt e.flush ma a i l))
      ((fmt16 fmt).val (r.half fmt e.flush mb b i l)) ((fmt16 fmt).val (r.half fmt e.flush mc c i l))))

/-- The lesser or greater of each pair of elements. -/
def minMax16 (max : Bool) (a b : Src) (ma mb : SMod) (ftz : Bool) (fmt : Fmt16) (r : Rd) (l : Nat) :
    DWord × BitVec 7 :=
  let fl := (flushEnv ftz r.w).flush
  let x (i : Nat) : Nat := minMaxBits (fmt16 fmt) max (r.half fmt fl ma a i l) (r.half fmt fl mb b i l)
  count (x 0 + x 1 * 65536)

/-- HMIN2. -/
def execHmin2 (h : Hdr) (d : Dst) (a b : Src) (ma mb : SMod) (ftz : Bool) (fmt : Fmt16) (s : State) : Res :=
  intIssue h d false [a, b] s (minMax16 false a b ma mb ftz fmt)

/-- HMAX2. -/
def execHmax2 (h : Hdr) (d : Dst) (a b : Src) (ma mb : SMod) (ftz : Bool) (fmt : Fmt16) (s : State) : Res :=
  intIssue h d false [a, b] s (minMax16 true a b ma mb ftz fmt)

/-- HDOT2. -/
def execHdot2 (h : Hdr) (d : Dst) (a b c : Src) (ma mb mc : SMod) (m : FMod) (fmt : Fmt16) (s : State) : Res :=
  floatIssue h d false [a, b, c] (drawsF m) s (fun r l z =>
    let e := fenv m r.w
    let p (i : Nat) : Num × Num :=
      ((fmt16 fmt).val (r.half fmt e.flush ma a i l), (fmt16 fmt).val (r.half fmt e.flush mb b i l))
    finish .f32 e z (dotNum (e.mode == .rd) [p 0, p 1] (r.f32 e.flush mc c l)))

/-- The integer form of QDOT4: the exact sum wraps, or clamps with SAT. -/
def qdotInt (g : IFmt) (sat : Bool) (a b c : Word) : DWord × BitVec 7 :=
  let el (x : Word) (j : Nat) : Int := g.val (x.toNat / 2 ^ (8 * j) % 256)
  narrowInt 32 false sat ((List.range 4).foldl (fun (t : Int) j => t + el a j * el b j) c.toInt)

/-- QDOT4. -/
def execQdot4 (h : Hdr) (d : Dst) (a b c : Src) (fc : BitVec 6) (inf : Bool) (rm : Option RMode) (sat : Bool)
    (s : State) : Res :=
  match EFmt.ofCode fc.toNat inf with
  | some (.int g) => intIssue h d false [a, b, c] s (fun r l => qdotInt g sat (r.w32 a l) (r.w32 b l) (r.w32 c l))
  | some (.fl g) =>
    floatIssue h d false [a, b, c] (drawsF ⟨rm, sat, false⟩) s (fun r l z =>
      let e := fenv ⟨rm, sat, false⟩ r.w
      let p (j : Nat) : Num × Num :=
        (g.val ((r.w32 a l).toNat / 2 ^ (8 * j) % 256), g.val ((r.w32 b l).toNat / 2 ^ (8 * j) % 256))
      finish .f32 e z (dotNum (e.mode == .rd) [p 0, p 1, p 2, p 3] (r.f32 e.flush noMod c l)))
  | none => aluIssue h d false [a, b, c] noGen s (fun i _ => ([], i.w))

/-! ## Conversions (R179 to R181) -/

/-- The width of a conversion's source (R77). -/
def convWidth : FFmt → Width
  | .f32 => .w32
  | .f16 => .elem .f16
  | .bf16 => .elem .bf16

/-- The value of a conversion's source after the input flush. -/
def Rd.conv (r : Rd) (sf : FFmt) (flush : Bool) (a : Src) (l : Nat) : Num :=
  (ffmt sf).val (modBits (ffmt sf) flush noMod (r.val a (convWidth sf) l).toNat)

/-- CVT. With SF = DF the value passes unchanged, `.sat` included; it still takes its draw under SR (DESIGN CHOICE, log
entry 75). -/
def execCvt (h : Hdr) (d : Dst) (a : Src) (sf df : FFmt) (m : FMod) (s : State) : Res :=
  floatIssue h d false [a] (drawsF m) s (fun r l z =>
    let e := fenv m r.w
    finish (ffmt df) { e with sat := e.sat && sf != df } z (r.conv sf e.flush a l, 0))

/-- The integer format of a conversion type (R180). -/
def itype : IType → IFmt
  | .s32 => .full 32 true
  | .u32 => .full 32 false
  | .s64 => .full 64 true
  | .u64 => .full 64 false
  | .s16 => .full 16 true
  | .u16 => .full 16 false
  | .s8 => .full 8 true
  | .u8 => .full 8 false

/-- F2I. -/
def execF2i (h : Hdr) (d : Dst) (a : Src) (sf : FFmt) (it : IType) (rm : Option RMode) (ftz : Bool) (s : State) : Res :=
  floatIssue h d it.wide [a] (drawsF ⟨rm, false, ftz⟩) s (fun r l z =>
    let e := fenv ⟨rm, false, ftz⟩ r.w
    let g := drawFor e.mode z
    let o := (itype it).round e.mode g.1 (r.conv sf e.flush a l)
    ⟨BitVec.ofNat 64 (intCode (bitsW it.wide) o.1), o.2, g.2⟩)

/-- I2F. -/
def execI2f (h : Hdr) (d : Dst) (a : Src) (df : FFmt) (it : IType) (m : FMod) (s : State) : Res :=
  floatIssue h d false [a] (drawsF m) s (fun r l z =>
    let e := fenv m r.w
    let x := r.val a (widthOf it.wide) l
    finish (ffmt df) e z (.ofInt ((itype it).val (x.toNat % 2 ^ (itype it).bits)), 0))

/-- HPACK. -/
def execHpack (h : Hdr) (d : Dst) (a b : Src) (m : FMod) (fmt : Fmt16) (s : State) : Res :=
  floatIssue h d false [a, b] (drawsF m) s (fun r l z =>
    let e := fenv m r.w
    twoHalves e (fmt16 fmt) z (r.f32 e.flush noMod a l, 0) (r.f32 e.flush noMod b l, 0))

/-- HUNPK. -/
def execHunpk (h : Hdr) (d : Dst) (a : Src) (half ftz : Bool) (fmt : Fmt16) (s : State) : Res :=
  intIssue h d false [a] s (fun r l =>
    let x := (fmt16 fmt).val (r.half fmt (flushEnv ftz r.w).flush noMod a (if half then 1 else 0) l)
    count (Fmt.f32.round .rne false 0 x).1)

/-! ## Narrow conversions and scale derivation (R182 to R185) -/

/-- The format word of a narrow conversion (R182): the element format, the fields read, or FMTBAD. -/
def narrowWord (four : Bool) (w : Word) : Option (EFmt × FWord) :=
  let f := FWord.of w
  let c := f.afmt
  let legal := if four then (0x11 ≤ c && c ≤ 0x13) || c == 0x1A || c == 0x1B || c == 0x1D
    else (1 ≤ c && c ≤ 7) || (9 ≤ c && c ≤ 0xF) || c == 0x18 || c == 0x19 || c == 0x1C
  let rest := f.top == 0 && !f.acc && f.out == 0 && f.bsc == 0 && !f.binf && f.bfmt == 0
  if legal && rest && f.rnd ≤ 5 && f.asc ≤ 1 && fmtOk c f.ainf f.asc then (EFmt.ofCode c f.ainf).map (fun e => (e, f))
  else none

/-- The lanes whose format word is bad; a scalar form, which executes once, names the lowest participating lane. -/
def badWords (ok : Word → Bool) (fw : Src) (i : Iss) (r : Rd) : Mask :=
  Mask.ofFn (fun l => i.part.has l && (!r.scalar || i.part.lowest == some l) && !ok (r.w32 fw l))

/-- Whether some participating lane's format word rounds stochastically. -/
def narrowDraws (fw : Src) (i : Iss) (r : Rd) : Bool :=
  i.part.lanes.any (fun l => bitsOf (r.w32 fw l).toNat 20 3 == 5)

/-- One element packed (R183): its code, flags and the generator state after it. Each result element takes its draw, the zero
scale's too (R151). -/
def packOne (e : EFmt) (f : FWord) (sc : Nat) (z : Word) (x : Num) : Nat × BitVec 7 × Word :=
  let g := drawFor f.mode z
  if sc = 0xFF then (if x.isNan then e.nanCode else 0, 0, g.2)
  else
    let o := e.round f.mode f.sat g.1 (x.scale (127 - (sc : Int)))
    (o.1, o.2, g.2)

/-- The pack of two values into element positions 2n and 2n + 1 of `bits` bits (R183). -/
def packTwo (four : Bool) (n : Nat) (old : Word) (aw : DWord) (fw ev : Word) (z : Word) : LaneOut :=
  match narrowWord four fw with
  | none => ⟨old.setWidth 64, 0, z⟩
  | some (e, f) =>
    let bits := if four then 4 else 8
    let sc := if f.asc = 1 then ev.toNat % 256 else 127
    let a := packOne e f sc z (Fmt.f32.val (slice aw 0 32 : Word).toNat)
    let b := packOne e f sc a.2.2 (Fmt.f32.val (slice aw 32 32 : Word).toNat)
    let v := (a.1 + b.1 * 2 ^ bits) * 2 ^ (2 * bits * n)
    let m := (2 ^ (2 * bits) - 1) * 2 ^ (2 * bits * n)
    ⟨BitVec.ofNat 64 (Nat.lor (Nat.land old.toNat (2 ^ 32 - 1 - m)) v), a.2.1 ||| b.2.1, b.2.2⟩

/-- The register that a pack reads and writes. -/
def oldDst (d : Dst) (w : Wave) (l : Nat) : Word :=
  match d with
  | .v n => w.getV n.toNat l
  | .s n => w.getS n.toNat
  | _ => 0

/-- A pack instruction. -/
def packIssue (four : Bool) (h : Hdr) (d : Dst) (a fw e : Src) (n : Nat) (s : State) : Res :=
  aluChecked h d false [a, fw, e] (narrowDraws fw) s (badWords (fun x => (narrowWord four x).isSome) fw)
    (perLane d (fun r l z => packTwo four n (oldDst d r.w l) (r.val a .w64 l) (r.w32 fw l) (r.w32 e l) z))

/-- QPACK. -/
def execQpack (h : Hdr) (d : Dst) (a fw e : Src) (n : Bool) (s : State) : Res :=
  packIssue false h d a fw e (if n then 1 else 0) s

/-- Q4PACK. -/
def execQ4pack (h : Hdr) (d : Dst) (a fw e : Src) (n : BitVec 2) (s : State) : Res :=
  packIssue true h d a fw e n.toNat s

/-- The unpack of two elements (R184). -/
def unpackTwo (four : Bool) (n : Nat) (a fw ev : Word) (z : Word) : LaneOut :=
  match narrowWord four fw with
  | none => ⟨0, 0, z⟩
  | some (e, f) =>
    let bits := if four then 4 else 8
    let sc : Option Int := if f.asc = 1 then e8 (ev.toNat % 256) else some 0
    let x (j : Nat) : Num := scaled (e.val (a.toNat / 2 ^ (bits * (2 * n + j)) % 2 ^ bits)) sc 0
    let env : FEnv := ⟨f.mode, f.sat, false⟩
    let p := finish .f32 env z (x 0, 0)
    let q := finish .f32 env p.seed (x 1, 0)
    ⟨p.val + q.val * 2 ^ 32, p.flags ||| q.flags, q.seed⟩

/-- An unpack instruction. -/
def unpackIssue (four : Bool) (h : Hdr) (d : Dst) (a fw e : Src) (n : Nat) (s : State) : Res :=
  aluChecked h d true [a, fw, e] (narrowDraws fw) s (badWords (fun x => (narrowWord four x).isSome) fw)
    (perLane d (fun r l z => unpackTwo four n (r.w32 a l) (r.w32 fw l) (r.w32 e l) z))

/-- QUNPK. -/
def execQunpk (h : Hdr) (d : Dst) (a fw e : Src) (n : Bool) (s : State) : Res :=
  unpackIssue false h d a fw e (if n then 1 else 0) s

/-- Q4UNPK. -/
def execQ4unpk (h : Hdr) (d : Dst) (a fw e : Src) (n : BitVec 2) (s : State) : Res :=
  unpackIssue true h d a fw e n.toNat s

/-- The format of a BSCALE word (R182). -/
def bscaleWord (w : Word) : Option Fmt :=
  let f := FWord.of w
  let c := f.afmt
  let legal := (1 ≤ c && c ≤ 7) || (9 ≤ c && c ≤ 0xF) || (0x11 ≤ c && c ≤ 0x13)
  let rest := f.top == 0 && !f.acc && !f.sat && f.rnd == 0 && f.out == 0 && f.bsc == 0 && f.asc == 0 && !f.binf &&
    f.bfmt == 0
  if legal && rest then match EFmt.ofCode c f.ainf with
    | some (.fl g) => some g
    | _ => none
  else none

/-- The scale byte of R185. -/
def bscaleBits (g : Fmt) (fit : Bool) (a : Word) : DWord × BitVec 7 :=
  match Fmt.f32.val (a.toNat % 2 ^ 31), g.maxNum with
  | .nan, _ => count 127 |>.map id (fun _ => flagNV)
  | .inf _, _ => (254, flagSOR)
  | .fin _ m e, .fin _ k f =>
    if m = 0 || tiny a then count 127
    else
      let p := log2Floor m e - log2Floor k f
      let c := (Num.fin false m e).cmp (.fin false k (f + p)) ≤ 0
      let r := (if fit && !c then p + 1 else p) + 127
      if r < 0 then (0, flagSOR) else if r > 254 then (254, flagSOR) else count r.toNat
  | _, _ => count 127

/-- BSCALE. -/
def execBscale (h : Hdr) (d : Dst) (a fw : Src) (fit : Bool) (s : State) : Res :=
  aluChecked h d false [a, fw] (fun _ _ => false) s (badWords (fun x => (bscaleWord x).isSome) fw)
    (perLaneInt d (fun r l => match bscaleWord (r.w32 fw l) with
      | some g => bscaleBits g fit (r.w32 a l)
      | none => count 0))

end Sys2Proof.Machine
end

