-- ==== Sys2Proof/Machine/Kill.lean ====
section
/-! DEFINITION. Kill.lean: a kill from FENCE-IN to REINCARNATE (R459, R478 to R482), with what it retires of the fabric
endpoint (R354 to R356). -/

namespace Sys2Proof.Machine

open Sys2Proof

/-! ## FENCE-IN and STOP (R478, R479, R481) -/

/-- Whether a card is a running one of a virtual device. -/
def State.runsFor (s : State) (vd : Nat) (r : CardRef) : Bool :=
  match s.card? r with
  | some (g, c) => g.vd == vd && c.st == .running
  | none => false

/-- The engines that run a card of a virtual device stop it and drain: nothing else starts on them meanwhile. An ISMV drains
where it has a running card of the virtual device in a queue. -/
def State.stopEngines (s : State) (vd : Nat) : Tab EngineSt :=
  let stop (x : EngineSt) : EngineSt := { x with queue := [], stopAt := some s.clock }
  s.engines.filterMap (fun e =>
    match e.2.run with
    | some r => (match Tab.get? s.wgs r.card.wg with
      | some g => if g.vd = vd then some (e.1, stop e.2) else none
      | none => none)
    | none => none) ++
  (List.range 8).filterMap (fun st =>
    if s.ismvq.any (fun e => e.1 / 160 == st && e.2.any (s.runsFor vd)) then
      some (Engine.key (.ismv st), stop (s.engine (.ismv st)))
    else none)

/-- A running card leaves its engine at once; the engine drains. -/
def State.drainEngines (s : State) (old : Tab EngineSt) : State :=
  { s with engines := old.foldl (fun t e =>
      let x := Tab.getD t e.1 EngineSt.idle
      Tab.put t e.1 { x with run := e.2.run, stopAt := e.2.stopAt, last := e.2.last }) s.engines }

/-- A command that a kill completes: VD_KILL, VD_RESET, VD_DESTROY, and VD_MIG_COMMIT as a destroy (R488). -/
def killCmd (c : BitVec 512) : Bool := (8 ≤ cmdOpc c && cmdOpc c ≤ 10) || cmdOpc c == 0x13

/-- Every one of the 64 contexts of a killed virtual device: its work discarded, its queues halted, CTXFAULT and CONSUMED set. -/
def State.stopContexts (s : State) (vd : Nat) : State :=
  (List.range 64).foldl (fun s c => ((s.discardContext vd c).haltQueues vd c .killed).putCtx vd c (fun x => { x with
    used := true, running := false, faulted := true, saved := .no, stopping := false
    faults := x.faults.filter (fun f => f.src == 7), refused := [] })) s

/-- Every bank that a virtual device holds is saved (R496). -/
def State.saveHeld (s : State) (vd : Nat) : State :=
  let s := (s.sps.filter (fun e => e.2.holder == vd)).foldl (fun s e => s.saveBanks vd e.1) s
  match s.setOf vd with
  | some t => s.saveSet vd t
  | none => s

/-- FENCE-IN and STOP: the TDI goes to ERROR (R509), kicks are ignored from now on, its banks are saved, and all work in flight is discarded (R481, R496). -/
def State.startKill (s : State) (vd : Nat) (why : KillFor) : State :=
  let old := s.stopEngines vd
  let s := s.modVd vd (fun v => { v with st := .killing, killFor := some why, dlog := false, tdi := .error })
  let s := s.saveHeld vd
  let s := (s.stopContexts vd).drainEngines old
  let s := s.loseGroups vd
  let s : State := { s with fgs := s.fgs.map (fun (e : Nat × FGroup) => if e.1 / 64 = vd then (e.1, { e.2 with held := [] }) else e) }
  (s.runningCmds vd).foldl (fun s c => if killCmd c then s else s.complete c stKilled 0) s

/-- Whether a virtual device has work: a resident workgroup, a queued record or a card that is not final (R482). -/
def State.hasWork (s : State) (vd : Nat) : Bool :=
  s.wgs.any (fun e => e.2.vd == vd && !e.2.tracked) ||
    s.queues.any (fun e => e.1 / 4096 == vd && e.2.live) || s.openCards vd

/-- WATCHDOG_EXPIRE: the VCC kills a virtual device without progress for its period. -/
def execWatchdogExpire (vd : Nat) (s : State) : Res :=
  match Tab.get? s.vds vd with
  | none => .next s
  | some v =>
    if v.st = .running ∧ v.wdog ≠ 0 ∧ s.hasWork vd = true ∧ s.clock ≥ v.progress + 1300000 * v.wdog then
      .next (s.startKill vd .watchdog)
    else .next s

/-! ## RELEASE (R355, R479) -/

/-- Lines leave the LLC and every L1, dirty bytes lost: those whose key and virtual device fulfil a condition. A line in an L1
goes whether or not the LLC still has it. -/
def State.dropLines (s : State) (f : Nat → Nat → Bool) : State :=
  let s := (s.llc.filter (fun e => f e.1 e.2.vd)).foldl (fun s e => (s.discardLine e.1).dropL1 e.1) s
  { s with l1 := s.l1.filter (fun e => !f (e.1 % 2 ^ 64) e.2.vd) }

/-- RETIRE goes to every member of the partition, whose RACKs are awaited; what else of the virtual device waits to be sent is
discarded. -/
def State.sendRetires (s : State) (vd : Nat) : State :=
  match Tab.get? s.vds vd with
  | none => s
  | some v =>
    let ms := if v.fpart = 0 then [] else v.pmap.filter (fun e => e.2.v && e.1 != s.devid)
    let s := { s with
      out := s.out.filter (fun p => !(p.sdev.toNat == s.devid && p.svd.toNat == vd))
      unsent := s.unsent.filter (fun m => m.vd != vd) }
    let s := ms.foldl (fun s e =>
      s.sendOrWait ⟨vd, e.1, e.2.pvd.toNat, e.2.inc.toNat, opRetire, 6, 0, 0, []⟩) s
    s.modVd vd (fun v => { v with retired := true, racks := ms.map Prod.fst, rackAt := s.clock })

/-- What waits at home for lines that are given up is answered with a NACK, and their directory is empty. -/
def State.closeHome (s : State) (f : Nat → Bool) (why : Nat) : State :=
  let mine := s.dir.filter (fun e => f (e.1 / 1024))
  let asked := mine.flatMap (fun e => ((e.2.pending.map Prod.fst).toList ++ e.2.waiting).filter (fun p => p.op.toNat != 15))
  let s := asked.foldl (fun s p => s.nack p why) s
  { s with dir := s.dir.filter (fun e => !mine.any (fun x => x.1 == e.1)) }

/-- RELEASE: sub-partitions, groups' positions, handles, translations and lines of the virtual device are freed. -/
def State.release (s : State) (vd : Nat) : State :=
  let s := s.sendRetires vd
  let s := s.closeHome (fun f => fotOwner (s.fotOf f) == vd) nackGone
  let s := s.dropReqs (fun r => r.vd == vd)
  let s : State := { s with
    leaving := s.leaving.filter (fun l => l.vd != vd)
    halo := s.halo.filter (fun p => !((p.sdev.toNat == s.devid && p.svd.toNat == vd) ||
      (p.tdev.toNat == s.devid && p.tvd.toNat == vd)))
    tlb := s.tlb.filter (fun e => e.vd != vd)
    lcus := s.lcus.filter (fun e => !(e.2.owner == vd && 160 ≤ e.1))
    sps := s.sps.map (fun (e : Nat × SubPart) => if e.2.next = some vd then (e.1, { e.2 with next := some 0 }) else e)
    cgs := s.cgs.map (fun (e : Nat × CGroup) => if e.2.owner = vd then (e.1, { e.2 with joined := [] }) else e) }
  let s := s.dropLines (fun _ d => d == vd)
  let s := (s.sps.filter (fun e => e.2.holder == vd)).foldl (fun s e => s.switchSp e.1 (e.2.next.getD 0)) s
  (s.modVd vd (fun v => { v with handles := [] })).turnSets

/-! ## SCRUB (R476) -/

/-- Every owned frame becomes pending-zero; its lines are invalidated. -/
def State.markFrames (s : State) (fs : List Nat) (owner : BitVec 9) : State :=
  let s := s.dropLines (fun k _ => k / 2 ^ 60 == 1 && fs.contains (k % 2 ^ 60 / 1024))
  fs.foldl (fun s f => s.setFot f ((s.fotOf f &&& 0x70000000) ||| 0x80000000 ||| owner.setWidth 32)) s

/-! ## The end of a kill (R356, R459, R481) -/

/-- Frames taken from their owner (R475): lines discarded, translations removed, owner none. -/
def State.revokeFrames (s : State) (fs : List Nat) : State :=
  let s := (s.markFrames fs 0).closeHome (fun f => fs.contains f) nackOwner
  { s with tlb := s.tlb.filter (fun e => !(e.kind == 1 && fs.any (fun f => decide (e.frame < (f + 1) * 65536 ∧ f * 65536 < e.frame + e.size)))) }

/-- Everything that VD_DESTROY frees: frames, groups, remap entries, keys, contexts, queues; the entry is zero except INC. -/
def State.freeVd (s : State) (vd : Nat) : State :=
  match Tab.get? s.vds vd with
  | none => s
  | some v =>
    let s := s.revokeFrames (s.framesOf vd)
    let s := (s.cgs.filter (fun e => e.2.owner == vd)).foldl (fun s e => s.destroyGroup e.1) s
    let s := { s with
      fgs := s.fgs.filter (fun e => e.1 / 64 != vd)
      remap := s.remap.filter (fun e => e.1 / 512 != vd)
      keys := s.keys.filter (fun e => e.1 == 0 || (e.1 != v.mkey && e.1 != v.fkey && e.1 != v.fkeyn))
      ctxs := s.ctxs.filter (fun e => e.1 / 64 != vd)
      queues := s.queues.filter (fun e => e.1 / 4096 != vd)
      bounce := s.bounce.filter (fun b => b.vd != vd)
      images := s.images.filter (fun i => i.vd != vd)
      cgs := s.cgs.filter (fun e => e.2.owner != vd)
      slots := s.slots.filter (fun e => e.1 / 8 != vd) }
    { s with vds := Tab.put s.vds vd { VDev.free with inc := v.inc, tdi := v.tdi } }

/-- VD_RESET on top of a kill: queues DISABLED with HEAD and LAST 0, their configuration kept; fault queues empty, no pending
interrupt, CSAVE zeroed. -/
def State.resetVd (s : State) (vd : Nat) : State :=
  let s : State := { s with
    queues := s.queues.map (fun (e : Nat × LaunchQ) => if e.1 / 4096 = vd then
      (e.1, { e.2 with on := false, active := false, halt := .none, head := 0, tail := 0, last := 0, page := none }) else e)
    ctxs := s.ctxs.map (fun (e : Nat × Context) => if e.1 / 64 = vd then
      (e.1, { e.2 with faults := [], fqHead := 0, fqTail := 0, fqSeq := 0 }) else e)
    remap := s.remap.map (fun (e : Nat × BitVec 32) => if e.1 / 512 = vd then (e.1, e.2 &&& 0xDFFFFFFF#32) else e) }
  s.csaveWrite vd 0 (List.replicate 147456 0)

/-- The cause that VDSTAT shows (R484). -/
def KillFor.cause : KillFor → Option Nat
  | .watchdog => some 1
  | .kill => some 2
  | .reset => some 3
  | .destroy => none

/-- The commands that a kill completes get its new incarnation. -/
def State.endKill (s : State) (vd inc : Nat) : State :=
  (s.runningCmds vd).foldl (fun s c => if killCmd c then s.complete c stOk (if cmdOpc c = 0x13 then 0 else inc) else s) s

/-- KILL_DRAIN_COMPLETE: a killing virtual device goes from its state to the next: STOP ends when nothing of it runs, then
DRAIN and RELEASE, then SCRUB where it is due. -/
def execKillDrainComplete (vd : Nat) (s : State) : Res :=
  match Tab.get? s.vds vd with
  | none => .next s
  | some v =>
    let due := v.scrubk || v.killFor == some .destroy
    match v.st with
    | .killing => .next (s.modVd vd (fun v => { v with st := .draining }))
    | .draining =>
      let idle (r : Run) : Bool := (Tab.get? s.wgs r.card.wg).isSome
      let s : State := { s with engines := (s.engines.map (fun (e : Nat × EngineSt) => (e.1, { e.2 with
        run := if e.2.stopAt.isSome then e.2.run.filter idle else e.2.run
        stopAt := none }))).filter (fun e => e.2 != EngineSt.idle) }
      .next ((s.release vd).modVd vd (fun v => { v with st := if due then .scrubbing else .resetting }))
    | .scrubbing =>
      .next ((s.markFrames (s.framesOf vd) (BitVec.ofNat 9 vd)).modVd vd (fun v => { v with st := .resetting }))
    | _ => .next s

/-- The VCC installs a new partition key before an incarnation repeats under one key (R356): the key is a free value, and the one
key of every stream from then on. -/
def State.renewKey (s : State) (vd : Nat) : State :=
  match Tab.get? s.vds vd with
  | none => s
  | some v =>
    if v.incs < 65536 ∨ v.fkey = 0 then s
    else
      let k : BitVec 256 := s.fresh 252 ++ s.fresh 253 ++ s.fresh 254 ++ s.fresh 255
      let t := { s with keys := Tab.put (s.keys.filter (fun e => e.1 == 0 || e.1 != v.fkeyn)) v.fkey k }
      t.modVd vd (fun v => { v with incs := 0, fkeyn := 0 })

/-- REINCARNATION_COMPLETE: every member has answered, or counts as unreachable: INC rises, and the virtual device is READY,
or FREE after a destroy. -/
def execReincarnationComplete (vd : Nat) (s : State) : Res :=
  match Tab.get? s.vds vd with
  | none => .next s
  | some v =>
    if v.st ≠ .resetting ∨ v.racks ≠ [] then .next s
    else
      let inc := v.inc + 1
      let s := (s.modVd vd (fun v => { v with inc := inc, streams := [], incs := v.incs + 1 })).renewKey vd
      match v.killFor with
      | some .destroy => .next ((s.freeVd vd).endKill vd inc.toNat)
      | w =>
        let why := w.getD .kill
        let s := if why = .reset then s.resetVd vd else s
        let s := s.modVd vd (fun v => { v with
          st := .ready, killFor := none, retired := false, cause := (KillFor.cause why).getD v.cause, wasReady := false })
        .next ((s.irq vd 5 0).endKill vd inc.toNat)

end Sys2Proof.Machine
end

