-- ==== Sys2Proof/Machine/Vcc.lean ====
section
/-! DEFINITION. Vcc.lean: the commands that make, configure, start and stop virtual devices (R458, R459, R464 to R466, R475,
R477, R483, R493). -/

namespace Sys2Proof.Machine

open Sys2Proof

/-! ## The parameter block (R458, R464) -/

/-- The bits that the parameter block names. -/
def pbBits : List (Nat × Nat) := [(128, 146), (288, 16), (320, 64)]

/-- A value that selects a default. -/
def orDefault (x none_ dflt : Nat) : Nat := if x = none_ then dflt else x

/-- The fields of a parameter block within the ranges of R458, put in place of a virtual device's. -/
def VDev.withParams (v : VDev) (c : BitVec 512) : Option VDev :=
  let f := cmdField c
  let maxscope := f 17 1
  let minsp := f 18 2
  let maxsp := f 20 2
  let slice := orDefault (f 22 2) 0 10
  let quota := f 24 4
  let wdog := orDefault (f 28 2) 0xFFFF 50
  let pto := orDefault (f 30 2) 0 20
  let pcap := f 32 2
  let csave := f 40 8
  if 1 ≤ f 16 1 ∧ maxscope ≤ 10 ∧ 1 ≤ maxsp ∧ maxsp ≤ 640 ∧ minsp ≤ maxsp ∧ slice ≤ 1000 ∧ quota < 2 ^ 25 ∧ wdog ≤ 10000 ∧
      pto ≤ 1000 ∧ pcap < 4096 ∧ csave % 64 = 0 then
    some { v with
      weight := f 16 1, maxscope := BitVec.ofNat 4 maxscope, minsp := minsp, maxsp := maxsp, slice := slice, quota := quota
      wdog := wdog, pto := pto, pcap := pcap, wmode := cmdBits c 272 1 == 1, scrubk := cmdBits c 273 1 == 1
      fpart := f 36 2, csave := csave }
  else none

/-- The sub-partitions of the populated cores. -/
def State.populatedSps (s : State) : Nat := 4 * ((List.range 160).filter s.populated).length

/-- The MINSP of the RUNNING virtual devices but one. -/
def State.minspOthers (s : State) (vd : Nat) : Nat :=
  (s.vds.filter (fun e => e.1 != vd && e.2.st == .running)).foldl (fun n e => n + e.2.minsp) 0

/-- The receive slots reserved by a list of reservations, and its relay slots. -/
def reservedSum (l : List Nat) : Nat := (l.take 4).foldl (· + ·) 0

/-- Whether the reservations of every virtual device fit half of each buffer (R339). -/
def State.buffersFit (s : State) : Bool :=
  let live := s.vds.filter (fun e => e.2.st != .free)
  decide (live.foldl (fun n e => n + reservedSum e.2.resv) 0 ≤ 32768) &&
    decide (live.foldl (fun n e => n + e.2.resv.getD 4 32) 0 + s.fgs.foldl (fun n e => n + e.2.halo) 0 ≤ 65536)

/-- VD_CREATE. R464 names it beside VD_CONFIG for NOSPACE: its MINSP is held against the populated sub-partitions as if the new
virtual device were RUNNING (DEDUCED, log entry 117). -/
def execVdCreate (c : BitVec 512) (s : State) : Res :=
  let vd := cmdVd c
  let old := Tab.getD s.vds vd VDev.free
  if vd = 0 then .next (s.complete c stBadVd 0)
  else if !zeroOk c pbBits then .next (s.complete c stBadArg 0)
  else if old.st ≠ .free then .next (s.complete c stBadState 0)
  else match VDev.withParams { VDev.free with st := .creating, inc := old.inc, tdi := old.tdi } c with
    | none => .next (s.complete c stBadArg 0)
    | some v =>
      let t : State := { s with vds := Tab.put s.vds vd v }
      if s.minspOthers vd + v.minsp > s.populatedSps ∨ t.buffersFit = false then .next (s.complete c stNoSpace 0)
      else .next ((t.csaveWrite vd 0 (List.replicate 147456 0)).complete c stOk v.inc.toNat)

/-! ## VD_CONFIG (R465) -/

/-- The bits that VD_CONFIG names in front of its data. -/
def cfgBits : List (Nat × Nat) := [(64, 24)]

/-- What every sub-command of VD_CONFIG shares. -/
def cfgRule (l : List (Nat × Nat)) : CmdRule := ⟨cfgBits ++ l, false, true, fun v => v.st != .free⟩

/-- VD_CONFIG sub-command 0: parameters. A watchdog that was disabled starts with its period in full. -/
def execVdConfigParams (c : BitVec 512) (s : State) : Res :=
  s.command c (cfgRule pbBits) (fun vd v s =>
    match v.withParams c with
    | none => refuse stBadArg s
    | some v' =>
      if v'.quota < (s.framesOf vd).length then refuse stQuota s
      else if v.st = .running ∧ s.minspOthers vd + v'.minsp > s.populatedSps then refuse stNoSpace s
      else .done stOk 0 (s.modVd vd (fun _ => if v.wdog = 0 then { v' with progress := s.clock } else v')))

/-- Whether a context runs: started, being stopped, or with work on the device. -/
def State.ctxRuns (s : State) (vd ctx : Nat) : Bool :=
  (match s.ctx? vd ctx with
    | some c => c.running || c.stopping
    | none => false) || !(s.contextWgs vd ctx).isEmpty

/-- The context that a command names. -/
def cmdCtx (c : BitVec 512) : Nat := cmdField c 9 1

/-- A power of two between two bounds. -/
def pow2In (x lo hi : Nat) : Bool := decide (lo ≤ x) && decide (x ≤ hi) && x == 2 ^ Nat.log2 x

/-- VD_CONFIG sub-command 1: a context. A fault queue in a new place begins empty. -/
def execVdConfigContext (c : BitVec 512) (s : State) : Res :=
  s.command c (cfgRule [(128, 32), (160, 11), (192, 160)]) (fun vd _ s =>
    let ctx := cmdCtx c
    let pasid := cmdField c 16 4
    let weight := cmdField c 20 1
    let fqb := cmdField c 32 8
    let fqn := cmdField c 40 4
    if 64 ≤ ctx ∨ 2 ^ 20 ≤ pasid ∨ weight < 1 ∨ 15 < weight ∨ !pow2In fqn 16 65536 then refuse stBadArg s
    else if s.ctxRuns vd ctx then refuse stBadState s
    else .done stOk 0 (s.putCtx vd ctx (fun x =>
      let same := x.fqBase = fqb ∧ x.fqSize = fqn
      { x with
        pasid := pasid, weight := weight, prot := cmdBits c 168 1 == 1, hlock := cmdBits c 169 1 == 1
        enable := cmdBits c 170 1 == 1, save := cmdField c 24 8, fqBase := fqb, fqSize := fqn
        fqHead := if same then x.fqHead else 0, fqTail := if same then x.fqTail else 0
        fqSeq := if same then x.fqSeq else 0 })))

/-- VD_CONFIG sub-command 2: a context's format descriptor. -/
def execVdConfigFormat (c : BitVec 512) (s : State) : Res :=
  s.command c (cfgRule [(128, 128)]) (fun vd _ s =>
    let ctx := cmdCtx c
    if 64 ≤ ctx then refuse stBadArg s
    else if s.ctxRuns vd ctx then refuse stBadState s
    else .done stOk 0 (s.putCtx vd ctx (fun x => { x with format := BitVec.ofNat 128 (cmdField c 16 16) })))

/-- A launch queue that nothing has configured: DISABLED. -/
def LaunchQ.fresh : LaunchQ where
  base := 0
  size := 0
  auth := false
  enable := false
  on := false
  active := false
  halt := .none
  head := 0
  tail := 0
  rej := 0
  last := 0
  key := none
  since := 0
  checked := false
  page := none

/-- A queue that may go on: its head record is read again. -/
def LaunchQ.resume (q : LaunchQ) (clock : Nat) : LaunchQ :=
  { q with halt := .none, active := q.head != q.tail, checked := false, page := none, since := clock }

/-- A queue changed, made where it was not. -/
def State.putQueue (s : State) (k : Nat) (f : LaunchQ → LaunchQ) : State :=
  { s with queues := Tab.put s.queues k (f ((Tab.get? s.queues k).getD LaunchQ.fresh)) }

/-- A queue enabled: its halt is cleared, and its head record is read again. -/
def LaunchQ.turnOn (q : LaunchQ) (clock : Nat) : LaunchQ := { q.resume clock with on := true }

/-- VD_CONFIG sub-command 3: a launch queue. ENABLE on a halted queue clears the halt. -/
def execVdConfigQueue (c : BitVec 512) (s : State) : Res :=
  s.command c (cfgRule [(128, 96), (224, 2)]) (fun vd _ s =>
    let ctx := cmdCtx c
    let q := cmdField c 10 1
    let base := cmdField c 16 8
    let n := cmdField c 24 4
    if 64 ≤ ctx ∨ 64 ≤ q ∨ base % 64 ≠ 0 ∨ !pow2In n 2 4096 then refuse stBadArg s
    else
      let en := cmdBits c 225 1 == 1
      .done stOk 0 (s.putQueue (queueKey vd ctx q) (fun x =>
        let x := { x with base := base, size := n, auth := cmdBits c 224 1 == 1, enable := en }
        if en then x.turnOn s.clock else { x with on := false, active := false, page := none })))

/-- The info string `kwrap`. -/
def kwrapInfo : List Byte := [0x6B, 0x77, 0x72, 0x61, 0x70]

/-- The key in a command, unwrapped under the session key, which is derived from the session's exported master secret: NOKEY
without a session (R508), BADKEY where it fails (R464). -/
def State.unwrapped (s : State) (c : BitVec 512) : Nat ⊕ BitVec 256 :=
  match s.boot.session with
  | none => .inl stNoKey
  | some x =>
    match Config.unwrap (Config.hkdf x kwrapInfo) (cmdBytes c 16 40) with
    | none => .inl stBadKey
    | some k => .inr k

/-- VD_CONFIG sub-command 4: the key of an authenticated queue. It clears a halt of reasons 1 to 4. -/
def execVdConfigQueueKey (c : BitVec 512) (s : State) : Res :=
  s.command c (cfgRule [(128, 320)]) (fun vd _ s =>
    let ctx := cmdCtx c
    let q := cmdField c 10 1
    if 64 ≤ ctx ∨ 64 ≤ q then refuse stBadArg s
    else match s.unwrapped c with
      | .inl st => refuse st s
      | .inr k => .done stOk 0 (s.putQueue (queueKey vd ctx q) (fun x =>
          let x := { x with key := some k, last := 0 }
          match x.halt with
          | .recbad | .seqerr | .tagerr | .seqend => if x.on then x.resume s.clock else x
          | _ => x)))

/-- VD_CONFIG sub-command 5: a partition-map entry, set with V = 0 or removed. -/
def execVdConfigPartition (c : BitVec 512) (s : State) : Res :=
  s.command c (cfgRule [(128, 33)]) (fun vd _ s =>
    let dev := cmdField c 16 1
    let pvd := cmdField c 18 2
    if pvd > 511 ∨ cmdField c 17 1 ≠ 0 then refuse stBadArg s
    else if cmdBits c 160 1 = 1 then .done stOk 0 (s.modVd vd (fun v => { v with
      pmap := Tab.del v.pmap dev, members := v.members.erase dev }))
    else .done stOk 0 (s.modVd vd (fun v => { v with
      pmap := Tab.put v.pmap dev ⟨false, BitVec.ofNat 9 pvd, 0⟩
      members := if v.members.contains dev then v.members else v.members ++ [dev] })))

/-- The slots of the shared pool in use by a virtual device. -/
def State.pooled (s : State) (vd : Nat) (v : VDev) : Nat :=
  (List.range 8).foldl (fun n k => n + (Tab.getD s.slots (vd * 8 + k) 0 - v.reserved k)) 0

/-- VD_CONFIG sub-command 6: fabric reservations. -/
def execVdConfigFabricRes (c : BitVec 512) (s : State) : Res :=
  s.command c (cfgRule [(128, 80)]) (fun vd v s =>
    let l := [cmdField c 16 2, cmdField c 18 2, cmdField c 20 2, cmdField c 22 2, cmdField c 24 2]
    if l.any (fun x => decide (1024 < x)) then refuse stBadArg s
    else
      let v' := { v with resv := l }
      let t := s.modVd vd (fun _ => v')
      if !t.buffersFit then refuse stNoSpace s
      else .done stOk 0 { t with pool := t.pool - s.pooled vd v + s.pooled vd v' })

/-- How many of n frames from f fulfil a condition on their entry. -/
def State.framesIn (s : State) (f n : Nat) (p : BitVec 32 → Bool) : Nat :=
  (s.fot.filter (fun e => decide (f ≤ e.1) && decide (e.1 < f + n) && p e.2)).length

/-- VD_CONFIG sub-command 7: a fabric window. -/
def execVdConfigWindow (c : BitVec 512) (s : State) : Res :=
  s.command c (cfgRule [(128, 16), (192, 128)]) (fun vd _ s =>
    let w := cmdField c 16 2
    let e := BitVec.ofNat 128 (cmdField c 24 16)
    let base := (slice e 80 48).toNat
    let n := (slice e 56 24).toNat
    let on := e.getLsbD 0
    if 1024 ≤ w ∨ slice e 5 51 ≠ 0 ∨ (on = true ∧ n = 0) then refuse stBadArg s
    else if on && s.framesIn base n (fun x => fotOwner x == vd) != n then refuse stOwned s
    else .done stOk 0 (s.modVd vd (fun v => { v with windows := Tab.put v.windows w e })))

/-! ## Memory and keys (R475, R477) -/

/-- Whether n frames from f lie in device memory that is there (R206, R513). -/
def State.framesPresent (s : State) (f n : Nat) : Bool :=
  decide (f + n ≤ 0x1400000) && (s.boot.lp || decide (f + n ≤ 0x800000)) &&
    (List.range 8).all (fun k => s.boot.stk.getLsbD k || decide (f + n ≤ k * 0x100000) || decide ((k + 1) * 0x100000 ≤ f))

/-- Whether n frames from f are there outside every bounce buffer (R475). -/
def State.framesThere (s : State) (f n : Nat) : Bool :=
  s.framesPresent f n &&
    (List.range 2).all (fun d => decide (f + n ≤ Config.bounceFrame d) || decide (Config.bounceFrame d + 1024 ≤ f))

/-- What the memory grants share. -/
def memRule : CmdRule :=
  ⟨[(128, 96)], true, true, fun v => v.st == .creating || v.st == .ready || v.st == .running⟩

/-- VD_GRANT_MEM: unowned frames pass to the virtual device, pending-zero. -/
def execVdGrantMem (c : BitVec 512) (s : State) : Res :=
  s.command c memRule (fun vd v s =>
    let f := cmdField c 16 8
    let n := cmdField c 24 4
    let used := (s.framesOf vd).length
    if n < 1 ∨ 2 ^ 24 < n then refuse stBadArg s
    else if !s.framesThere f n || s.framesIn f n (fun e => fotOwner e != 0 || e.getLsbD 28) != 0 then refuse stOwned s
    else if v.quota < used + n then refuse stQuota s
    else .done stOk (used + n) ((List.range n).foldl (fun (s : State) i =>
      s.setFot (f + i) ((s.fotOf (f + i) &&& 0x60000000) ||| 0x80000000 ||| BitVec.ofNat 32 vd)) s))

/-- VD_REVOKE_MEM: frames of the virtual device taken back. -/
def execVdRevokeMem (c : BitVec 512) (s : State) : Res :=
  s.command c memRule (fun vd _ s =>
    let f := cmdField c 16 8
    let n := cmdField c 24 4
    if n < 1 ∨ 2 ^ 24 < n then refuse stBadArg s
    else if s.framesIn f n (fun e => fotOwner e == vd) != n then refuse stOwned s
    else .done stOk ((s.framesOf vd).length - n) (s.revokeFrames ((List.range n).map (fun i => f + i))))

/-- A wrapped key put at the lowest free index of the key table; index 0 is the VCC's. -/
def State.bindKey (s : State) (c : BitVec 512) : Nat ⊕ (Nat × State) :=
  match s.unwrapped c with
  | .inl st => .inl st
  | .inr k =>
    match (List.range 1023).find? (fun i => (Tab.get? s.keys (i + 1)).isNone) with
    | none => .inl stNoSpace
    | some i => .inr (i + 1, { s with keys := Tab.put s.keys (i + 1) k })

/-- The bits that VD_BIND_KEY names. -/
def keyBits : List (Nat × Nat) := [(64, 8), (128, 320)]

/-- A key leaves the table. -/
def State.dropKey (s : State) (i : Nat) : State := if i = 0 then s else { s with keys := Tab.del s.keys i }

/-- VD_BIND_KEY of a memory key: the save counters are cleared; a CREATING virtual device becomes READY. -/
def execVdBindKeyMemory (c : BitVec 512) (s : State) : Res :=
  s.command c ⟨keyBits, false, true, fun v => v.st == .creating || v.st == .ready⟩ (fun vd v s =>
    if v.st = .ready ∧ s.framesOf vd ≠ [] then refuse stBadState s
    else match s.bindKey c with
      | .inl st => refuse st s
      | .inr (i, s) =>
        let s := s.dropKey v.mkey
        let s : State := { s with ctxs := s.ctxs.map (fun (e : Nat × Context) =>
          if e.1 / 64 = vd then (e.1, { e.2 with savectr := 0, used := false }) else e) }
        .done stOk i (s.modVd vd (fun v => { v with mkey := i, st := .ready })))

/-- Where the keys of a partition may be bound. -/
def fkeyRule : CmdRule :=
  ⟨keyBits, false, true, fun v => v.st == .creating || v.st == .ready || v.st == .running⟩

/-- A key installed clears every stream fault of the virtual device and restarts the counters of the streams that had faulted
(R359); both epochs are accepted until 1 ms after the first packet of the next one (R358). -/
def VDev.rekeyed (v : VDev) : VDev :=
  { v with streams := v.streams.map (fun e => (e.1, { e.2 with
      fault := false, stallAt := none, ctr := if e.2.fault then 0 else e.2.ctr, oldTill := none })), incs := 0 }

/-- A partition key in place of every other: its streams start anew under it. -/
def VDev.keyed (v : VDev) (i : Nat) : VDev :=
  { v with
    fkey := i, fkeyn := 0, incs := 0
    streams := v.streams.map (fun e => (e.1, { e.2 with
      fault := false, stallAt := none, ctr := 0, asked := false, oldTill := none, gen := v.gen, rgen := v.gen })) }

/-- VD_BIND_KEY of the partition key: it takes the place of a pending one as well. -/
def execVdBindKeyPartition (c : BitVec 512) (s : State) : Res :=
  s.command c fkeyRule (fun vd v s =>
    match s.bindKey c with
    | .inl st => refuse st s
    | .inr (i, s) => .done stOk i (((s.dropKey v.fkey).dropKey v.fkeyn).modVd vd (fun v => v.keyed i)))

/-- VD_BIND_KEY of a pending partition key: senders switch to it at their next packet (R358). A pending key that was
installed before becomes the current one. -/
def execVdBindKeyPending (c : BitVec 512) (s : State) : Res :=
  s.command c fkeyRule (fun vd v s =>
    match s.bindKey c with
    | .inl st => refuse st s
    | .inr (i, s) =>
      let s := if v.fkeyn = 0 then s else s.dropKey v.fkey
      .done stOk i (s.modVd vd (fun v => { v.rekeyed with
        fkey := if v.fkeyn = 0 then v.fkey else v.fkeyn, fkeyn := i, epoch := !v.epoch, gen := v.gen + 1 })))

/-! ## VD_START (R466) -/

/-- Whether a context is in a mask. -/
def inMask (c : BitVec 512) (ctx : Nat) : Bool := cmdBits c (128 + ctx) 1 == 1

/-- A start that fails: the step and its code, STARTFAIL, and the interrupt of a failed start. -/
def startFails (vd step code : Nat) (fb : Bool) (s : State) : Reply :=
  let s := s.modVd vd (fun v => { v with fstep := step, fcode := code, cause := 4 })
  .done stStartFail (step - 1 + (if fb then 256 else 0)) (s.irq vd 5 0)

/-- ANNOUNCE goes to every member of the partition: none where one cannot be sent. -/
def State.announce (s : State) (vd : Nat) (v : VDev) : Option State :=
  v.members.foldl (fun (t : Option State) d => t.bind (fun s =>
    let e := Tab.getD v.pmap d ⟨false, 0, 0⟩
    s.sendPacket vd d e.pvd.toNat e.inc.toNat opAnnounce 6 0 0 [])) (some s)

/-- Step 4: the contexts in the mask start, their images restored on the sub-partitions that a pass now grants. -/
def State.startContexts (s : State) (vd : Nat) (c : BitVec 512) : State :=
  let cs := (List.range 64).filter (fun x => inMask c x && (s.ctx? vd x).isSome)
  let s := cs.foldl (fun (s : State) x => s.modCtx vd x (fun k => { k with
    running := k.enable, faulted := false, refused := []
    saved := if k.faulted then .no else (match k.saved with
      | .no => .no
      | _ => .retry false) })) s
  let ims := cs.filter (fun x => match s.ctx? vd x with
    | some k => k.saved != .no
    | none => false)
  if ims.isEmpty then s else ims.foldl (fun s x => s.restore vd x) s.schedule

/-- Step 5: the queues of the contexts in the mask whose ENABLE is set are enabled, their halts of reasons 5 to 7 cleared. -/
def State.startQueues (s : State) (vd : Nat) (c : BitVec 512) : State :=
  { s with queues := s.queues.map (fun (e : Nat × LaunchQ) =>
      let ctx := e.1 / 64 % 64
      let runs := match s.ctx? vd ctx with
        | some k => k.running && !k.faulted
        | none => false
      if e.1 / 4096 = vd ∧ inMask c ctx = true ∧ runs = true ∧ e.2.enable = true then
        match e.2.halt with
        | .ctxfault | .killed | .stopped => (e.1, e.2.turnOn s.clock)
        | .none => (e.1, if e.2.on then e.2 else e.2.turnOn s.clock)
        | _ => (e.1, { e.2 with on := true })
      else e) }

/-- VD_START: its five steps in order. -/
def execVdStart (c : BitVec 512) (s : State) : Res :=
  s.command c ⟨[(128, 64)], false, false, fun v => v.st == .ready || v.st == .running⟩ (fun vd v s =>
    let low := v.fstep == 2
    let fb := low || (v.fstep == 3 && v.fpart != 0)
    let minsp := if v.fstep = 2 then 0 else v.minsp
    if v.mkey = 0 then startFails vd 1 stNoKey false s
    else if s.minspOthers vd + minsp > s.populatedSps then startFails vd 2 stNoSpace low s
    else
      let peers : Option State :=
        if v.fpart = 0 then some s
        else if v.fstep = 3 then some (s.modVd vd (fun v => { v with pmap := v.pmap.map (fun e => (e.1, { e.2 with v := false })) }))
        else if v.fkey = 0 then none
        else s.announce vd v
      match peers with
      | none => startFails vd 3 stPeer fb s
      | some s =>
        let s := s.modVd vd (fun v => { v with st := .running, progress := s.clock, fstep := 0, fcode := 0 })
        .done stOk (5 + (if fb then 256 else 0)) ((s.startContexts vd c).startQueues vd c))

/-! ## VD_STOP (R443, R459) -/

/-- Contexts stop: their queues halt with STOPPED, their work is pre-empted; one without work on the device stands at once. -/
def State.stopMask (s : State) (vd : Nat) (m : Nat → Bool) : State :=
  ((List.range 64).filter (fun x => m x && (s.ctx? vd x).isSome)).foldl (fun (s : State) x =>
    let s := s.haltQueues vd x .stopped
    if (s.contextWgs vd x).isEmpty then s.modCtx vd x (fun k => { k with
      running := false
      saved := match k.saved with
        | .no => .no
        | _ => .hold })
    else (s.modCtx vd x (fun k => { k with stopping := true })).preemptContext vd x) s

/-- Whether a context in a mask is still being stopped. -/
def State.stillStopping (s : State) (vd : Nat) (m : Nat → Bool) : Bool :=
  (List.range 64).any (fun x => m x && (match s.ctx? vd x with
    | some k => k.stopping
    | none => false))

/-- A RUNNING virtual device without a running context becomes READY. -/
def State.settle (s : State) (vd : Nat) : State :=
  if (List.range 64).any (fun x => match s.ctx? vd x with
    | some k => k.running || k.stopping
    | none => false) then s
  else s.modVd vd (fun v => { v with st := if v.st = .running then .ready else v.st })

/-- How many contexts of a mask hold an image. -/
def State.savedCount (s : State) (vd : Nat) (m : Nat → Bool) : Nat :=
  ((List.range 64).filter (fun x => m x && (match s.ctx? vd x with
    | some k => k.saved != .no
    | none => false))).length

/-- A VD_STOP ends once every context in its mask is saved. -/
def State.pollStop (s : State) (c : BitVec 512) : State :=
  let vd := cmdVd c
  if s.stillStopping vd (inMask c) then s
  else
    let s := s.settle vd
    s.complete c stOk (s.savedCount vd (inMask c))

/-- VD_STOP. -/
def execVdStop (c : BitVec 512) (s : State) : Res :=
  s.command c ⟨[(128, 64)], false, false, fun v => v.st == .running⟩ (fun vd _ s => .run (s.stopMask vd (inMask c)))

/-! ## Kills by command (R459, R462) -/

/-- The running commands of a virtual device but those of one code complete with KILLED. -/
def State.killRuns (s : State) (vd opc : Nat) : State :=
  (s.runningCmds vd).foldl (fun s c => if cmdOpc c = opc then s else s.complete c stKilled 0) s

/-- VD_KILL: one that meets a kill in progress ends with it; the command that began that kill completes with KILLED, unless it is
a VD_KILL too (DEDUCED, log entry 118). -/
def execVdKill (c : BitVec 512) (s : State) : Res :=
  s.command c ⟨[], false, false, fun v => v.st == .ready || v.st == .running || v.st.dying⟩ (fun vd v s =>
    if v.st.dying then .run (s.killRuns vd 8) else .run (s.startKill vd .kill))

/-- VD_RESET. -/
def execVdReset (c : BitVec 512) (s : State) : Res :=
  s.command c ⟨[], false, false, fun v => v.st == .ready || v.st == .running⟩ (fun vd _ s => .run (s.startKill vd .reset))

/-- What VD_DESTROY and VD_MIG_COMMIT as source commit do: nothing drains while CREATING; a kill in progress becomes a
destroy. -/
def State.destroyVd (s : State) (vd : Nat) (v : VDev) (result : Nat → Nat) : Reply :=
  if v.st = .creating then
    .done stOk (result v.inc.toNat) ((s.modVd vd (fun v => { v with tdi := .error })).freeVd vd)
  else if v.st.dying then .run ((s.killRuns vd 10).modVd vd (fun v => { v with killFor := some .destroy }))
  else .run (s.startKill vd .destroy)

/-- VD_DESTROY. -/
def execVdDestroy (c : BitVec 512) (s : State) : Res :=
  s.command c ⟨[], false, false, fun _ => true⟩ (fun vd v s => s.destroyVd vd v id)

/-! ## Interrupts, port counters, STATUS (R458, R464, R483, R493) -/

/-- IRQ_MAP: an entry unmasked with a message pending delivers it. -/
def execIrqMap (c : BitVec 512) (s : State) : Res :=
  s.command c ⟨[(128, 42)], false, true, fun v => v.st != .free⟩ (fun vd _ s =>
    let cls := cmdField c 16 1
    let idx := cmdField c 17 1
    let fn := cmdField c 18 2
    let vec := cmdField c 20 1
    let v := cmdBits c 168 1 == 1
    let mask := cmdBits c 169 1 == 1
    if 6 < cls ∨ 63 < idx ∨ 511 < fn ∨ 63 < vec then refuse stBadArg s
    else
      let k := (vd * 8 + cls) * 64 + idx
      let pend := v && (Tab.getD s.remap k 0).getLsbD 29
      let e : BitVec 32 := BitVec.ofNat 32 ((if v then 2 ^ 31 else 0) + (if mask then 2 ^ 30 else 0) +
        (if pend && mask then 2 ^ 29 else 0) + fn * 64 + vec)
      let s : State := { s with remap := Tab.set 0 s.remap k e }
      .done stOk 0 (if pend && !mask then s.sendMsi fn vec else s))

/-- The bits that CTR_GRANT names. -/
def ctrRule : CmdRule := ⟨[(128, 17)], false, false, fun v => v.st != .free⟩

/-- CTR_GRANT. -/
def execCtrGrant (c : BitVec 512) (s : State) : Res :=
  s.command c ctrRule (fun vd _ s =>
    .done stOk 0 (s.modVd vd (fun v => { v with ports := v.ports ||| BitVec.ofNat 16 (cmdField c 16 2) })))

/-- CTR_GRANT as a revocation. -/
def execCtrRevoke (c : BitVec 512) (s : State) : Res :=
  s.command c ctrRule (fun vd _ s =>
    .done stOk 0 (s.modVd vd (fun v => { v with ports := v.ports &&& ~~~(BitVec.ofNat 16 (cmdField c 16 2)) })))

/-- The number of a state in an entry. -/
def VdState.num : VdState → Nat
  | .free => 0
  | .creating => 1
  | .ready => 2
  | .running => 3
  | .killing => 4
  | .draining => 5
  | .scrubbing => 6
  | .resetting => 7

/-- The table entry of a virtual device (R458). -/
def State.entry (s : State) (vd : Nat) (v : VDev) : Nat :=
  let b (x : Bool) : Nat := if x then 1 else 0
  v.csave * 2 ^ 448 + v.energy.toNat * 2 ^ 384 + (s.framesOf vd).length * 2 ^ 359 + v.quota * 2 ^ 334 + v.fpart * 2 ^ 318 +
    v.mkey * 2 ^ 308 + v.fkey * 2 ^ 298 + v.fkeyn * 2 ^ 288 + v.maxscope.toNat * 2 ^ 284 + v.wdog * 2 ^ 270 +
    b v.wmode * 2 ^ 269 + b v.scrubk * 2 ^ 268 + v.pto * 2 ^ 258 + v.slice * 2 ^ 248 + v.maxsp * 2 ^ 238 + v.minsp * 2 ^ 228 +
    v.weight * 2 ^ 220 + v.pcap * 2 ^ 208 + b v.logovf * 2 ^ 207 + b v.dlog * 2 ^ 206 + b v.bmap * 2 ^ 205 + v.fstep * 2 ^ 201 +
    v.fcode * 2 ^ 193 + v.logtail.toNat * 2 ^ 128 + v.mlog * 2 ^ 64 + v.inc.toNat * 2 ^ 48 + v.mlogl * 2 ^ 40 + v.st.num * 2 ^ 9 + vd

/-- STATUS: the 64-byte entry is written to the host. -/
def execStatus (c : BitVec 512) (s : State) : Res :=
  s.command c ⟨[(128, 64)], false, false, fun v => v.st != .free⟩ (fun vd v s =>
    .done stOk v.drops { s with host := cellsSet s.host (cmdField c 16 8) (leBytes (s.entry vd v) 64) })

end Sys2Proof.Machine
end

