-- ==== Sys2Proof/Machine/Migrate.lean ====
section
/-! DEFINITION. Migrate.lean: the commands of live migration and of groups, and how the VCC takes commands (R360, R362, R410,
R462, R465, R485 to R488). -/

namespace Sys2Proof.Machine

open Sys2Proof

/-! ## Live migration (R485 to R488) -/

/-- The bits of VD_MIG_BEGIN. -/
def migBits : List (Nat × Nat) := [(128, 80)]

/-- VD_MIG_BEGIN: logging starts; after an overflow in bitmap mode, whatever mode is asked for. -/
def execVdMigBegin (c : BitVec 512) (s : State) : Res :=
  s.command c ⟨migBits, false, true, fun v => v.st == .ready || v.st == .running⟩ (fun vd v s =>
    let mode := cmdField c 25 1
    let l := cmdField c 24 1
    let bmap := mode == 1 || v.logovf
    if 1 < mode ∨ (mode = 0 ∧ (l < 6 ∨ 24 < l)) then refuse stBadArg s
    else .done stOk (if bmap then 1 else 0) (s.modVd vd (fun v => { v with
      mlog := cmdField c 16 8, mlogl := l, dlog := true, bmap := bmap, logtail := 0, loghead := 0, recent := []
      fstep := if v.logovf then 0 else v.fstep, fcode := if v.logovf then 0 else v.fcode, logovf := false })))

/-- VD_MIG_ROUND: the host's new log head; LOGTAIL is returned. -/
def execVdMigRound (c : BitVec 512) (s : State) : Res :=
  s.command c ⟨[(128, 32)], false, true, fun v => v.dlog⟩ (fun vd v s =>
    .done stOk v.logtail.toNat (s.modVd vd (fun v => { v with loghead := BitVec.ofNat 32 (cmdField c 16 4) })))

/-- A copy-family card that runs or is parked goes back into its ring as published, with PROG in its entry (R487); one whose
counter add is on its way to a peer finishes. -/
def State.unstart (s : State) (gid : Nat) (c : Card) : State :=
  match Tab.get? s.wgs gid with
  | none => s
  | some g =>
    if !isCopy c.kind || !(c.st == .running || c.st == .parked) || (c.atAdd && s.cardBusy ⟨gid, c.seq⟩) then s
    else
      let s := s.dropReqs (fun q => q.who == .card ⟨gid, c.seq⟩)
      ((s.takeOff ⟨gid, c.seq⟩).writeProg g c).modCard gid c.seq (fun c =>
        { c with st := .published, eng := none, page := none, implied := none })

/-- VD_MIG_FINAL, steps 1 to 3: copy cards go back, other cards finish, every context is saved. -/
def execVdMigFinal (c : BitVec 512) (s : State) : Res :=
  s.command c ⟨[(128, 64)], false, true, fun v => (v.st == .ready || v.st == .running) && v.dlog⟩ (fun vd _ s =>
    let s := (s.wgs.filter (fun e => e.2.vd == vd)).foldl (fun s e => e.2.cards.foldl (fun s k => s.unstart e.1 k) s) s
    .run (s.stopMask vd (fun _ => true)))

/-- The virtual device's dirty lines are written back, which logs their pages. -/
def State.flushVd (s : State) (vd : Nat) : State :=
  (s.llc.filter (fun e => e.2.vd == vd && e.2.dirty)).foldl (fun (s : State) (e : Nat × Line) =>
    let s := s.writeBack e.1 false
    if e.1 / 2 ^ 60 = 1 then s.logWrite (e.1 % 2 ^ 60 * 64) else s) s

/-- The info string `mig` of the key of counter records. -/
def migInfo : List Byte := [0x6D, 0x69, 0x67]

/-- The first 528 bytes of a counter record: the stored counters, a nonce, four zero bytes. -/
def State.recordHead (s : State) (vd : Nat) : List Byte :=
  (List.range 64).flatMap (fun x => leBytes (match s.ctx? vd x with
    | some k => k.savectr.toNat
    | none => 0) 8) ++ leBytes (s.fresh 252).toNat 8 ++ leBytes (s.fresh 253).toNat 4 ++ [0, 0, 0, 0]

/-- The tag of a counter record under a virtual device's memory key. -/
def State.recordTag (s : State) (vd : Nat) (head : List Byte) : BitVec 128 :=
  Config.gmac (Config.hkdf (s.memKey vd) migInfo) (BitVec.ofNat 96 (leNat ((head.drop 512).take 12))) head

/-- The contexts of a virtual device whose last image is consumed and that have no work now are saved too, as images of no
workgroup: no target takes the consumed one again. -/
def State.saveRest (s : State) (vd : Nat) : State :=
  (List.range 64).foldl (fun (s : State) x => match s.ctx? vd x with
    | some k => if k.used && !k.faulted && (s.contextWgs vd x).isEmpty then s.saveContext vd x k else s
    | none => s) s

/-- VD_MIG_FINAL, steps 4 to 6, once every context is saved. -/
def State.pollFinal (s : State) (c : BitVec 512) : State :=
  let vd := cmdVd c
  if s.stillStopping vd (fun _ => true) then s
  else
    let s := ((s.saveRest vd).settle vd).flushVd vd
    match Tab.get? s.vds vd with
    | none => s
    | some v =>
      if v.logovf then
        (s.modVd vd (fun v => { v with fstep := 8, fcode := stOverflow })).complete c stOverflow v.logtail.toNat
      else
        let head := s.recordHead vd
        let s := { s with host := cellsSet s.host (cmdField c 16 8) (head ++ leBytes (s.recordTag vd head).toNat 16) }
        s.complete c stOk v.logtail.toNat

/-- The bits of VD_MIG_COMMIT. -/
def commitBits : List (Nat × Nat) := [(64, 8), (128, 64)]

/-- What the roles of VD_MIG_COMMIT share. -/
def commitRule : CmdRule := ⟨commitBits, false, true, fun v => v.st == .ready⟩

/-- VD_MIG_COMMIT, role 0: a destroy. -/
def execVdMigCommitSource (c : BitVec 512) (s : State) : Res :=
  s.command c commitRule (fun vd v s => s.destroyVd vd v (fun _ => 0))

/-- VD_MIG_COMMIT, role 1: the counter record verified and loaded, every CONSUMED clear. -/
def execVdMigCommitImport (c : BitVec 512) (s : State) : Res :=
  s.command c commitRule (fun vd _ s =>
    let r := cellsGet s.host (cmdField c 16 8) 544
    let head := r.take 528
    if s.recordTag vd head ≠ BitVec.ofNat 128 (leNat (r.drop 528)) then refuse stBadKey s
    else .done stOk 0 ((List.range 64).foldl (fun (s : State) x =>
      let n := leNat ((head.drop (8 * x)).take 8)
      if n = 0 ∧ (s.ctx? vd x).isNone then s
      else s.putCtx vd x (fun k => { k with
        savectr := BitVec.ofNat 64 n, used := false, saved := if n = 0 then .no else .hold })) s))

/-- VD_MIG_COMMIT, role 2: migration ends without a move. -/
def execVdMigCommitAbort (c : BitVec 512) (s : State) : Res :=
  s.command c commitRule (fun vd _ s => .done stOk 0 (s.modVd vd (fun v => { v with dlog := false })))

/-! ## Groups (R360, R362, R410, R465) -/

/-- Where groups may be made and changed. -/
def groupRule (l : List (Nat × Nat)) : CmdRule :=
  ⟨l, false, true, fun v => v.st == .creating || v.st == .ready || v.st == .running⟩

/-- The bits of FG_CREATE for a fabric group. -/
def fgBits : List (Nat × Nat) := [(128, 17), (152, 40)]
/-- The bits of FG_CREATE for a consensus group. -/
def cgBits : List (Nat × Nat) := [(128, 17), (152, 80)]

/-- FG_CREATE of a fabric group: no members. -/
def execFgCreateFabric (c : BitVec 512) (s : State) : Res :=
  s.command c (groupRule fgBits) (fun vd _ s =>
    let g := cmdField c 17 1
    let share := orDefault (cmdField c 19 1) 0xFF 25
    let time := orDefault (cmdField c 20 2) 0 100
    let halo := cmdField c 22 2
    if 64 ≤ g ∨ 50 < share ∨ 1000 < time ∨ 1024 < halo ∨ (Tab.get? s.fgs (vd * 64 + g)).isSome then refuse stBadArg s
    else
      let t : State := { s with fgs := Tab.put s.fgs (vd * 64 + g) ⟨[], share, time, halo, []⟩ }
      if t.buffersFit then .done stOk 0 t else refuse stNoSpace s)

/-- FG_CREATE with DEL of a fabric group. -/
def execFgDeleteFabric (c : BitVec 512) (s : State) : Res :=
  s.command c (groupRule fgBits) (fun vd _ s =>
    let g := cmdField c 17 1
    if 64 ≤ g ∨ (Tab.get? s.fgs (vd * 64 + g)).isNone then refuse stBadArg s
    else .done stOk 0 { s with fgs := Tab.del s.fgs (vd * 64 + g) })

/-- The schedule of this device in a star whose root is the lowest member device: in each phase step j serves the j-th
other member (modulo 11), over the port whose slot opens then. -/
def starSchedule (devid : Nat) (devices : List Nat) : List SchedStep :=
  let root := devices.foldl min devid
  let rest := devices.filter (· != root)
  let one (phase d : Nat) : SchedStep :=
    let j := rest.idxOf d % 11
    ⟨phase, j, (phase + j) % 16, decide (devid ≠ root), if devid = root then d else root⟩
  (List.range 256).flatMap (fun p => if devid = root then rest.map (one p) else [one p devid])

/-- FG_CREATE of a consensus group: its record, with this device as the first that holds positions. -/
def execFgCreateConsensus (c : BitVec 512) (s : State) : Res :=
  s.command c (groupRule cgBits) (fun vd _ s =>
    let g := cmdField c 17 1
    let scope := cmdField c 19 1
    let lpos := cmdField c 20 2
    let total := cmdField c 22 2
    let time := orDefault (cmdField c 24 4) 0 100
    let fg := cmdField c 28 1
    if 64 ≤ g ∨ !(scope == 5 || scope == 7 || scope == 8) ∨ lpos < 1 ∨ 1023 < lpos ∨ total < lpos ∨ 10000 < time ∨ 64 ≤ fg ∨
        (Tab.get? s.cgs g).isSome then refuse stBadArg s
    else .done stOk 0 { s with cgs := Tab.put s.cgs g {
      owner := vd, scope := scope, lpos := lpos, total := total, fgrp := fg, joined := [], devices := [s.devid], sched := []
      round := 0, st := .idle, site := 0, mode := false, expected := [], votes := [], value := false, upgot := [], kept := []
      openAt := 0, results := [], lost := false, timeout := time, deleted := false, step := none, left := [] } })

/-- FG_CREATE with DEL of a consensus group: its number stays in use while results are unconsumed (R384). -/
def execFgDeleteConsensus (c : BitVec 512) (s : State) : Res :=
  s.command c (groupRule cgBits) (fun vd _ s =>
    let g := cmdField c 17 1
    match Tab.get? s.cgs g with
    | none => refuse stBadArg s
    | some x => if x.owner ≠ vd ∨ x.deleted = true then refuse stBadArg s else .done stOk 0 (s.destroyGroup g))

/-- FG_ADD: a member device of a fabric group at an index, or of a consensus group, whose schedules are then loaded anew, which
cuts a round in its reduction. -/
def execFgAdd (c : BitVec 512) (s : State) : Res :=
  s.command c (groupRule [(128, 48)]) (fun vd v s =>
    let kind := cmdField c 16 1
    let g := cmdField c 17 1
    let i := cmdField c 18 1
    let dev := cmdField c 19 1
    let mvd := cmdField c 20 2
    if 1 < kind ∨ 64 ≤ g ∨ !(dev == s.devid || v.members.contains dev) ∨ 511 < mvd then refuse stBadArg s
    else if kind = 0 then
      match Tab.get? s.fgs (vd * 64 + g) with
      | none => refuse stBadArg s
      | some x =>
        if x.members.any (fun e => (e.1 == i) || (e.2.1 == dev)) then refuse stBadArg s
        else .done stOk 0 { s with fgs := Tab.put s.fgs (vd * 64 + g) { x with members := Tab.put x.members i (dev, mvd) } }
    else
      match Tab.get? s.cgs g with
      | none => refuse stBadArg s
      | some x =>
        if x.owner ≠ vd ∨ x.deleted = true then refuse stBadArg s
        else
          let ds := if x.devices.contains dev then x.devices else x.devices ++ [dev]
          .done stOk 0 ((s.modCg g (fun y => { y with devices := ds, sched := starSchedule s.devid ds })).cutRound g))

/-! ## Taking and running commands (R462) -/

/-- A command runs: its code, with its sub-command, kind or role, chooses its meaning. -/
def runCommand (c : BitVec 512) (s : State) : Res :=
  let bad : Res := .next (s.command c ⟨[(0, 512)], false, false, fun _ => true⟩ (fun _ _ s => refuse stBadArg s) |> fun r =>
    match r with
    | .next t => t
    | _ => s)
  match cmdOpc c with
  | 0x01 => execVdCreate c s
  | 0x02 =>
    match cmdSub c with
    | 0 => execVdConfigParams c s
    | 1 => execVdConfigContext c s
    | 2 => execVdConfigFormat c s
    | 3 => execVdConfigQueue c s
    | 4 => execVdConfigQueueKey c s
    | 5 => execVdConfigPartition c s
    | 6 => execVdConfigFabricRes c s
    | 7 => execVdConfigWindow c s
    | _ => bad
  | 0x03 => execVdGrantMem c s
  | 0x04 => execVdRevokeMem c s
  | 0x05 =>
    match cmdSub c with
    | 0 => execVdBindKeyMemory c s
    | 1 => execVdBindKeyPartition c s
    | 2 => execVdBindKeyPending c s
    | _ => bad
  | 0x06 => execVdStart c s
  | 0x07 => execVdStop c s
  | 0x08 => execVdKill c s
  | 0x09 => execVdReset c s
  | 0x0A => execVdDestroy c s
  | 0x10 => execVdMigBegin c s
  | 0x11 => execVdMigRound c s
  | 0x12 => execVdMigFinal c s
  | 0x13 =>
    match cmdSub c with
    | 0 => execVdMigCommitSource c s
    | 1 => execVdMigCommitImport c s
    | 2 => execVdMigCommitAbort c s
    | _ => bad
  | 0x20 =>
    match cmdField c 16 1, cmdBits c 144 1 with
    | 0, 0 => execFgCreateFabric c s
    | 0, _ => execFgDeleteFabric c s
    | 1, 0 => execFgCreateConsensus c s
    | 1, _ => execFgDeleteConsensus c s
    | _, _ => bad
  | 0x21 => execFgAdd c s
  | 0x28 => execIrqMap c s
  | 0x29 => if cmdBits c 144 1 = 1 then execCtrGrant c s else execCtrRevoke c s
  | 0x30 => execStatus c s
  | _ => execBadop c s

/-- A code that has a meaning: the others complete with BADOP whatever the virtual device. -/
def opcKnown (o : Nat) : Bool :=
  (decide (1 ≤ o) && decide (o ≤ 10)) || (decide (0x10 ≤ o) && decide (o ≤ 0x13)) ||
    [0x20, 0x21, 0x28, 0x29, 0x30].contains o

/-- Whether a taken command may begin: VD_KILL and VD_DESTROY at once; another when no earlier one of its virtual device is
still there. -/
def mayBegin (l : List CmdRun) (r : CmdRun) : Bool :=
  !r.begun && (cmdOpc r.cmd == 8 || cmdOpc r.cmd == 10 ||
    !(l.takeWhile (fun x => x != r)).any (fun x => cmdVd x.cmd == cmdVd r.cmd))

/-- The next command that may begin: none while a PF FLR waits for its kills. -/
def State.nextCommand (s : State) : Option CmdRun :=
  if s.boot.flr.isSome then none else s.mgmt.runs.find? (mayBegin s.mgmt.runs)

/-- The ring is enabled (R460). -/
def Mgmt.on (m : Mgmt) : Bool := pow2In m.size 16 4096

/-- The VCC takes the next command of the ring. -/
def State.takeCommand (s : State) : Option State :=
  let m := s.mgmt
  if !Mgmt.on m || m.taken == m.tail || s.boot.flr.isSome then none
  else
    let c := BitVec.ofNat 512 (leNat (cellsGet s.host (m.base + 64 * (m.taken.toNat % m.size)) 64))
    some { s with mgmt := { m with taken := m.taken + 1, runs := m.runs ++ [⟨some m.taken.toNat, c, false⟩] } }

/-- A command begins. -/
def State.beginCommand (s : State) (r : CmdRun) : Res :=
  runCommand r.cmd { s with mgmt := { s.mgmt with runs := s.mgmt.runs.map (fun x => if x = r then { x with begun := true } else x) } }

/-- The running commands whose effect is complete end. -/
def State.pollCommands (s : State) : State :=
  (s.mgmt.runs.filter CmdRun.begun).foldl (fun s r =>
    if cmdOpc r.cmd = 7 then s.pollStop r.cmd else if cmdOpc r.cmd = 0x12 then s.pollFinal r.cmd else s) s

end Sys2Proof.Machine
end

