-- ==== Sys2Proof/Machine/Start.lean ====
section
/-! DEFINITION. Start.lean: the root of trust's record of each start, the twelve steps of a start, and what stops the package
(R510 to R515). -/

namespace Sys2Proof.Machine

open Sys2Proof

/-! ## The boot history record (R513) -/

/-- CRC-32 of a list of bytes: the reflected polynomial 0xEDB88320, all ones before and after. -/
def crc32 (bs : List Byte) : BitVec 32 :=
  ~~~(bs.foldl (fun c b => (List.range 8).foldl (fun (c : BitVec 32) _ =>
    if c.getLsbD 0 then (c >>> 1) ^^^ 0xEDB88320#32 else c >>> 1) (c ^^^ b.setWidth 32)) 0xFFFFFFFF#32)

/-- Whether the CRC of a record holds. -/
def recordOk (r : BitVec 256) : Bool := slice r 224 32 == crc32 ((leBytes r.toNat 32).take 28)

/-- The sequence number of a record. -/
def recordSeq (r : BitVec 256) : Nat := (slice r 192 32).toNat

/-- The record that a start reads: the valid copy with the higher SEQ, or every field zero. -/
def Boot.record (b : Boot) : BitVec 256 :=
  match recordOk b.copyA, recordOk b.copyB with
  | true, true => if recordSeq b.copyB > recordSeq b.copyA then b.copyB else b.copyA
  | true, false => b.copyA
  | false, true => b.copyB
  | false, false => 0

/-- The fields of a record that a start uses and writes. -/
structure BootRec where
  seq     : Nat
  portOut : BitVec 16
  stkOut  : BitVec 8
  stkCons : BitVec 8
  ismvOut : BitVec 8
  lpMode  : Nat
  spare   : BitVec 2
  clOut   : BitVec 20
  fwSlot  : BitVec 4
  link    : Nat
  flags   : BitVec 4
  steps   : Tab Nat
  count   : Nat
  deriving DecidableEq, Repr

/-- The status of step n in a record. -/
def BootRec.stepOf (r : BootRec) (n : Nat) : Nat := Tab.getD r.steps n 0

/-- A record as fields. -/
def BootRec.of (r : BitVec 256) : BootRec where
  seq := recordSeq r
  portOut := slice r 176 16
  stkOut := slice r 168 8
  stkCons := slice r 160 8
  ismvOut := slice r 152 8
  lpMode := (slice r 150 2).toNat
  spare := slice r 148 2
  clOut := slice r 128 20
  fwSlot := slice r 120 4
  link := (slice r 116 4).toNat
  flags := slice r 112 4
  steps := (List.range 12).map (fun n => (n + 1, (slice r (48 + 4 * n) 4).toNat))
  count := (slice r 0 48).toNat

/-- The STEP field. -/
def BootRec.stepBits (r : BootRec) : BitVec 48 :=
  BitVec.ofNat 48 ((List.range 12).foldl (fun x n => x + r.stepOf (n + 1) * 16 ^ n) 0)

/-- A record's bits, with its CRC. -/
def BootRec.bits (r : BootRec) : BitVec 256 :=
  let x : BitVec 224 := BitVec.ofNat 32 r.seq ++ r.portOut ++ r.stkOut ++ r.stkCons ++ r.ismvOut ++ BitVec.ofNat 2 r.lpMode ++
    r.spare ++ r.clOut ++ 0#4 ++ r.fwSlot ++ BitVec.ofNat 4 r.link ++ r.flags ++ 0#16 ++ r.stepBits ++ BitVec.ofNat 48 r.count
  crc32 (leBytes x.toNat 28) ++ x

/-! ## The steps (R511, R512) -/

/-- A start in progress: the record being written, the parts present, whether it has ended early and whether that is
fatal. -/
structure Starting where
  r     : BootRec
  stk   : BitVec 8
  ismv  : BitVec 8
  ports : BitVec 16
  lp    : Bool
  ended : Bool
  fatal : Bool

/-- The status of a step recorded. -/
def Starting.mark (x : Starting) (n st : Nat) : Starting := { x with r := { x.r with steps := Tab.set 0 x.r.steps n st } }

/-- A step without which the device cannot go on: OK in its first or its fallback form, or failed, at once fatal in its
last form. -/
def Starting.must (x : Starting) (n : Nat) (ok fallback last : Bool) (next : BootRec → BootRec) : Starting :=
  if ok then x.mark n (if fallback then 2 else 1)
  else
    let y := x.mark n 3
    if last then { y with ended := true, fatal := true } else { y with r := next y.r, ended := true }

/-- Steps 2 and 12 use the firmware slot that the record names. One that fails is bad from then on, and the next start uses the
other, unless that is bad too. -/
def Starting.firmware (x : Starting) (n : Nat) (badA badB : Bool) : Starting :=
  let b := x.r.fwSlot.getLsbD 0
  let ok := !(if b then badB else badA)
  let fallback := x.r.fwSlot.getLsbD 1 || x.r.fwSlot.getLsbD 2
  let other := if b then x.r.fwSlot.getLsbD 1 else x.r.fwSlot.getLsbD 2
  let x := if ok then x else { x with r := { x.r with fwSlot := x.r.fwSlot ||| (if b then 4#4 else 2#4) } }
  x.must n ok fallback other (fun r => { r with fwSlot := if b then r.fwSlot &&& 0xE#4 else r.fwSlot ||| 1#4 })

/-- The status of a step whose parts can be mapped out: failed, OK with map-out, OK-fallback, OK. -/
def partStatus (failed out cons : Bool) : Nat := if failed then 3 else if out then 5 else if cons then 2 else 1

/-- A set of parts by number. -/
def partMask (w n : Nat) (p : Nat → Bool) : BitVec w :=
  BitVec.ofNat w ((List.range n).foldl (fun x i => x + (if p i then 2 ^ i else 0)) 0)

/-- Step 5: a stack that the record shows mapped out or at conservative timing trains at that timing. Another trains
normally; where it fails it is absent at this start, or, where step 5 had failed at the start before, it trains at
conservative timing and is mapped out if that fails. -/
def Starting.hbm (x : Starting) (old : BootRec) (t : BootTests) : Starting :=
  let again := old.stepOf 5 == 3
  let asked (i : Nat) : Bool := old.stkCons.getLsbD i || old.stkOut.getLsbD i
  let slow (i : Nat) : Bool := asked i || (again && t.stkFail.getLsbD i)
  let out (i : Nat) : Bool := slow i && t.stkConsFail.getLsbD i
  let lost (i : Nat) : Bool := !slow i && t.stkFail.getLsbD i
  let any (p : Nat → Bool) : Bool := (List.range 8).any p
  let y := x.mark 5 (partStatus (any lost) (any out) (any slow))
  { y with
    r := { y.r with stkCons := partMask 8 8 (fun i => slow i && !out i), stkOut := partMask 8 8 out }
    stk := partMask 8 8 (fun i => !out i && !lost i) }

/-- Step 6: a stack whose ISMV fails its test has it mapped out at once. -/
def Starting.ismvTest (x : Starting) (t : BootTests) : Starting :=
  let y := x.mark 6 (partStatus false ((t.ismvFail &&& x.stk) != 0) false)
  { y with r := { y.r with ismvOut := t.ismvFail &&& x.stk }, ismv := x.stk &&& ~~~t.ismvFail }

/-- Step 7: the LPDDR 6 tier. -/
def Starting.lpddr (x : Starting) (old : BootRec) (t : BootTests) : Starting :=
  let slow := old.lpMode != 0 || old.stepOf 7 == 3
  let out := slow && t.lpConsFail
  let lost := !slow && t.lpFail
  let y := x.mark 7 (partStatus lost out slow)
  { y with r := { y.r with lpMode := if out then 2 else if slow then 1 else 0 }, lp := !out && !lost }

/-- Step 8: a failed cluster of a die is replaced by the die's spare where that works; of several, the lowest-numbered one
(DESIGN CHOICE, log entry 72). Bits 0 to 19 of the report are
the clusters, bits 20 and 21 the spares of the two dies. -/
def Starting.coreTest (x : Starting) (t : BootTests) : Starting :=
  let bad (i : Nat) : Bool := t.clFail.getLsbD i
  let saved (d : Nat) : Option Nat := if bad (20 + d) then none else ((List.range 10).map (10 * d + ·)).find? bad
  let out (i : Nat) : Bool := bad i && saved (i / 10) != some i
  let used (d : Nat) : Bool := (saved d).isSome
  let y := x.mark 8 (partStatus false ((List.range 20).any out) (used 0 || used 1))
  { y with r := { y.r with clOut := partMask 20 20 out, spare := partMask 2 2 used } }

/-- Step 10: a failed port is mapped out at once. -/
def Starting.optics (x : Starting) (t : BootTests) : Starting :=
  let y := x.mark 10 (partStatus false (t.portFail != 0) false)
  { y with r := { y.r with portOut := t.portFail }, ports := ~~~t.portFail }

/-- A step of a start, where it has not ended. -/
def Starting.go (x : Starting) (f : Starting → Starting) : Starting := if x.ended then x else f x

/-- Steps 3 to 10. -/
def Starting.hardware (x : Starting) (old : BootRec) (t : BootTests) : Starting :=
  let x := x.go (fun x =>
    let b := x.r.fwSlot.getLsbD 3
    x.must 3 (!(if b then t.refB else t.refA)) b b (fun r => { r with fwSlot := r.fwSlot ||| 8#4 }))
  let x := x.go (fun x =>
    let b := x.r.flags.getLsbD 1
    x.must 4 (!(if b then t.linksSpare else t.links)) b b (fun r => { r with flags := r.flags ||| 2#4 }))
  let x := x.go (fun x => x.hbm old t)
  let x := x.go (fun x => x.ismvTest t)
  let x := x.go (fun x => x.lpddr old t)
  let x := x.go (fun x => x.coreTest t)
  let x := x.go (fun x =>
    let b := x.r.flags.getLsbD 2
    x.must 9 (!(if b then t.llcRepair else t.llc)) b b (fun r => { r with flags := r.flags ||| 4#4 }))
  x.go (fun x => x.optics t)

/-- Whether a warm start skips steps 3 to 10. -/
def BootRec.skips (r : BootRec) : Bool :=
  r.flags.getLsbD 0 && [3, 4, 5, 6, 7, 8, 9, 10].all (fun n => [1, 2, 4, 5].contains (r.stepOf n))

/-- The steps of a start in order, from the record that it reads and what the parts report. -/
def runStart (old : BootRec) (cold : Bool) (b : Boot) (t : BootTests) : Starting :=
  let skip := !cold && old.skips
  let r : BootRec := { old with
    seq := (old.seq + 1) % 2 ^ 32, count := (old.count + 1) % 2 ^ 48, steps := [], flags := old.flags &&& (if cold then 0xE#4 else 0xF#4) }
  let x : Starting := ⟨r, b.stk, b.ismv, b.ports, b.lp, false, false⟩
  let x := x.must 1 (!t.rom) false true id
  let x := x.go (fun x => x.firmware 2 t.fwA t.fwB)
  let x := if skip then x.go (fun x => [3, 4, 5, 6, 7, 8, 9, 10].foldl (fun x n => x.mark n 4) x) else x.hardware old t
  let x := x.go (fun x =>
    let m := x.r.link
    x.must 11 (!t.hostFails.getLsbD m) (m != 0) (m == 3) (fun r => { r with link := m + 1 }))
  let x := x.go (fun x => x.firmware 12 t.tables t.tables)
  let failed := (List.range 12).any (fun n => x.r.stepOf (n + 1) == 3)
  let done := x.r.stepOf 12 == 1 || x.r.stepOf 12 == 2
  let warm := done || (!failed && x.r.flags.getLsbD 0)
  { x with r := { x.r with flags := (x.r.flags &&& 0xE#4) ||| (if warm then 1#4 else 0#4) } }

/-- A record written over the copy with the lower SEQ; an invalid copy counts as the lower. -/
def Boot.write (b : Boot) (r : BitVec 256) : Boot :=
  let seq (c : BitVec 256) : Nat := if recordOk c then recordSeq c + 1 else 0
  if seq b.copyA < seq b.copyB then { b with copyA := r }
  else if seq b.copyA = 0 ∧ seq b.copyB = 0 then { b with copyA := r }
  else { b with copyB := r }

/-- The state of a device that has just left reset, with the host's memory and the flash as they are. -/
def State.afterReset (s : State) : State :=
  { State.reset with
    host := s.host, devid := s.devid, free := s.free, nextId := s.nextId, agenda := s.agenda, boot := s.boot
    images := s.images, msi := s.msi, answer := s.answer }

/-- A start: the steps run, the record is written, and the device is up, in recovery, or waiting for its next start. The
capability fields change only at step 12. -/
def State.start (s : State) (cold : Bool) (t : BootTests) : State :=
  let b := s.boot
  let old := BootRec.of b.record
  let x := runStart old cold b t
  let bits := x.r.bits
  let up := !x.ended
  let b : Boot := { b.write bits with
    up := up, recovery := x.fatal, steps := x.r.stepBits, session := none, ide := []
    plimit := 3000, pnow := 0, penergy := 0, temp := 0, throttle := false, hot := false, atOne := false, flr := none }
  let b : Boot := if up then { b with
    rcd := bits, clpop := ~~~x.r.clOut, stk := x.stk, ismv := x.ismv, ports := x.ports, lp := x.lp } else b
  let s := { s.afterReset with boot := b }
  { s with ports := (List.range 16).filterMap (fun n =>
      if b.ports.getLsbD n then none else some (n, { Port.init with up := false })) }

/-- COLD_START: the supply is applied. -/
def execColdStart (t : BootTests) (s : State) : Res := .next (s.start true t)

/-- Whether the main input is there: a package that has stopped waits for a cold start. -/
def Boot.supplied (b : Boot) : Bool := !b.atOne && (b.up || b.steps != 0)

/-- PERST#: a warm start. -/
def execPerst (t : BootTests) (s : State) : Res := if s.boot.supplied then .next (s.start false t) else .next s

/-- Whether a kill is in progress. -/
def State.killing (s : State) : Bool := s.vds.any (fun e => e.2.st.dying)

/-- The warm start of a PF FLR, once the kills are complete. The incarnation that each virtual device has reached and the CONSUMED
bits of its contexts outlive it (R481, R510; DEDUCED, log entry 120). -/
def State.restart (s : State) (t : BootTests) : State :=
  { s.start false t with
    vds := (s.vds.filter (fun e => e.2.inc != 0 || e.2.tdi != .unlocked)).map (fun (e : Nat × VDev) =>
      (e.1, { VDev.free with inc := e.2.inc, tdi := e.2.tdi }))
    ctxs := (s.ctxs.filter (fun e => e.2.used)).map (fun (e : Nat × Context) => (e.1, { Context.fresh with used := true })) }

/-- PF FLR: every virtual device is killed first, from FENCE-IN to REINCARNATE; then a warm start. -/
def execPfFlr (t : BootTests) (s : State) : Res :=
  if !s.boot.supplied then .next s
  else
    let s := s.vds.foldl (fun s e => if e.2.st == .ready || e.2.st == .running then s.startKill e.1 .kill else s) s
    .next (if s.killing then { s with boot := { s.boot with flr := some t } } else s.restart t)

/-- The start that waits for the kills of a PF FLR begins. -/
def State.pfRestart (s : State) : Option State :=
  s.boot.flr.bind (fun t => if s.killing then none else some (s.restart t))

/-- VF FLR: as VD_RESET; one that meets a kill in progress completes with it. -/
def execVfFlr (vd : Nat) (s : State) : Res :=
  match Tab.get? s.vds vd with
  | some v => if v.st == .ready || v.st == .running then .next (s.startKill vd .reset) else .next s
  | none => .next s

/-! ## What stops or slows the package (R26, R473, R515) -/

/-- The package stops as at a loss of supply: nothing volatile is kept, and the next start is cold. The auxiliary rail goes on
feeding the root of trust, which has run: the device stays at step 1 until the supply is applied (R515; DEDUCED, log entry 121). -/
def State.stopPackage (s : State) : State :=
  { s.afterReset with boot := { s.boot with
      up := false, recovery := false, steps := 1, atOne := true, flr := none, session := none, ide := [], plimit := 3000, pnow := 0, penergy := 0, temp := 0
      throttle := false, hot := false } }

/-- UNDERVOLTAGE_STOP: the main input below 40 V. -/
def execUndervoltageStop (s : State) : Res := .next s.stopPackage

/-- OVERTEMP_STOP: a die above 115 °C. -/
def execOvertempStop (s : State) : Res := .next s.stopPackage

/-- THERMAL_THROTTLE: a die crosses 105 °C, upward or downward. -/
def execThermalThrottle (on : Bool) (s : State) : Res := .next { s with boot := { s.boot with hot := on } }

/-- PLIMIT_EXCEEDED: where the mean power exceeds the limit in force, issue and card releases of every virtual device are
throttled by weight. -/
def execPlimitExceeded (s : State) : Res :=
  if s.boot.limit < s.boot.pnow then .next { s with boot := { s.boot with throttle := true } } else .next s

/-- UNCORRECTABLE_MEMORY_ERROR: the frame is retired and its owner killed. -/
def execUncorrectableMemoryError (addr : Nat) (s : State) : Res :=
  let f := addr / 65536
  if 0x1400000 ≤ f then .next s
  else
    let vd := fotOwner (s.fotOf f)
    let s := s.setFot f (s.fotOf f ||| 0x10000000)
    match Tab.get? s.vds vd with
    | some v => if v.st == .ready || v.st == .running then .next (s.startKill vd .kill) else .next s
    | none => .next s

end Sys2Proof.Machine
end

