-- ==== Sys2Proof/Machine/Host.lean ====
section
/-! DEFINITION. Host.lean: what the host does at the device's functions: kick pages, fault answers, registers, the memory
aperture, CXL.mem, SPDM and TDISP (R451, R452, R460, R467, R468, R505 to R509, R514). -/

namespace Sys2Proof.Machine

open Sys2Proof

/-! ## Kick pages (R451, R452, R467, R468, R509) -/

/-- A virtual function takes an access: its virtual device exists, and a TDI in RUN takes only what comes on its IDE stream
with the TEE bit set, which is the world's to say. -/
def State.vfTakes (s : State) (vd : Nat) : Bool :=
  match Tab.get? s.vds vd with
  | some v => s.boot.up && v.st != .free &&
      (v.tdi != .run || ((Tab.get? s.boot.ide vd).isSome && Config.freeBool (256 * s.free + 254)))
  | none => false

/-- A queue's new TAIL: more records than entries halt it with RECBAD, one that has halted already too. -/
def State.setTail (s : State) (vd ctx k : Nat) (tail : BitVec 32) : State :=
  match Tab.get? s.queues k with
  | none => s
  | some q =>
    if !q.on then s
    else if (tail - q.head).toNat > q.size then (s.modQueue k (fun q => { q with tail := tail })).haltQueue vd ctx k .recbad
    else if q.halt ≠ .none then s.modQueue k (fun q => { q with tail := tail })
    else s.modQueue k (fun q => { q with
      tail := tail, active := tail != q.head, since := if q.head = q.tail then s.clock else q.since })

/-- KICK: ignored by a disabled queue and while a kill is in progress. -/
def State.kicked (s : State) (vd q : Nat) (val : BitVec 64) : State :=
  match Tab.get? s.vds vd with
  | none => s
  | some v =>
    if v.st.dying || 64 ≤ q then s
    else
      let ctx := (slice val 58 6).toNat
      s.setTail vd ctx (queueKey vd ctx q) (slice val 0 32)

/-- KICK. -/
def execKick (vd q : Nat) (val : BitVec 64) (s : State) : Res := .next (if s.vfTakes vd then s.kicked vd q val else s)

/-- The driver's new head of a context's fault queue: entries that waited for room are written. -/
def State.setFaultHead (s : State) (vd ctx : Nat) (val : BitVec 64) : State :=
  (s.modCtx vd ctx (fun c => { c with
    fqHead := c.fqTail - (BitVec.ofNat 32 c.fqTail - slice val 0 32).toNat })).postFaults vd ctx

/-- FAULT_HEAD. -/
def execFaultHead (vd ctx : Nat) (val : BitVec 64) (s : State) : Res :=
  .next (if s.vfTakes vd then s.setFaultHead vd ctx val else s)

/-- What waits for a page of a context: the threads and the cards that are parked on it, the waves that wait for their trap
frame, and the VCC. -/
def State.waitersOn (s : State) (vd ctx page : Nat) : Barred :=
  let here (g : Workgroup) : Bool := g.vd == vd && g.ctx == ctx
  let on (va : Nat) : Bool := va / 4096 == page
  ⟨page,
    s.waves.flatMap (fun e => if (s.wgOf e.2).any here then
      (e.2.parkArg.filter (fun x => match x.2 with | .page va _ => va / 4096 == page | _ => false)).map (fun x =>
        (e.1, x.1, e.2.pcOf x.1)) else []),
    s.wgs.flatMap (fun e => if here e.2 then
      (e.2.cards.filter (fun c => c.page.any (fun p => p.1 / 4096 == page))).map (fun c => (⟨e.1, c.seq⟩ : CardRef)) else []),
    (s.waves.filter (fun e => (s.wgOf e.2).any here && (match e.2.busy with | .frame va => on va | _ => false))).map Prod.fst,
    s.queues.any (fun e => e.1 / 64 == ctxKey vd ctx && e.2.page.any on) ||
      s.launches.any (fun e => e.2.vd == vd && e.2.ctx == ctx && e.2.waiting && on (vaOf (BitVec.ofNat 64 e.2.rcd.cntaddr)))⟩

/-- The pager's answer for a page with an entry: translations of the page are removed, and what is parked on it makes its
access again; where the page was declared unresolvable, those accesses raise XLATE or fail with it. -/
def State.faultAnswered (s : State) (vd ctx : Nat) (val : BitVec 64) : State :=
  let page := (slice val 12 45).toNat
  let res := (slice val 0 2).toNat
  match s.ctx? vd ctx with
  | none => s
  | some c =>
    if 1 < res ∨ !c.faults.any (fun f => f.va / 4096 == page && f.src != 7 && f.posted) then s
    else
      let s := s.modCtx vd ctx (fun c => { c with
        faults := c.faults.filter (fun f => !(f.va / 4096 == page && f.src != 7))
        refused := (if res = 1 then [s.waitersOn vd ctx page] else []) ++ c.refused.filter (fun e => e.page != page) })
      let s := { s with tlb := s.tlb.filter (fun e => !(e.vd == vd && e.pasid == c.pasid &&
        decide (e.base < page * 4096 + 4096) && decide (page * 4096 < e.base + e.size))) }
      (if res = 0 then s.atsTurn vd ctx (page * 4096) else s).postFaults vd ctx

/-- FAULT_ANSWER. -/
def execFaultAnswer (vd ctx : Nat) (val : BitVec 64) (s : State) : Res :=
  .next (if s.vfTakes vd then s.faultAnswered vd ctx val else s)

/-- HALT in QSTATUS. -/
def Halt.num : Halt → Nat
  | .none => 0
  | .recbad => 1
  | .seqerr => 2
  | .tagerr => 3
  | .seqend => 4
  | .ctxfault => 5
  | .killed => 6
  | .stopped => 7

/-- QSTATUS (R468). -/
def LaunchQ.status (q : LaunchQ) : Nat :=
  let st := if !q.on then 0 else if q.halt ≠ .none then 3 else if q.head = q.tail then 1 else 2
  q.rej * 2 ^ 48 + q.head.toNat * 2 ^ 16 + q.halt.num * 16 + st

/-- VDSTAT (R467). -/
def VDev.status (v : VDev) : Nat := v.inc.toNat * 2 ^ 48 + v.st.num * 256 + v.cause

/-! ## Registers (R460, R506, R514) -/

/-- A write to the kick page of a virtual device. -/
def State.kickWrite (s : State) (vd off : Nat) (val : BitVec 64) : State :=
  if off % 8 ≠ 0 then s
  else if off < 0x200 then s.kicked vd (off / 8) val
  else if off = 0x400 then s.modVd vd (fun v => { v with csel := (slice val 0 6).toNat })
  else if 0x800 ≤ off ∧ off < 0xC00 then
    if off % 16 = 0 then s.setFaultHead vd ((off - 0x800) / 16) val else s.faultAnswered vd ((off - 0x800) / 16) val
  else s

/-- A write to the physical function's BAR0: in recovery only the capability registers are there, which are read-only. -/
def State.pfWrite (s : State) (off : Nat) (val : BitVec 64) : State :=
  let m := s.mgmt
  let idle := m.head = m.tail
  if !s.boot.up then s
  else if off = 0x000 then if idle then { s with mgmt := { m with base := val.toNat / 64 * 64 } } else s
  else if off = 0x008 then if idle then { s with mgmt := { m with size := val.toNat } } else s
  else if off = 0x010 then { s with mgmt := { m with tail := slice val 0 32 } }
  else if off = 0x020 then { s with mgmt := { m with vec := slice val 0 6 } }
  else if off = 0x1100 then { s with boot := { s.boot with plimit := (slice val 0 12).toNat } }
  else if 0x2000 ≤ off ∧ off < 0x2400 ∧ off % 8 = 0 then s.msixWrite 0 ((off - 0x2000) / 8) val
  else s

/-- Whether a virtual function is enabled: its virtual device exists (R459, R505). -/
def State.vfThere (s : State) (n : Nat) : Bool := s.boot.up && n < 512 && (Tab.get? s.vds n).any (fun v => v.st != .free)

/-- The binary logarithm of the size of a virtual function's BAR4: 64 GiB until the host resizes it. -/
def State.bar4Log (s : State) (n : Nat) : Nat := Tab.getD s.bar4 n 36

/-- A virtual function's BAR4 resized, to a power of two from 1 GiB to 1 TiB: the size field of PCI Express's resizable-BAR control
register, in units of 2^20 bytes (PRESUMED, log entry 122). -/
def State.resizeBar4 (s : State) (n : Nat) (val : BitVec 64) : State :=
  let x := 20 + (slice val 8 6).toNat
  if 30 ≤ x ∧ x ≤ 40 then { s with bar4 := Tab.set 36 s.bar4 n x } else s

/-- REGISTER_WRITE: writes to offsets that no row names are ignored. The resizable-BAR control register of a virtual function stands
at "bar" 6, which is its configuration space. -/
def execRegisterWrite (fn bar off : Nat) (val : BitVec 64) (s : State) : Res :=
  match fn, bar with
  | 0, 0 => .next (s.pfWrite off val)
  | 0, _ => .next s
  | n, 0 => .next (if s.vfThere n && off < 0x400 && off % 8 == 0 then s.msixWrite n (off / 8) val else s)
  | n, 2 => .next (if s.vfTakes n then s.kickWrite n off val else s)
  | n, 6 => .next (if s.vfThere n && off == 0 then s.resizeBar4 n val else s)
  | _, _ => .next s

/-- What the registers of the physical function's BAR0 read as; other offsets read as zero. -/
def State.pfRead (s : State) (off : Nat) : Nat :=
  let b := s.boot
  let r := BootRec.of b.rcd
  match off with
  | 0x000 => if b.up then s.mgmt.base else 0
  | 0x008 => if b.up then s.mgmt.size else 0
  | 0x018 => if b.up then s.mgmt.head.toNat else 0
  | 0x020 => if b.up then s.mgmt.vec.toNat else 0
  | 0x1000 => r.spare.toNat * 2 ^ 20 + b.clpop.toNat
  | 0x1008 => r.lpMode * 2 ^ 24 + b.ismv.toNat * 2 ^ 16 + r.stkCons.toNat * 256 + b.stk.toNat
  | 0x1010 => b.ports.toNat
  | 0x1018 => r.count * 65536 + r.fwSlot.toNat * 16 + r.link
  | 0x1020 => b.steps.toNat
  | 0x1100 => if b.up then b.plimit else 0
  | 0x1108 => if b.up then b.pnow else 0
  | 0x1110 => if b.up then b.penergy.toNat else 0
  | 0x1118 => if b.up then b.temp else 0
  | 0x3000 => if b.up then (s.pbaOf 0).toNat else 0
  | o => if b.up && 0x2000 ≤ o && o < 0x2400 && o % 8 == 0 then (s.msixWord 0 ((o - 0x2000) / 8)).toNat else 0

/-- What the kick page of a virtual device reads as. -/
def State.kickRead (s : State) (n : Nat) (v : VDev) (off : Nat) : Nat :=
  if 0x200 ≤ off ∧ off < 0x400 ∧ off % 8 = 0 then
    match Tab.get? s.queues (queueKey n v.csel ((off - 0x200) / 8)) with
    | some q => q.status
    | none => 0
  else if off = 0x400 then v.csel
  else if off = 0x408 then v.status
  else 0

/-- What a register reads as: none where the function takes no access, or not this one (R509). -/
def State.registerRead (s : State) (fn bar off : Nat) : Option Nat :=
  match fn, bar with
  | 0, 0 => some (s.pfRead off)
  | 0, _ => none
  | n, 0 =>
    if !s.vfThere n then none
    else if off = 0x800 then some (s.pbaOf n).toNat
    else some (if off < 0x400 ∧ off % 8 = 0 then (s.msixWord n (off / 8)).toNat else 0)
  | n, 2 => if s.vfTakes n then (Tab.get? s.vds n).map (fun v => s.kickRead n v off) else none
  | _, _ => none

/-! ## The memory aperture and CXL.mem (R507) -/

/-- All ones, as a read beyond what an aperture reaches gives. -/
def onesBytes (n : Nat) : List Byte := List.replicate n 0xFF

/-- A host access to n bytes of device memory, of which `reach` says which byte it may touch: bytes beyond read all ones, and
writes there are dropped. Lines that peers hold are called back first; the access is then made again. -/
def State.hostAccess (s : State) (n : Nat) (reach : Nat → Option Nat) (wr : Option (BitVec 64)) : State :=
  let as := (List.range n).map reach
  let ps := as.filterMap (fun a => a.map (fun x => ((⟨.dev, x⟩ : Loc), 1)))
  match s.recallPlaces wr.isSome ps with
  | some t => { t with answer := [] }
  | none =>
    match wr with
    | none => { s with answer := as.map (fun a => match a with
        | some x => s.devByte x
        | none => 0xFF) }
    | some v => (as.zipIdx.foldl (fun (s : State) e => match e.1 with
        | some x => s.writeRaw ⟨.dev, x⟩ [BitVec.ofNat 8 (v.toNat / 256 ^ e.2)]
        | none => s) s)

/-- BAR4_ACCESS: byte o lies in the (o >> 16)-th frame of the virtual device. An offset beyond the size of the BAR is no access to
it. -/
def execBar4Access (vd off n : Nat) (wr : Option (BitVec 64)) (s : State) : Res :=
  if !s.vfTakes vd ∨ 2 ^ s.bar4Log vd < off + min n 8 then .next { s with answer := [] }
  else
    let fs := s.framesOf vd
    .next (s.hostAccess (min n 8) (fun i => (fs[(off + i) / 65536]?).map (fun f => f * 65536 + (off + i) % 65536)) wr)

/-- CXL_MEM_ACCESS: machine addresses one to one, but only frames without an owner that are not retired. -/
def execCxlMemAccess (addr n : Nat) (wr : Option (BitVec 64)) (s : State) : Res :=
  if !s.boot.up then .next { s with answer := onesBytes (min n 8) }
  else
    let open_ (a : Nat) : Bool :=
      s.framesPresent (a / 65536) 1 && fotOwner (s.fotOf (a / 65536)) == 0 && !(s.fotOf (a / 65536)).getLsbD 28
    .next (s.hostAccess (min n 8) (fun i => if open_ (addr + i) then some (addr + i) else none) wr)

/-! ## SPDM and TDISP (R508, R509) -/

/-- The capability registers 0x1000 to 0x1027, as measured. -/
def State.capBytes (s : State) : List Byte := [0x1000, 0x1008, 0x1010, 0x1018, 0x1020].flatMap (fun o => leBytes (s.pfRead o) 8)

/-- GET_MEASUREMENTS: the four blocks, the firmware's by the slot in use, signed with the device identity key. -/
def execGetMeasurements (s : State) : Res :=
  let slot := if (BootRec.of s.boot.rcd).fwSlot.getLsbD 0 then 5 else 2
  let ms := Config.measurement 1 ++ Config.measurement slot ++ Config.measurement 3 ++ Config.sha256 s.capBytes
  .next { s with answer := ms ++ Config.sign ms }

/-- KEY_EXCHANGE: the PF driver's secure session, with its exported master secret. -/
def execKeyExchange (secret : BitVec 384) (s : State) : Res := .next { s with boot := { s.boot with session := some secret } }

/-- The certificate chain in an SPDM slot: the device identity key's stands in slot 0. -/
def certificate (slot : Nat) : Option (List Byte) := if slot = 0 then some Config.certChain else none

/-- IDE_KM: the key of link IDE (0) or of a TDI's stream. It runs over SPDM, in the secure session. -/
def execIdeKm (stream : Nat) (key : BitVec 256) (s : State) : Res :=
  .next <| if s.boot.session.isNone then s else { s with boot := { s.boot with ide := Tab.put s.boot.ide stream key } }

/-- GET_DEVICE_INTERFACE_REPORT: the table entry with ENERGY, USED and LOGTAIL zeroed, and the window entries. -/
def execGetDeviceInterfaceReport (vd : Nat) (s : State) : Res :=
  match Tab.get? s.vds vd with
  | none => .next { s with answer := [] }
  | some v =>
    let e := BitVec.ofNat 512 (s.entry vd { v with energy := 0, logtail := 0 })
    let e := e &&& ~~~((0x1FFFFFF#512) <<< 359)
    .next { s with answer := leBytes e.toNat 64 ++
      (List.range 1024).flatMap (fun w => leBytes (Tab.getD v.windows w 0).toNat 16) }

/-- A TDI moved from a state where a request is legal. -/
def State.moveTdi (s : State) (vd : Nat) (f : Tdi → Tdi) : State := s.modVd vd (fun v => { v with tdi := f v.tdi })

/-- LOCK_INTERFACE: an unlocked TDI of a virtual function that is enabled is locked. -/
def execLockInterface (vd : Nat) (s : State) : Res :=
  match Tab.get? s.vds vd with
  | some v => .next (if v.st = .free then s else s.moveTdi vd (fun t => if t = .unlocked then .locked else t))
  | none => .next s

/-- START_INTERFACE: a locked TDI runs. -/
def execStartInterface (vd : Nat) (s : State) : Res := .next (s.moveTdi vd (fun t => if t = .locked then .run else t))

/-- STOP_INTERFACE: the TDI is unlocked. -/
def execStopInterface (vd : Nat) (s : State) : Res := .next (s.moveTdi vd (fun _ => .unlocked))

end Sys2Proof.Machine
end

