-- ==== Sys2Proof/Machine/Pair.lean ====
section
/-! DEFINITION. Pair.lean: the P word (R83 to R87) and the words that no opcode decodes (R70, R71, R93). -/

namespace Sys2Proof.Machine

open Sys2Proof

/-- The scalar half of a P word as the F instruction with MOD = 0: its value and the flags that it sets. -/
def pairScalar (o : PairS) (a b : Word) (aw : DWord) : DWord × BitVec 7 :=
  let x := a.setWidth 64
  let y := b.setWidth 64
  match o with
  | .iadd => narrowInt 32 false false (a.toInt + b.toInt)
  | .isub => narrowInt 32 false false (a.toInt - b.toInt)
  | .imul => narrowInt 32 false false (a.toInt * b.toInt)
  | .imin => narrowInt 32 false false (min a.toInt b.toInt)
  | .imax => narrowInt 32 false false (max a.toInt b.toInt)
  | .and => plain (x &&& y)
  | .or => plain (x ||| y)
  | .xor => plain (x ^^^ y)
  | .shl => plain (shlBits 32 x (shiftCount 32 false b))
  | .shr => plain (shrBits 32 x (shiftCount 32 false b))
  | .sar => plain (sarBits 32 x (shiftCount 32 false b))
  | .mov => plain x
  | .andn => plain (x &&& ~~~y)
  | .iaddw => narrowInt 64 false false (aw.toInt + b.toInt)
  | .popc => count (popCount a)
  | .nop => plain 0

/-- The vector half of a P word in one lane. -/
def pairVector (o : PairV) (r : Rd) (a b : Src) (l : Nat) (z : Word) : LaneOut :=
  let e : FEnv := ⟨r.w.rm, false, r.w.ftz⟩
  let x := r.w32 a l
  let y := r.w32 b l
  let int (s : PairS) : LaneOut := let p := pairScalar s x y 0; ⟨p.1, p.2, z⟩
  let fl (g : Num → Num → Num × BitVec 7) : LaneOut :=
    finish .f32 e z (g (r.f32 e.flush noMod a l) (r.f32 e.flush noMod b l))
  let pk (g : Num → Num → Num × BitVec 7) : LaneOut :=
    packedOp .f16 e z (fun i => g (Fmt.f16.val (r.half .f16 e.flush noMod a i l))
      (Fmt.f16.val (r.half .f16 e.flush noMod b i l)))
  let noDraw (p : DWord × BitVec 7) : LaneOut := ⟨p.1, p.2, z⟩
  match o with
  | .iadd => int .iadd
  | .isub => int .isub
  | .imul => int .imul
  | .imin => int .imin
  | .imax => int .imax
  | .and => int .and
  | .or => int .or
  | .xor => int .xor
  | .shl => int .shl
  | .shr => int .shr
  | .sar => int .sar
  | .mov => int .mov
  | .fadd => fl (addNum (e.mode == .rd))
  | .fsub => fl (fun a b => addNum (e.mode == .rd) a b.negate)
  | .fmul => fl mulNum
  | .fmin => noDraw (minMax32 false a b noMod noMod false r l)
  | .fmax => noDraw (minMax32 true a b noMod noMod false r l)
  | .hadd2 => pk (addNum (e.mode == .rd))
  | .hmul2 => pk mulNum
  | .hmin2 => noDraw (minMax16 false a b noMod noMod false .f16 r l)
  | .hmax2 => noDraw (minMax16 true a b noMod noMod false .f16 r l)
  | .nop => ⟨0, 0, z⟩

/-- The vector halves that round. -/
def pairRounds : PairV → Bool
  | .fadd | .fsub | .fmul | .hadd2 | .hmul2 => true
  | _ => false

/-- The scalar registers that a scalar half writes. -/
def pairSRegs (o : PairS) (n : Nat) : List Nat :=
  match o with
  | .nop => []
  | .iaddw => [n, n + 1]
  | _ => [n]

/-- The scalar half enters the wave: once, if a lane participates. -/
def Wave.pairS (w : Wave) (o : PairS) (n : BitVec 6) (part : Mask) (x : DWord × BitVec 7) : Wave :=
  match part.lowest with
  | none => w
  | some l => if o = .nop then w else (w.putS n.toNat (o == .iaddw) x.1).addFlags l x.2

/-- PAIR_WORD: both halves read before either writes; the vector half's result enters `b0` (R84, R87). A P word writes
back, so it closes an open chain (R89); so does NOP ∥ NOP (DESIGN CHOICE, log entry 73). -/
def execPairWord (g : Guard) (so : PairS) (sdst : BitVec 6) (sa sb : Src) (vo : PairV) (vdst : BitVec 6) (va vb : Src)
    (s : State) : Res :=
  match s.iss g 8 with
  | none => .fault .noIssuingWave
  | some i =>
    let rs := i.rd s true
    let rv := i.rd s false
    if [sa, sb].any rs.latchTrap || [va, vb].any rv.latchTrap then .next (i.trap s .latch i.act)
    else if neverGuard g then .next (s.setWave i.k (i.step i.w))
    else
      let on := i.part != 0
      let vr := if on && vo != .nop then [vdst.toNat] else []
      match s.permit i.w vr (if on then pairSRegs so sdst.toNat else []) (on && pairRounds vo && i.w.rm == .sr) 0 with
      | none => .next (s.stallSpec i.k)
      | some w =>
        let i := { i with w := w }
        let x := pairScalar so (rs.w32 sa i.lane) (rs.w32 sb i.lane) (rs.val sa .w64 i.lane)
        let v := perLane (.v vdst) (pairVector vo · va vb) i rv
        let w := if vo = .nop then { i.w with chain := 0 } else v.2.takeResult (.v vdst) false v.1
        .next (s.setWave i.k (i.step (w.pairS so sdst i.part x)))

/-- A word that no opcode decodes raises ILLOP; inside an open chain the same check comes first (R71). -/
def execIllegalWord (_w : BitVec 64) (s : State) : Res :=
  match s.iss ⟨false, 7⟩ 8 with
  | none => .fault .noIssuingWave
  | some i => .next (i.trap s .illop i.act)

end Sys2Proof.Machine
end

