-- ==== Sys2Proof/Machine/Dispatch.lean ====
section
/-! DEFINITION. Dispatch.lean: the meaning of every instruction and event, one arm each. -/

namespace Sys2Proof.Machine

open Sys2Proof

/-- One instruction or event on a state. -/
def exec (i : Instr) (s : State) : Host.Outcome State Fault Refusal :=
  match i with
  | .iadd h d a b u sat => Sys2Proof.Machine.execIadd h d a b u sat s
  | .isub h d a b u sat => Sys2Proof.Machine.execIsub h d a b u sat s
  | .iadd3 h d a b c u sat => Sys2Proof.Machine.execIadd3 h d a b c u sat s
  | .iaddw h d a b u sat => Sys2Proof.Machine.execIaddw h d a b u sat s
  | .isubw h d a b u sat => Sys2Proof.Machine.execIsubw h d a b u sat s
  | .imul h d a b u sat => Sys2Proof.Machine.execImul h d a b u sat s
  | .imulhi h d a b u => Sys2Proof.Machine.execImulhi h d a b u s
  | .imad h d a b c u sat => Sys2Proof.Machine.execImad h d a b c u sat s
  | .imadw h d a b c u sat => Sys2Proof.Machine.execImadw h d a b c u sat s
  | .imin h d a b u w => Sys2Proof.Machine.execImin h d a b u w s
  | .imax h d a b u w => Sys2Proof.Machine.execImax h d a b u w s
  | .iabs h d a sat => Sys2Proof.Machine.execIabs h d a sat s
  | .idiff h d a b u => Sys2Proof.Machine.execIdiff h d a b u s
  | .iclamp h d a lo hi u => Sys2Proof.Machine.execIclamp h d a lo hi u s
  | .icmp h pd a b cmp u comb => Sys2Proof.Machine.execIcmp h pd a b cmp u comb s
  | .icmpw h pd a b cmp u comb => Sys2Proof.Machine.execIcmpw h pd a b cmp u comb s
  | .isel h d a b ps pn w => Sys2Proof.Machine.execIsel h d a b ps pn w s
  | .mov h d a => Sys2Proof.Machine.execMov h d a s
  | .movw h d a => Sys2Proof.Machine.execMovw h d a s
  | .movhi h d a b => Sys2Proof.Machine.execMovhi h d a b s
  | .iext h d a mode => Sys2Proof.Machine.execIext h d a mode s
  | .idiv h d a b u sat w => Sys2Proof.Machine.execIdiv h d a b u sat w s
  | .irem h d a b u w => Sys2Proof.Machine.execIrem h d a b u w s
  | .lea h d a b c u sh => Sys2Proof.Machine.execLea h d a b c u sh s
  | .and h d a b w => Sys2Proof.Machine.execAnd h d a b w s
  | .or h d a b w => Sys2Proof.Machine.execOr h d a b w s
  | .xor h d a b w => Sys2Proof.Machine.execXor h d a b w s
  | .andn h d a b w => Sys2Proof.Machine.execAndn h d a b w s
  | .lop3 h d a b c w lut => Sys2Proof.Machine.execLop3 h d a b c w lut s
  | .shl h d a b wrap => Sys2Proof.Machine.execShl h d a b wrap s
  | .shr h d a b wrap => Sys2Proof.Machine.execShr h d a b wrap s
  | .sar h d a b wrap => Sys2Proof.Machine.execSar h d a b wrap s
  | .shf h d a b c dir wrap => Sys2Proof.Machine.execShf h d a b c dir wrap s
  | .shlw h d a b wrap => Sys2Proof.Machine.execShlw h d a b wrap s
  | .shrw h d a b wrap => Sys2Proof.Machine.execShrw h d a b wrap s
  | .sarw h d a b wrap => Sys2Proof.Machine.execSarw h d a b wrap s
  | .bfe h d a ctl sx w => Sys2Proof.Machine.execBfe h d a ctl sx w s
  | .bfi h d a b ctl w => Sys2Proof.Machine.execBfi h d a b ctl w s
  | .popc h d a w => Sys2Proof.Machine.execPopc h d a w s
  | .clz h d a w => Sys2Proof.Machine.execClz h d a w s
  | .ctz h d a w => Sys2Proof.Machine.execCtz h d a w s
  | .brev h d a w => Sys2Proof.Machine.execBrev h d a w s
  | .bperm h d a b sel => Sys2Proof.Machine.execBperm h d a b sel s
  | .ballot h d ps pn => Sys2Proof.Machine.execBallot h d ps pn s
  | .vote h mode pd ps pn => Sys2Proof.Machine.execVote h mode pd ps pn s
  | .ppopc h d ps pn => Sys2Proof.Machine.execPpopc h d ps pn s
  | .mrank h d ps pn => Sys2Proof.Machine.execMrank h d ps pn s
  | .shfl h d a b mode seg w => Sys2Proof.Machine.execShfl h d a b mode seg w s
  | .rdlane h d vs b w => Sys2Proof.Machine.execRdlane h d vs b w s
  | .wrlane h d a b w => Sys2Proof.Machine.execWrlane h d a b w s
  | .wred h d vs op w => Sys2Proof.Machine.execWred h d vs op w s
  | .wscan h d a op w excl => Sys2Proof.Machine.execWscan h d a op w excl s
  | .matchLane h d a w => Sys2Proof.Machine.execMatchLane h d a w s
  | .elect h pd d => Sys2Proof.Machine.execElect h pd d s
  | .plop h pd pa pb lut => Sys2Proof.Machine.execPlop h pd pa pb lut s
  | .s2p h pd a mask => Sys2Proof.Machine.execS2p h pd a mask s
  | .fadd h d a b ma mb m => Sys2Proof.Machine.execFadd h d a b ma mb m s
  | .fsub h d a b ma mb m => Sys2Proof.Machine.execFsub h d a b ma mb m s
  | .fmul h d a b ma mb m => Sys2Proof.Machine.execFmul h d a b ma mb m s
  | .ffma h d a b c ma mb mc m => Sys2Proof.Machine.execFfma h d a b c ma mb mc m s
  | .fmin h d a b ma mb ftz => Sys2Proof.Machine.execFmin h d a b ma mb ftz s
  | .fmax h d a b ma mb ftz => Sys2Proof.Machine.execFmax h d a b ma mb ftz s
  | .fcmp h pd a b ma mb cmp comb => Sys2Proof.Machine.execFcmp h pd a b ma mb cmp comb s
  | .fclass h d a => Sys2Proof.Machine.execFclass h d a s
  | .frnd h d a ma rm ftz => Sys2Proof.Machine.execFrnd h d a ma rm ftz s
  | .fscale h d a b ma m => Sys2Proof.Machine.execFscale h d a b ma m s
  | .fdiv h d a b ma mb m => Sys2Proof.Machine.execFdiv h d a b ma mb m s
  | .frcp h d a ma ftz => Sys2Proof.Machine.execFrcp h d a ma ftz s
  | .frsq h d a ma ftz => Sys2Proof.Machine.execFrsq h d a ma ftz s
  | .fsqrt h d a ma rm ftz => Sys2Proof.Machine.execFsqrt h d a ma rm ftz s
  | .fexp2 h d a ma ftz => Sys2Proof.Machine.execFexp2 h d a ma ftz s
  | .flog2 h d a ma ftz => Sys2Proof.Machine.execFlog2 h d a ma ftz s
  | .fsin h d a ma ftz => Sys2Proof.Machine.execFsin h d a ma ftz s
  | .fcos h d a ma ftz => Sys2Proof.Machine.execFcos h d a ma ftz s
  | .ftanh h d a ma ftz => Sys2Proof.Machine.execFtanh h d a ma ftz s
  | .hadd2 h d a b ma mb m fmt => Sys2Proof.Machine.execHadd2 h d a b ma mb m fmt s
  | .hmul2 h d a b ma mb m fmt => Sys2Proof.Machine.execHmul2 h d a b ma mb m fmt s
  | .hfma2 h d a b c ma mb mc m fmt => Sys2Proof.Machine.execHfma2 h d a b c ma mb mc m fmt s
  | .hmin2 h d a b ma mb ftz fmt => Sys2Proof.Machine.execHmin2 h d a b ma mb ftz fmt s
  | .hmax2 h d a b ma mb ftz fmt => Sys2Proof.Machine.execHmax2 h d a b ma mb ftz fmt s
  | .hdot2 h d a b c ma mb mc m fmt => Sys2Proof.Machine.execHdot2 h d a b c ma mb mc m fmt s
  | .qdot4 h d a b c fc inf rm sat => Sys2Proof.Machine.execQdot4 h d a b c fc inf rm sat s
  | .cvt h d a sf df m => Sys2Proof.Machine.execCvt h d a sf df m s
  | .f2i h d a sf it rm ftz => Sys2Proof.Machine.execF2i h d a sf it rm ftz s
  | .i2f h d a df it m => Sys2Proof.Machine.execI2f h d a df it m s
  | .hpack h d a b m fmt => Sys2Proof.Machine.execHpack h d a b m fmt s
  | .hunpk h d a half ftz fmt => Sys2Proof.Machine.execHunpk h d a half ftz fmt s
  | .qpack h d a fw e n => Sys2Proof.Machine.execQpack h d a fw e n s
  | .qunpk h d a fw e n => Sys2Proof.Machine.execQunpk h d a fw e n s
  | .q4pack h d a fw e n => Sys2Proof.Machine.execQ4pack h d a fw e n s
  | .q4unpk h d a fw e n => Sys2Proof.Machine.execQ4unpk h d a fw e n s
  | .bscale h d a fw fit => Sys2Proof.Machine.execBscale h d a fw fit s
  | .pairWord g so sdst sa sb vo vdst va vb => Sys2Proof.Machine.execPairWord g so sdst sa sb vo vdst va vb s
  | .illegalWord w => Sys2Proof.Machine.execIllegalWord w s
  | .bra h t uni lb => Sys2Proof.Machine.execBra h t uni lb s
  | .brx h a rel uni => Sys2Proof.Machine.execBrx h a rel uni s
  | .call h link t uni => Sys2Proof.Machine.execCall h link t uni s
  | .callx h link a rel uni => Sys2Proof.Machine.execCallx h link a rel uni s
  | .ret h a uni => Sys2Proof.Machine.execRet h a uni s
  | .exit h tail => Sys2Proof.Machine.execExit h tail s
  | .yield h => Sys2Proof.Machine.execYield h s
  | .nop h => Sys2Proof.Machine.execNop h s
  | .sleep h a => Sys2Proof.Machine.execSleep h a s
  | .syncst h => Sys2Proof.Machine.execSyncst h s
  | .cjoin h sd g => Sys2Proof.Machine.execCjoin h sd g s
  | .cleave h => Sys2Proof.Machine.execCleave h s
  | .cbr h mode hint ps pn off site => Sys2Proof.Machine.execCbr h mode hint ps pn off site s
  | .cbrw h mode ps pn off site => Sys2Proof.Machine.execCbrw h mode ps pn off site s
  | .csync h sd => Sys2Proof.Machine.execCsync h sd s
  | .cstat h dd g => Sys2Proof.Machine.execCstat h dd g s
  | .ld h d m sz sx acq scope => Sys2Proof.Machine.execLd h d m sz sx acq scope s
  | .st h m a sz rel scope => Sys2Proof.Machine.execSt h m a sz rel scope s
  | .ldl h d m sz sx acq scope => Sys2Proof.Machine.execLdl h d m sz sx acq scope s
  | .stl h m a sz rel scope => Sys2Proof.Machine.execStl h m a sz rel scope s
  | .ldfe h d m sz sx clr tryPd scope => Sys2Proof.Machine.execLdfe h d m sz sx clr tryPd scope s
  | .stfe h m a sz scope => Sys2Proof.Machine.execStfe h m a sz scope s
  | .feset h m len val scope => Sys2Proof.Machine.execFeset h m len val scope s
  | .ldu h d m sz sx acq scope => Sys2Proof.Machine.execLdu h d m sz sx acq scope s
  | .stu h m a sz rel scope => Sys2Proof.Machine.execStu h m a sz rel scope s
  | .cstore h m a ps pn sz rel scope => Sys2Proof.Machine.execCstore h m a ps pn sz rel scope s
  | .xload h d m who sz sx park acq scope => Sys2Proof.Machine.execXload h d m who sz sx park acq scope s
  | .atom h d m a op sz ord scope => Sys2Proof.Machine.execAtom h d m a op sz ord scope s
  | .atomcas h d base c n sz ord scope => Sys2Proof.Machine.execAtomcas h d base c n sz ord scope s
  | .atomf h d m a op ty ord scope => Sys2Proof.Machine.execAtomf h d m a op ty ord scope s
  | .red h m a op sz rel scope => Sys2Proof.Machine.execRed h m a op sz rel scope s
  | .atoml h d m a op sz ord scope => Sys2Proof.Machine.execAtoml h d m a op sz ord scope s
  | .atomlcas h d base c n sz ord scope => Sys2Proof.Machine.execAtomlcas h d base c n sz ord scope s
  | .fence h kind scope => Sys2Proof.Machine.execFence h kind scope s
  | .cmaint h m len op scope => Sys2Proof.Machine.execCmaint h m len op scope s
  | .icinv h m len scope => Sys2Proof.Machine.execIcinv h m len scope s
  | .tres h sd base len pri => Sys2Proof.Machine.execTres h sd base len pri s
  | .trel h a => Sys2Proof.Machine.execTrel h a s
  | .tevict h a => Sys2Proof.Machine.execTevict h a s
  | .tdemote h a => Sys2Proof.Machine.execTdemote h a s
  | .barinit h m n => Sys2Proof.Machine.execBarinit h m n s
  | .bararv h sd m n => Sys2Proof.Machine.execBararv h sd m n s
  | .barwt h m ph => Sys2Proof.Machine.execBarwt h m ph s
  | .bar h m n => Sys2Proof.Machine.execBar h m n s
  | .cntadd h m a w l scope => Sys2Proof.Machine.execCntadd h m a w l scope s
  | .cntwt h m t l tryPd scope => Sys2Proof.Machine.execCntwt h m t l tryPd scope s
  | .qinit h a q => Sys2Proof.Machine.execQinit h a q s
  | .qpush h m q tryPd => Sys2Proof.Machine.execQpush h m q tryPd s
  | .qpop h m q tryPd => Sys2Proof.Machine.execQpop h m q tryPd s
  | .qstat h sd q => Sys2Proof.Machine.execQstat h sd q s
  | .snext h close => Sys2Proof.Machine.execSnext h close s
  | .gset h sd => Sys2Proof.Machine.execGset h sd s
  | .gres h a val => Sys2Proof.Machine.execGres h a val s
  | .jcopy h desc j => Sys2Proof.Machine.execJcopy h desc j s
  | .jgen h desc j => Sys2Proof.Machine.execJgen h desc j s
  | .jfill h desc j => Sys2Proof.Machine.execJfill h desc j s
  | .jmcast h desc j => Sys2Proof.Machine.execJmcast h desc j s
  | .jmma h fw db j => Sys2Proof.Machine.execJmma h fw db j s
  | .jacc h fw db j => Sys2Proof.Machine.execJacc h fw db j s
  | .jmv h fw db j => Sys2Proof.Machine.execJmv h fw db j s
  | .jattn h fw db j => Sys2Proof.Machine.execJattn h fw db j s
  | .jrot h fw db j => Sys2Proof.Machine.execJrot h fw db j s
  | .jpub h n => Sys2Proof.Machine.execJpub h n s
  | .jcancel h sd seq => Sys2Proof.Machine.execJcancel h sd seq s
  | .jstat h sd seq => Sys2Proof.Machine.execJstat h sd seq s
  | .jstatRing h sd => Sys2Proof.Machine.execJstatRing h sd s
  | .kvapp h sd t n src scope => Sys2Proof.Machine.execKvapp h sd t n src scope s
  | .kvref h sd pool ent rel scope => Sys2Proof.Machine.execKvref h sd pool ent rel scope s
  | .kvdem h sd t ix pro scope => Sys2Proof.Machine.execKvdem h sd t ix pro scope s
  | .kvlook h dd t ix scope => Sys2Proof.Machine.execKvlook h dd t ix scope s
  | .kvfork h sd dst src scope => Sys2Proof.Machine.execKvfork h sd dst src scope s
  | .rsig h m a w scope => Sys2Proof.Machine.execRsig h m a w scope s
  | .rflush h m len inv scope => Sys2Proof.Machine.execRflush h m len inv scope s
  | .rflushAll h n inv scope => Sys2Proof.Machine.execRflushAll h n inv scope s
  | .movsr h d idx => Sys2Proof.Machine.execMovsr h d idx s
  | .movrs h a idx => Sys2Proof.Machine.execMovrs h a idx s
  | .trap h code => Sys2Proof.Machine.execTrap h code s
  | .rft h => Sys2Proof.Machine.execRft h s
  | .brk h code => Sys2Proof.Machine.execBrk h code s
  | .stsrd h d m => Sys2Proof.Machine.execStsrd h d m s
  | .intr h sd n => Sys2Proof.Machine.execIntr h sd n s
  | .probe h d m => Sys2Proof.Machine.execProbe h d m s
  | .tlbinv h m n scope => Sys2Proof.Machine.execTlbinv h m n scope s
  | .tlbinvAll h scope => Sys2Proof.Machine.execTlbinvAll h scope s
  | .pmrd h dd cid => Sys2Proof.Machine.execPmrd h dd cid s
  | .pmctl h sd cid ctl => Sys2Proof.Machine.execPmctl h sd cid ctl s
  | .pmctlVal h sd cid val => Sys2Proof.Machine.execPmctlVal h sd cid val s
  | .lcurd h dd cid fld => Sys2Proof.Machine.execLcurd h dd cid fld s
  | .mark h op tag => Sys2Proof.Machine.execMark h op tag s
  | .fairnessEvent w => Sys2Proof.Machine.execFairnessEvent w s
  | .threadResume w lane => Sys2Proof.Machine.execThreadResume w lane s
  | .sleepExpire w => Sys2Proof.Machine.execSleepExpire w s
  | .stageReassign w => Sys2Proof.Machine.execStageReassign w s
  | .launchRecordRead vd ctx => Sys2Proof.Machine.execLaunchRecordRead vd ctx s
  | .gangPlacement vd => Sys2Proof.Machine.execGangPlacement vd s
  | .waveRetire w => Sys2Proof.Machine.execWaveRetire w s
  | .workgroupRetire g => Sys2Proof.Machine.execWorkgroupRetire g s
  | .launchCompletionAdd l => Sys2Proof.Machine.execLaunchCompletionAdd l s
  | .preemptRequest sp => Sys2Proof.Machine.execPreemptRequest sp s
  | .waveHalt w => Sys2Proof.Machine.execWaveHalt w s
  | .preemptTimeout w => Sys2Proof.Machine.execPreemptTimeout w s
  | .contextSave vd ctx => Sys2Proof.Machine.execContextSave vd ctx s
  | .contextRestore vd ctx => Sys2Proof.Machine.execContextRestore vd ctx s
  | .trapEntry w => Sys2Proof.Machine.execTrapEntry w s
  | .cardAdmit core => Sys2Proof.Machine.execCardAdmit core s
  | .cardRelease core => Sys2Proof.Machine.execCardRelease core s
  | .cardStart e => Sys2Proof.Machine.execCardStart e s
  | .engineGranuleWrite e => Sys2Proof.Machine.execEngineGranuleWrite e s
  | .cardPark e => Sys2Proof.Machine.execCardPark e s
  | .cardFinish e => Sys2Proof.Machine.execCardFinish e s
  | .cardFail e => Sys2Proof.Machine.execCardFail e s
  | .cardCancelStop e => Sys2Proof.Machine.execCardCancelStop e s
  | .qpushCommit g q => Sys2Proof.Machine.execQpushCommit g q s
  | .qpopCopyDone g q => Sys2Proof.Machine.execQpopCopyDone g q s
  | .ismvChunk stack => Sys2Proof.Machine.execIsmvChunk stack s
  | .engineDrainTimeout e => Sys2Proof.Machine.execEngineDrainTimeout e s
  | .attnStep core => Sys2Proof.Machine.execAttnStep core s
  | .kvHomeOperation die => Sys2Proof.Machine.execKvHomeOperation die s
  | .kvdemCopyDone die => Sys2Proof.Machine.execKvdemCopyDone die s
  | .dwellStart port => Sys2Proof.Machine.execDwellStart port s
  | .portLinkLoss port => Sys2Proof.Machine.execPortLinkLoss port s
  | .rds p => Sys2Proof.Machine.execRds p s
  | .rdo p => Sys2Proof.Machine.execRdo p s
  | .wb p => Sys2Proof.Machine.execWb p s
  | .rdu p => Sys2Proof.Machine.execRdu p s
  | .wru p => Sys2Proof.Machine.execWru p s
  | .atm p => Sys2Proof.Machine.execAtm p s
  | .sig p => Sys2Proof.Machine.execSig p s
  | .inv p => Sys2Proof.Machine.execInv p s
  | .iack p => Sys2Proof.Machine.execIack p s
  | .data p => Sys2Proof.Machine.execData p s
  | .ack p => Sys2Proof.Machine.execAck p s
  | .nack p => Sys2Proof.Machine.execNack p s
  | .retire p => Sys2Proof.Machine.execRetire p s
  | .rack p => Sys2Proof.Machine.execRack p s
  | .announce p => Sys2Proof.Machine.execAnnounce p s
  | .flitDrop port p => Sys2Proof.Machine.execFlitDrop port p s
  | .reincarnationTimeout vd dev => Sys2Proof.Machine.execReincarnationTimeout vd dev s
  | .oldKeyDrop vd dev => Sys2Proof.Machine.execOldKeyDrop vd dev s
  | .streamFault vd dev => Sys2Proof.Machine.execStreamFault vd dev s
  | .consensusPhase phase => Sys2Proof.Machine.execConsensusPhase phase s
  | .consensusVote w => Sys2Proof.Machine.execConsensusVote w s
  | .consensusUp f => Sys2Proof.Machine.execConsensusUp f s
  | .consensusDown f => Sys2Proof.Machine.execConsensusDown f s
  | .consensusRestart f => Sys2Proof.Machine.execConsensusRestart f s
  | .consensusMemberLost f => Sys2Proof.Machine.execConsensusMemberLost f s
  | .consensusRoundTimeout g => Sys2Proof.Machine.execConsensusRoundTimeout g s
  | .specCommit w => Sys2Proof.Machine.execSpecCommit w s
  | .specRollback w => Sys2Proof.Machine.execSpecRollback w s
  | .cbrwResolve w => Sys2Proof.Machine.execCbrwResolve w s
  | .rotGrant p => Sys2Proof.Machine.execRotGrant p s
  | .rotPiece p => Sys2Proof.Machine.execRotPiece p s
  | .rotAck p => Sys2Proof.Machine.execRotAck p s
  | .rotAbort p => Sys2Proof.Machine.execRotAbort p s
  | .rotTimeout core => Sys2Proof.Machine.execRotTimeout core s
  | .rotHeldGrantExpire vd fg => Sys2Proof.Machine.execRotHeldGrantExpire vd fg s
  | .atsInvalidation vd ctx va pages => Sys2Proof.Machine.execAtsInvalidation vd ctx va pages s
  | .migrationLockRequest frame host dev => Sys2Proof.Machine.execMigrationLockRequest frame host dev s
  | .migrationDone frame => Sys2Proof.Machine.execMigrationDone frame s
  | .migrationHoldoffExpire frame host => Sys2Proof.Machine.execMigrationHoldoffExpire frame host s
  | .scrubSweepPage frame page => Sys2Proof.Machine.execScrubSweepPage frame page s
  | .sliceEnd sp => Sys2Proof.Machine.execSliceEnd sp s
  | .watchdogExpire vd => Sys2Proof.Machine.execWatchdogExpire vd s
  | .killDrainComplete vd => Sys2Proof.Machine.execKillDrainComplete vd s
  | .reincarnationComplete vd => Sys2Proof.Machine.execReincarnationComplete vd s
  | .pcapExceeded vd => Sys2Proof.Machine.execPcapExceeded vd s
  | .vdCreate c => Sys2Proof.Machine.execVdCreate c s
  | .vdConfigParams c => Sys2Proof.Machine.execVdConfigParams c s
  | .vdConfigContext c => Sys2Proof.Machine.execVdConfigContext c s
  | .vdConfigFormat c => Sys2Proof.Machine.execVdConfigFormat c s
  | .vdConfigQueue c => Sys2Proof.Machine.execVdConfigQueue c s
  | .vdConfigQueueKey c => Sys2Proof.Machine.execVdConfigQueueKey c s
  | .vdConfigPartition c => Sys2Proof.Machine.execVdConfigPartition c s
  | .vdConfigFabricRes c => Sys2Proof.Machine.execVdConfigFabricRes c s
  | .vdConfigWindow c => Sys2Proof.Machine.execVdConfigWindow c s
  | .vdGrantMem c => Sys2Proof.Machine.execVdGrantMem c s
  | .vdRevokeMem c => Sys2Proof.Machine.execVdRevokeMem c s
  | .vdBindKeyMemory c => Sys2Proof.Machine.execVdBindKeyMemory c s
  | .vdBindKeyPartition c => Sys2Proof.Machine.execVdBindKeyPartition c s
  | .vdBindKeyPending c => Sys2Proof.Machine.execVdBindKeyPending c s
  | .vdStart c => Sys2Proof.Machine.execVdStart c s
  | .vdStop c => Sys2Proof.Machine.execVdStop c s
  | .vdKill c => Sys2Proof.Machine.execVdKill c s
  | .vdReset c => Sys2Proof.Machine.execVdReset c s
  | .vdDestroy c => Sys2Proof.Machine.execVdDestroy c s
  | .vdMigBegin c => Sys2Proof.Machine.execVdMigBegin c s
  | .vdMigRound c => Sys2Proof.Machine.execVdMigRound c s
  | .vdMigFinal c => Sys2Proof.Machine.execVdMigFinal c s
  | .vdMigCommitSource c => Sys2Proof.Machine.execVdMigCommitSource c s
  | .vdMigCommitImport c => Sys2Proof.Machine.execVdMigCommitImport c s
  | .vdMigCommitAbort c => Sys2Proof.Machine.execVdMigCommitAbort c s
  | .fgCreateFabric c => Sys2Proof.Machine.execFgCreateFabric c s
  | .fgDeleteFabric c => Sys2Proof.Machine.execFgDeleteFabric c s
  | .fgCreateConsensus c => Sys2Proof.Machine.execFgCreateConsensus c s
  | .fgDeleteConsensus c => Sys2Proof.Machine.execFgDeleteConsensus c s
  | .fgAdd c => Sys2Proof.Machine.execFgAdd c s
  | .irqMap c => Sys2Proof.Machine.execIrqMap c s
  | .ctrGrant c => Sys2Proof.Machine.execCtrGrant c s
  | .ctrRevoke c => Sys2Proof.Machine.execCtrRevoke c s
  | .status c => Sys2Proof.Machine.execStatus c s
  | .badop c => Sys2Proof.Machine.execBadop c s
  | .kick vd q val => Sys2Proof.Machine.execKick vd q val s
  | .faultHead vd ctx val => Sys2Proof.Machine.execFaultHead vd ctx val s
  | .faultAnswer vd ctx val => Sys2Proof.Machine.execFaultAnswer vd ctx val s
  | .registerWrite fn bar off val => Sys2Proof.Machine.execRegisterWrite fn bar off val s
  | .bar4Access vd off n wr => Sys2Proof.Machine.execBar4Access vd off n wr s
  | .cxlMemAccess addr n wr => Sys2Proof.Machine.execCxlMemAccess addr n wr s
  | .vfFlr vd => Sys2Proof.Machine.execVfFlr vd s
  | .pfFlr t => Sys2Proof.Machine.execPfFlr t s
  | .perst t => Sys2Proof.Machine.execPerst t s
  | .coldStart t => Sys2Proof.Machine.execColdStart t s
  | .undervoltageStop => Sys2Proof.Machine.execUndervoltageStop s
  | .overtempStop => Sys2Proof.Machine.execOvertempStop s
  | .thermalThrottle on => Sys2Proof.Machine.execThermalThrottle on s
  | .getMeasurements => Sys2Proof.Machine.execGetMeasurements s
  | .keyExchange secret => Sys2Proof.Machine.execKeyExchange secret s
  | .getDeviceInterfaceReport vd => Sys2Proof.Machine.execGetDeviceInterfaceReport vd s
  | .stopInterface vd => Sys2Proof.Machine.execStopInterface vd s
  | .uncorrectableMemoryError addr => Sys2Proof.Machine.execUncorrectableMemoryError addr s
  | .lockInterface vd => Sys2Proof.Machine.execLockInterface vd s
  | .startInterface vd => Sys2Proof.Machine.execStartInterface vd s
  | .ideKm stream key => Sys2Proof.Machine.execIdeKm stream key s
  | .hostCoherenceRecall line => Sys2Proof.Machine.execHostCoherenceRecall line s
  | .relayHop p => Sys2Proof.Machine.execRelayHop p s
  | .linkReplay port flits => Sys2Proof.Machine.execLinkReplay port flits s
  | .allowanceRequest src vd cls => Sys2Proof.Machine.execAllowanceRequest src vd cls s
  | .plimitExceeded => Sys2Proof.Machine.execPlimitExceeded s
  | .queueLevelSample die level => Sys2Proof.Machine.execQueueLevelSample die level s

end Sys2Proof.Machine
end

