-- ==== Sys2Proof/Machine/Hazard.lean ====
section
/-! DEFINITION. Hazard.lean: the registers, predicates and latches that an instruction reads and writes, and the stalls that
the pipelines of its sub-partition cause (R56, R85, R92, R107, R186, R191, R198, R434, R441). -/

namespace Sys2Proof.Machine

open Sys2Proof

/-- What an instruction reads, each source with whether it is a pair, and the register result of an ALU-class instruction
with whether it is a pair. -/
structure AluUse where
  reads : List (Src × Bool)
  dst   : Option (Dst × Bool)

/-- A destination that is also read. -/
def dstSrc (d : Dst) : Src :=
  match d with
  | .v n => .v n
  | .s n => .s n
  | _ => .iconst 32

/-- The operands of an address: a global base is a pair. -/
def memReads (m : MemRef) (pair : Bool) : List (Src × Bool) := [(m.base, pair), (m.off, false)]

/-- The data operand of a store of a size: a register, a pair, or two pairs. -/
def dataReads (a : Src) (sz : MSize) : List (Src × Bool) :=
  match sz, a with
  | .b64, _ => [(a, true)]
  | .b128, .v n => [(a, true), (.v (n + 2), true)]
  | .b128, .s n => [(a, true), (.s (n + 2), true)]
  | _, _ => [(a, false)]

/-- The operands of a job instruction beside its first. -/
def jobReads (j : JobOps) : List (Src × Bool) :=
  (match j.ctr with
    | some c => [(.s c, j.cm == .global)]
    | none => []) ++ [(j.inc, false)]

/-- The registers of a descriptor block: n scalar registers from s(4 × DB) on (R316, R386, R412). -/
def blockReads (db : BitVec 4) (n : Nat) : List (Src × Bool) :=
  (List.range n).map (fun q => (.s (BitVec.ofNat 6 (4 * db.toNat + q)), false))

/-- What F and X words read, and the register results of the ALU class. The P word stands for itself below. -/
def aluUse : Instr → AluUse
  | .iadd _ d a b _ _ => ⟨[(a, false), (b, false)], some (d, false)⟩
  | .isub _ d a b _ _ => ⟨[(a, false), (b, false)], some (d, false)⟩
  | .iadd3 _ d a b c _ _ => ⟨[(a, false), (b, false), (c, false)], some (d, false)⟩
  | .iaddw _ d a b _ _ => ⟨[(a, true), (b, true)], some (d, true)⟩
  | .isubw _ d a b _ _ => ⟨[(a, true), (b, true)], some (d, true)⟩
  | .imul _ d a b _ _ => ⟨[(a, false), (b, false)], some (d, false)⟩
  | .imulhi _ d a b _ => ⟨[(a, false), (b, false)], some (d, false)⟩
  | .imad _ d a b c _ _ => ⟨[(a, false), (b, false), (c, false)], some (d, false)⟩
  | .imadw _ d a b c _ _ => ⟨[(a, false), (b, false), (c, true)], some (d, true)⟩
  | .imin _ d a b _ w => ⟨[(a, w), (b, w)], some (d, w)⟩
  | .imax _ d a b _ w => ⟨[(a, w), (b, w)], some (d, w)⟩
  | .iabs _ d a _ => ⟨[(a, false)], some (d, false)⟩
  | .idiff _ d a b _ => ⟨[(a, false), (b, false)], some (d, false)⟩
  | .iclamp _ d a lo hi _ => ⟨[(a, false), (lo, false), (hi, false)], some (d, false)⟩
  | .icmp _ _ a b _ _ _ => ⟨[(a, false), (b, false)], none⟩
  | .icmpw _ _ a b _ _ _ => ⟨[(a, true), (b, true)], none⟩
  | .isel _ d a b _ _ w => ⟨[(a, w), (b, w)], some (d, w)⟩
  | .mov _ d a => ⟨[(a, false)], some (d, false)⟩
  | .movw _ d a => ⟨[(a, true)], some (d, true)⟩
  | .movhi _ d a b => ⟨[(a, false), (b, false)], some (d, true)⟩
  | .iext _ d a mode => ⟨[(a, false)], some (d, mode == .s32 || mode == .u32)⟩
  | .idiv _ d a b _ _ w => ⟨[(a, w), (b, w)], some (d, w)⟩
  | .irem _ d a b _ w => ⟨[(a, w), (b, w)], some (d, w)⟩
  | .lea _ d a b c _ _ => ⟨[(a, true), (b, false), (c, false)], some (d, true)⟩
  | .and _ d a b w => ⟨[(a, w), (b, w)], some (d, w)⟩
  | .or _ d a b w => ⟨[(a, w), (b, w)], some (d, w)⟩
  | .xor _ d a b w => ⟨[(a, w), (b, w)], some (d, w)⟩
  | .andn _ d a b w => ⟨[(a, w), (b, w)], some (d, w)⟩
  | .lop3 _ d a b c w _ => ⟨[(a, w), (b, w), (c, w)], some (d, w)⟩
  | .shl _ d a b _ => ⟨[(a, false), (b, false)], some (d, false)⟩
  | .shr _ d a b _ => ⟨[(a, false), (b, false)], some (d, false)⟩
  | .sar _ d a b _ => ⟨[(a, false), (b, false)], some (d, false)⟩
  | .shf _ d a b c _ _ => ⟨[(a, false), (b, false), (c, false)], some (d, false)⟩
  | .shlw _ d a b _ => ⟨[(a, true), (b, false)], some (d, true)⟩
  | .shrw _ d a b _ => ⟨[(a, true), (b, false)], some (d, true)⟩
  | .sarw _ d a b _ => ⟨[(a, true), (b, false)], some (d, true)⟩
  | .bfe _ d a ctl _ w => ⟨[(a, w), (ctl, false)], some (d, w)⟩
  | .bfi _ d a b ctl w => ⟨[(a, w), (b, w), (ctl, false)], some (d, w)⟩
  | .popc _ d a w => ⟨[(a, w)], some (d, false)⟩
  | .clz _ d a w => ⟨[(a, w)], some (d, false)⟩
  | .ctz _ d a w => ⟨[(a, w)], some (d, false)⟩
  | .brev _ d a w => ⟨[(a, w)], some (d, w)⟩
  | .bperm _ d a b sel => ⟨[(a, false), (b, false), (sel, false)], some (d, false)⟩
  | .ballot _ d _ _ => ⟨[], some (d, false)⟩
  | .ppopc _ d _ _ => ⟨[], some (d, false)⟩
  | .mrank _ d _ _ => ⟨[], some (d, false)⟩
  | .shfl _ d a b _ _ w => ⟨[(a, w), (b, false)], some (d, w)⟩
  | .rdlane _ d vs b w => ⟨[(.v vs, w), (b, false)], some (d, w)⟩
  | .wrlane _ d a b w => ⟨[(a, w), (b, false)], some (d, w)⟩
  | .wred _ d vs _ w => ⟨[(.v vs, w)], some (d, w)⟩
  | .wscan _ d a _ w _ => ⟨[(a, w)], some (d, w)⟩
  | .matchLane _ d a w => ⟨[(a, w)], some (d, false)⟩
  | .elect _ _ d => ⟨[], d.map (fun x => (x, false))⟩
  | .s2p _ _ a _ => ⟨[(a, false)], none⟩
  | .fadd _ d a b _ _ _ => ⟨[(a, false), (b, false)], some (d, false)⟩
  | .fsub _ d a b _ _ _ => ⟨[(a, false), (b, false)], some (d, false)⟩
  | .fmul _ d a b _ _ _ => ⟨[(a, false), (b, false)], some (d, false)⟩
  | .ffma _ d a b c _ _ _ _ => ⟨[(a, false), (b, false), (c, false)], some (d, false)⟩
  | .fmin _ d a b _ _ _ => ⟨[(a, false), (b, false)], some (d, false)⟩
  | .fmax _ d a b _ _ _ => ⟨[(a, false), (b, false)], some (d, false)⟩
  | .fcmp _ _ a b _ _ _ _ => ⟨[(a, false), (b, false)], none⟩
  | .fclass _ d a => ⟨[(a, false)], some (d, false)⟩
  | .frnd _ d a _ _ _ => ⟨[(a, false)], some (d, false)⟩
  | .fscale _ d a b _ _ => ⟨[(a, false), (b, false)], some (d, false)⟩
  | .fdiv _ d a b _ _ _ => ⟨[(a, false), (b, false)], some (d, false)⟩
  | .frcp _ d a _ _ => ⟨[(a, false)], some (d, false)⟩
  | .frsq _ d a _ _ => ⟨[(a, false)], some (d, false)⟩
  | .fsqrt _ d a _ _ _ => ⟨[(a, false)], some (d, false)⟩
  | .fexp2 _ d a _ _ => ⟨[(a, false)], some (d, false)⟩
  | .flog2 _ d a _ _ => ⟨[(a, false)], some (d, false)⟩
  | .fsin _ d a _ _ => ⟨[(a, false)], some (d, false)⟩
  | .fcos _ d a _ _ => ⟨[(a, false)], some (d, false)⟩
  | .ftanh _ d a _ _ => ⟨[(a, false)], some (d, false)⟩
  | .hadd2 _ d a b _ _ _ _ => ⟨[(a, false), (b, false)], some (d, false)⟩
  | .hmul2 _ d a b _ _ _ _ => ⟨[(a, false), (b, false)], some (d, false)⟩
  | .hfma2 _ d a b c _ _ _ _ _ => ⟨[(a, false), (b, false), (c, false)], some (d, false)⟩
  | .hmin2 _ d a b _ _ _ _ => ⟨[(a, false), (b, false)], some (d, false)⟩
  | .hmax2 _ d a b _ _ _ _ => ⟨[(a, false), (b, false)], some (d, false)⟩
  | .hdot2 _ d a b c _ _ _ _ _ => ⟨[(a, false), (b, false), (c, false)], some (d, false)⟩
  | .qdot4 _ d a b c _ _ _ _ => ⟨[(a, false), (b, false), (c, false)], some (d, false)⟩
  | .cvt _ d a _ _ _ => ⟨[(a, false)], some (d, false)⟩
  | .f2i _ d a _ it _ _ => ⟨[(a, false)], some (d, it.wide)⟩
  | .i2f _ d a _ it _ => ⟨[(a, it.wide)], some (d, false)⟩
  | .hpack _ d a b _ _ => ⟨[(a, false), (b, false)], some (d, false)⟩
  | .hunpk _ d a _ _ _ => ⟨[(a, false)], some (d, false)⟩
  | .qpack _ d a fw e _ => ⟨[(dstSrc d, false), (a, true), (fw, false), (e, false)], some (d, false)⟩
  | .qunpk _ d a fw e _ => ⟨[(a, false), (fw, false), (e, false)], some (d, true)⟩
  | .q4pack _ d a fw e _ => ⟨[(dstSrc d, false), (a, true), (fw, false), (e, false)], some (d, false)⟩
  | .q4unpk _ d a fw e _ => ⟨[(a, false), (fw, false), (e, false)], some (d, true)⟩
  | .bscale _ d a fw _ => ⟨[(a, false), (fw, false)], some (d, false)⟩
  | .movrs _ a idx => ⟨[(a, ((SReg.ofIdx idx.toNat).map SReg.wide).getD false)], none⟩
  | .brx _ a rel _ => ⟨[(a, !rel)], none⟩
  | .callx _ _ a rel _ => ⟨[(a, !rel)], none⟩
  | .ret _ a _ => ⟨[(a, true)], none⟩
  | .sleep _ a => ⟨[(a, false)], none⟩
  | .cjoin _ _ a => ⟨[(a, false)], none⟩
  | .cstat _ _ a => ⟨[(a, false)], none⟩
  | .ld _ _ m _ _ _ _ => ⟨memReads m true, none⟩
  | .st _ m a sz _ _ => ⟨memReads m true ++ dataReads a sz, none⟩
  | .ldl _ _ m _ _ _ _ => ⟨memReads m false, none⟩
  | .stl _ m a sz _ _ => ⟨memReads m false ++ dataReads a sz, none⟩
  | .ldfe _ _ m _ _ _ _ _ => ⟨memReads m false, none⟩
  | .stfe _ m a sz _ => ⟨memReads m false ++ dataReads a sz, none⟩
  | .feset _ m len _ _ => ⟨(len, false) :: memReads m false, none⟩
  | .ldu _ _ m _ _ _ _ => ⟨memReads m true, none⟩
  | .stu _ m a sz _ _ => ⟨memReads m true ++ dataReads a sz, none⟩
  | .cstore _ m a _ _ sz _ _ => ⟨memReads m true ++ dataReads a sz, none⟩
  | .xload _ _ m who _ _ _ _ _ => ⟨(who, false) :: memReads m false, none⟩
  | .atom _ _ m a _ sz _ _ => ⟨memReads m true ++ dataReads a sz, none⟩
  | .atomcas _ _ base c n sz _ _ => ⟨(base, true) :: (dataReads c sz ++ dataReads n sz), none⟩
  | .atomf _ _ m a _ _ _ _ => ⟨(a, false) :: memReads m true, none⟩
  | .red _ m a _ sz _ _ => ⟨memReads m true ++ dataReads a sz, none⟩
  | .atoml _ _ m a _ sz _ _ => ⟨memReads m false ++ dataReads a sz, none⟩
  | .atomlcas _ _ base c n sz _ _ => ⟨(base, false) :: (dataReads c sz ++ dataReads n sz), none⟩
  | .cmaint _ m len _ _ => ⟨(len, false) :: memReads m true, none⟩
  | .icinv _ m len _ => ⟨(len, false) :: memReads m true, none⟩
  | .tres _ _ base len _ => ⟨[(base, true), (len, false)], none⟩
  | .trel _ a => ⟨[(a, false)], none⟩
  | .tevict _ a => ⟨[(a, false)], none⟩
  | .tdemote _ a => ⟨[(a, false)], none⟩
  | .barinit _ m n => ⟨(n, false) :: memReads m false, none⟩
  | .bararv _ _ m n => ⟨n.toList.map (fun x => (x, false)) ++ memReads m false, none⟩
  | .barwt _ m ph => ⟨(ph, false) :: memReads m false, none⟩
  | .bar _ m n => ⟨n.toList.map (fun x => (x, false)) ++ memReads m false, none⟩
  | .cntadd _ m a w l _ => ⟨(a, w) :: memReads m (!l), none⟩
  | .cntwt _ m t l _ _ => ⟨(t, true) :: memReads m (!l), none⟩
  | .qinit _ a _ => ⟨[(a, true)], none⟩
  | .qpush _ m _ _ => ⟨memReads m false, none⟩
  | .qpop _ m _ _ => ⟨memReads m false, none⟩
  | .gres _ a _ => ⟨[(a, false)], none⟩
  | .jcopy _ d j => ⟨(d, false) :: jobReads j, none⟩
  | .jgen _ d j => ⟨(d, false) :: jobReads j, none⟩
  | .jfill _ d j => ⟨(d, false) :: jobReads j, none⟩
  | .jmcast _ d j => ⟨(d, false) :: jobReads j, none⟩
  | .jmma _ fw db j => ⟨(fw, false) :: (blockReads db 10 ++ jobReads j), none⟩
  | .jacc _ fw db j => ⟨(fw, false) :: (blockReads db 4 ++ jobReads j), none⟩
  | .jmv _ fw db j => ⟨(fw, false) :: (blockReads db 10 ++ jobReads j), none⟩
  | .jattn _ fw db j => ⟨(fw, false) :: (blockReads db 10 ++ jobReads j), none⟩
  | .jrot _ fw db j => ⟨(fw, false) :: (blockReads db 8 ++ jobReads j), none⟩
  | .jpub _ n => ⟨[(n, false)], none⟩
  | .jcancel _ _ q => ⟨[(q, false)], none⟩
  | .jstat _ _ q => ⟨[(q, false)], none⟩
  | .kvapp _ _ t n x _ => ⟨[(t, true), (n, false), (x, false)], none⟩
  | .kvref _ _ pool e _ _ => ⟨[(pool, true), (e, true)], none⟩
  | .kvdem _ _ t ix _ _ => ⟨[(t, true), (ix, false)], none⟩
  | .kvlook _ _ t ix _ => ⟨[(t, true), (ix, false)], none⟩
  | .kvfork _ _ d x _ => ⟨[(d, true), (x, true)], none⟩
  | .rsig _ m a w _ => ⟨(a, w) :: memReads m true, none⟩
  | .rflush _ m len _ _ => ⟨(len, false) :: memReads m true, none⟩
  | .rflushAll _ n _ _ => ⟨[(n, false)], none⟩
  | .stsrd _ _ m => ⟨[(m, false)], none⟩
  | .intr _ _ n => ⟨[(n, false)], none⟩
  | .probe _ _ m => ⟨memReads m true, none⟩
  | .tlbinv _ m n _ => ⟨(n, false) :: memReads m true, none⟩
  | .pmrd _ _ c => ⟨[(c, false)], none⟩
  | .pmctl _ _ c x => ⟨[(c, false), (x, false)], none⟩
  | .pmctlVal _ _ c x => ⟨[(c, false), (x, true)], none⟩
  | .lcurd _ _ c _ => ⟨[(c, false)], none⟩
  | _ => ⟨[], none⟩

/-- The registers of a source by code: v0 to v63 as 0 to 63, s0 to s63 as 64 to 127. -/
def srcRegs (e : Src × Bool) : List Nat :=
  match e.1 with
  | .v n => if e.2 then [n.toNat, n.toNat + 1] else [n.toNat]
  | .s n => if e.2 then [64 + n.toNat, 65 + n.toNat] else [64 + n.toNat]
  | _ => []

/-- The registers of a destination by code. -/
def dstRegsOf (e : Dst × Bool) : List Nat :=
  match e.1 with
  | .v n => srcRegs (.v n, e.2)
  | .s n => srcRegs (.s n, e.2)
  | _ => []

/-- The code of a predicate among the results on their way: p0 to p6 as 128 to 134; p7 is constant. -/
def predCode (p : BitVec 3) : List Nat := if p = 7 then [] else [128 + p.toNat]

/-- The predicates that an instruction reads beside its guard. -/
def predsRead : Instr → List Nat
  | .icmp _ pd _ _ _ _ c => if c == .set then [] else predCode pd
  | .icmpw _ pd _ _ _ _ c => if c == .set then [] else predCode pd
  | .fcmp _ pd _ _ _ _ _ c => if c == .set then [] else predCode pd
  | .isel _ _ _ _ ps _ _ => predCode ps
  | .ballot _ _ ps _ => predCode ps
  | .vote _ _ _ ps _ => predCode ps
  | .ppopc _ _ ps _ => predCode ps
  | .mrank _ _ ps _ => predCode ps
  | .plop _ _ pa pb _ => predCode pa ++ predCode pb
  | .cbr _ _ _ ps _ _ _ => predCode ps
  | .cbrw _ _ ps _ _ _ => predCode ps
  | .cstore _ _ _ ps _ _ _ _ => predCode ps
  | _ => []

/-- The predicate that an instruction of the ALU class writes. -/
def predsWritten : Instr → List Nat
  | .icmp _ pd _ _ _ _ _ | .icmpw _ pd _ _ _ _ _ | .fcmp _ pd _ _ _ _ _ _ | .vote _ _ pd _ _ | .plop _ pd _ _ _
  | .s2p _ pd _ _ | .elect _ pd _ => predCode pd
  | _ => []

/-- Whether an instruction is of the ALU class: it writes a register or a predicate through the arithmetic pipelines. -/
def aluClass : Instr → Bool
  | .pairWord _ _ _ _ _ _ _ _ _ | .icmp _ _ _ _ _ _ _ | .icmpw _ _ _ _ _ _ _ | .fcmp _ _ _ _ _ _ _ _ | .vote _ _ _ _ _
  | .plop _ _ _ _ _ | .s2p _ _ _ _ | .elect _ _ _ => true
  | i => (aluUse i).dst.isSome

/-- The code that stands, among the results on their way, for the end of an ALU-class instruction: its result is written and
its flags are set. -/
def aluCode : Nat := 135

/-- Whether an instruction waits until every earlier ALU-class instruction of its wave has written its result and set its
flags: the instructions that check the flags, and STSRD (R163, R198, R441). -/
def waitsAll (i : Instr) : Bool :=
  match i with
  | .bar _ _ _ | .barwt _ _ _ | .exit _ _ | .syncst _ | .stsrd _ _ _ => true
  | _ => false

/-- The registers and predicates that an instruction under a guard reads, and the end of the ALU-class instructions before it
where it waits for that. -/
def regsRead (g : Guard) (i : Instr) : List Nat :=
  (match i with
    | .pairWord _ so _ sa sb vo _ va vb =>
      (([sa, sb].take so.reads).map (fun x => (x, so == .iaddw && x == sa)) ++
        ([va, vb].take vo.reads).map (fun x => (x, false))).flatMap srcRegs
    | i => (aluUse i).reads.flatMap srcRegs) ++ predsRead i ++ predCode g.pred ++ (if waitsAll i then [aluCode] else [])

/-- The latches that an instruction reads. -/
def latchesRead (i : Instr) : List Nat :=
  let l := match i with
    | .pairWord _ so _ sa sb vo _ va vb => [sa, sb].take so.reads ++ [va, vb].take vo.reads
    | i => (aluUse i).reads.map Prod.fst
  l.filterMap (fun x => match x with
    | .b n => some n.toNat
    | _ => none)

/-- The registers and predicates whose new value comes out of the pipelines some cycles after issue: ALU results, the link
of a call (R191), and the result of MOVSR (R434). An ALU-class instruction ends there too, if it writes no register. -/
def regsWritten (i : Instr) : List Nat :=
  (if aluClass i then [aluCode] else []) ++ match i with
  | .pairWord _ so sdst _ _ vo vdst _ _ =>
    (if so == .nop then [] else srcRegs (.s sdst, so == .iaddw)) ++ (if vo == .nop then [] else [vdst.toNat])
  | .call _ link _ _ => [link.toNat, link.toNat + 1]
  | .callx _ link _ _ _ => [link.toNat, link.toNat + 1]
  | .movsr _ d idx =>
    let wide := ((SReg.ofIdx idx.toNat).map SReg.wide).getD false
    match d with
    | .v n => srcRegs (.v n, wide)
    | .s n => srcRegs (.s n, wide)
  | i => (match (aluUse i).dst with
    | some e => dstRegsOf e
    | none => []) ++ predsWritten i

/-- Whether an instruction shifts the latches (R87, R88). -/
def shiftsLatches (i : Instr) : Bool :=
  match i with
  | .pairWord _ _ _ _ _ vo _ _ _ => vo != .nop
  | i => (aluUse i).dst.isSome

/-- The latency of a result, and the unit of a slow instruction with the cycles for which it is busy: 1 transcendental,
2 FDIV and FSQRT. IDIV and IREM take 24 cycles; no rate is given for them. -/
def aluTiming (i : Instr) : Nat × Option (Nat × Nat) :=
  match i with
  | .frcp _ _ _ _ _ | .frsq _ _ _ _ _ | .fexp2 _ _ _ _ _ | .flog2 _ _ _ _ _ | .fsin _ _ _ _ _ | .fcos _ _ _ _ _
  | .ftanh _ _ _ _ _ => (12, some (1, 4))
  | .fdiv _ _ _ _ _ _ _ | .fsqrt _ _ _ _ _ _ => (24, some (2, 16))
  | .idiv _ _ _ _ _ _ _ | .irem _ _ _ _ _ _ => (24, none)
  | _ => (4, none)

/-- Two different vector registers of one bank among those read: one more cycle to issue. -/
def bankExtra (i : Instr) : Nat :=
  let l := ((regsRead ⟨false, 7⟩ i).filter (fun n => decide (n < 64))).eraseDups
  if l.any (fun a => l.any (fun b => a != b && a % 4 == b % 4)) then 1 else 0

/-- The cycle of a sub-partition from which an instruction under a guard can issue, as far as its pipelines go: the results
that it reads have come out (of the wave `id`), the latches that it reads are readable, and its unit is free. -/
def Pipe.readyAt (p : Pipe) (id : Nat) (latches : List Nat) (g : Guard) (i : Instr) : Nat :=
  let regs := regsRead g i
  let a := (p.writes.filter (fun e => e.2.1 == id && e.2.2.any regs.contains)).map Prod.fst
  let b := (latchesRead i).map (fun n => latches.getD n 0)
  let c := match (aluTiming i).2 with
    | some (u, _) => (p.units.filter (fun e => e.2 == u)).map Prod.fst
    | none => []
  (a ++ b ++ c).foldl Nat.max 0

/-- Whether an instruction stalls: something that it needs is still in the pipelines. -/
def Pipe.stalls (p : Pipe) (id : Nat) (latches : List Nat) (g : Guard) (i : Instr) : Bool :=
  decide (p.now < p.readyAt id latches g i)

/-- The pipelines and the latch cycles after an issue; `wrote` says that a lane took part. Time is counted with the extra
cycle of a bank in full. -/
def Pipe.occupy (p : Pipe) (id : Nat) (latches : List Nat) (g : Guard) (i : Instr) (wrote : Bool) : Pipe × List Nat :=
  let now := Nat.max p.now (p.readyAt id latches g i)
  let t := aluTiming i
  let regs := if wrote then regsWritten i else []
  let slow := decide (4 < t.1)
  let next := now + 1 + bankExtra i
  let writes := if regs.isEmpty then p.writes else (now + t.1, id, regs) :: p.writes
  let units := match t.2 with
    | some (u, n) => if wrote then (now + n, u) :: p.units else p.units
    | none => p.units
  (⟨next, writes.filter (fun e => decide (next < e.1)), units.filter (fun e => decide (next < e.1))⟩,
    if shiftsLatches i && !neverGuard g then ((if slow && wrote then now + t.1 else now + 1) :: latches).take 4 else latches)

/-- Whether nothing is on its way. -/
def Pipe.empty (p : Pipe) : Bool := p.writes.isEmpty && p.units.isEmpty

/-- A cycle that passes without an issue. -/
def Pipe.pass (p : Pipe) : Pipe := if p.empty then p else { p with now := p.now + 1 }

end Sys2Proof.Machine
end

