-- ==== Sys2Proof/Machine/Sched.lean ====
section
/-! DEFINITION. Sched.lean: what happens next on the device: the events that are due, the issue scheduler of a
sub-partition, the bookkeeping of a run, and what every cycle does (R52 to R60, R92, R186, R199, R200, R470, R482, R492). -/

namespace Sys2Proof.Machine

open Sys2Proof

/-! ## Events that are due -/

/-- One action where its condition holds. -/
def due (b : Bool) (f : State → Res) : List (State → Res) := if b then [f] else []

/-- A pending trap or return of a wave can go on (R437, R438). -/
def State.trapDue (s : State) (k : Nat) (w : Wave) : Bool :=
  let g := s.agentOf k w 0
  let waits := match w.busy with
    | .frame va => !s.pageReady g.vd g.ctx va w.trap.isSome
    | _ => false
  (w.trap.isSome || w.rft) && !waits && !s.outstanding k

/-- A wave whose fetch inside a latch chain waits for a page can go on. -/
def State.fetchDue (s : State) (k : Nat) (w : Wave) : Bool :=
  match w.busy with
  | .fetch va =>
    let g := s.agentOf k w 5
    s.pageReady g.vd g.ctx va false
  | _ => false

/-- A wave in SNEXT has a stage to take, or every stage is closed (R45). -/
def State.stageReady (s : State) (w : Wave) : Bool :=
  match w.busy, Tab.get? s.wgs w.wg with
  | .stage, some g =>
    match s.rcdOf g with
    | none => false
    | some r =>
      let sts := List.range (r.nstage + 1)
      sts.any (s.eligible w.wg g r) || (sts.all (fun st => g.closed.contains st) && g.queues.all (fun e => e.2.copies.isEmpty))
  | _, _ => false

/-- The waiting waves of a workgroup are examined again oldest first: a wave's turn comes when no older one has a stage to
take (R45). -/
def State.stageDue (s : State) (w : Wave) : Bool :=
  s.stageReady w && !(s.wavesOf w.wg).any (fun e => decide (e.2.waveid < w.waveid) && s.stageReady e.2)

/-- A wave whose threads have all exited may leave its slot (R67). -/
def State.retireDue (s : State) (k : Nat) (w : Wave) : Bool :=
  match Tab.get? s.wgs w.wg with
  | none => true
  | some g =>
    let busy := s.outstanding k
    let wait := decide (g.live ≤ 1) && (!s.canRetire w.wg g || (w.tail && busy))
    w.alive == 0 && w.trap.isNone && (w.tail || !busy) && !g.frozen &&
      !(wait && decide (16 ≤ (s.core g.core).tracker.length))

/-- A wave that waits for fabric answers has them all. -/
def State.answersIn (s : State) (k : Nat) (w : Wave) : Bool :=
  w.busy == .remote && !s.outstanding k

/-- The job ring has the room that a wave waits for (R290). -/
def State.ringDue (s : State) (w : Wave) : Bool :=
  match w.busy, Tab.get? s.wgs w.wg with
  | .ring n, some g => decide (n ≤ s.ringFree g)
  | _, _ => false

/-- The first parked lane of a wave whose condition is resolved. -/
def State.resumeDue (s : State) (w : Wave) : Option Nat :=
  match Tab.get? s.wgs w.wg with
  | none => none
  | some g => if w.parked == 0 || !w.settled then none else w.parked.lanes.find? (fun l => s.resolved w g l)

/-- What is due at a wave. -/
def State.waveEvents (s : State) (k : Nat) (w : Wave) : List (State → Res) :=
  let spec := w.spec.isSome && w.sent && (s.roundResult w).isSome
  due (s.trapDue k w) (execTrapEntry k) ++
  due spec (fun s => match execSpecCommit k s with
    | .next t => execSpecRollback k t
    | r => r) ++
  due ((match w.busy with | .round _ => true | _ => false) && (s.roundResult w).isSome) (execCbrwResolve k) ++
  due (s.stageDue w) (execStageReassign k) ++
  (match s.resumeDue w with
    | some l => [execThreadResume k l]
    | none => []) ++
  due (s.retireDue k w) (execWaveRetire k) ++
  due (w.preempt.isSome && !w.halted && w.reconverged && !s.midway k w) (execWaveHalt k) ++
  due ((match w.preempt with | some t => decide (t ≤ s.clock) | none => false) && !w.halted && w.chain == 0 &&
    !s.midway k w) (execPreemptTimeout k) ++
  due (s.fetchDue k w) (fun s => .next (s.modWave k (fun w => { w with busy := .no }))) ++
  due (match w.busy with | .sleep t => decide (t ≤ s.clock) | _ => false) (execSleepExpire k) ++
  due (s.answersIn k w && !(w.trap.isSome || w.rft)) (fun s => .next (s.wakeRemote k)) ++
  due (s.ringDue w) (fun s => .next (s.modWave k (fun w => { w with busy := .no })))

/-- What is due at a workgroup. -/
def State.wgEvents (s : State) (gid : Nat) (g : Workgroup) : List (State → Res) :=
  g.queues.flatMap (fun q =>
    due (!q.2.copies.isEmpty) (execQpushCommit gid q.1) ++ due (q.2.popping != 0) (execQpopCopyDone gid q.1)) ++
  due (g.live == 0 && s.canRetire gid g && !g.frozen) (execWorkgroupRetire gid)

/-- What is due at an engine. -/
def State.engineEvents (s : State) (e : Engine) : List (State → Res) :=
  let startable : Bool := match e with
    | .ismv st => ((s.ismvTurn st).any (fun x => match s.card? x.2 with
        | some (g, c) => c.st == .queued && !g.guardOpen c && !g.frozen && (s.engine e).stopAt.isNone
        | none => false))
    | _ => match (s.nextCard e).bind (fun r => (s.card? r).map (fun x => (r, x))) with
      | some (r, g, c) => s.canStart g c r (g.enginesOf c e)
      | none => false
  let turn : Bool := match e with
    | .ismv _ => !startable
    | _ => true
  due startable (execCardStart e) ++
  (match (if turn then s.running e else none) with
    | some (r, _, c, q) =>
      if s.stops r c q then [execCardCancelStop e]
      else match s.engineNext e with
        | .idle => []
        | .go _ => (match e with
          | .attn core => [execAttnStep core]
          | .ismv st => [execIsmvChunk st]
          | _ => [execEngineGranuleWrite e])
        | .park _ _ _ => [execCardPark e]
        | .fail _ _ => [execCardFail e]
        | .fin _ => [execCardFinish e]
    | none => []) ++
  due (match (s.engine e).stopAt with | some t => decide (t + 130000 ≤ s.clock) | none => false) (execEngineDrainTimeout e)

/-- The cores that hold a workgroup. -/
def State.busyCores (s : State) : List Nat := (s.wgs.map (fun e => e.2.core)).eraseDups

/-- What is due at a core. -/
def State.coreEvents (s : State) (c : Nat) : List (State → Res) :=
  due ((s.ringsOf c).any (fun e => !e.2.frozen && e.2.cards.any (fun k => k.st == .published) &&
    decide ((e.2.cards.filter Card.admitted).length < 32))) (execCardAdmit c) ++
  due ((s.ringsFrom c (s.core c).nextRel).any (fun e => (s.releasable e.1 e.2).isSome)) (execCardRelease c) ++
  (((List.range 4).map (Engine.copy c) ++ (List.range 4).map (Engine.half c) ++ [Engine.attn c, Engine.rot c] ++
    (s.rotsOf c true).map Engine.rot).flatMap s.engineEvents) ++
  (s.rotsOf c false).flatMap (fun n => due (s.rotLate n).isSome (execRotTimeout n))

/-- The shared engines that have cards. -/
def State.ismvEvents (s : State) : List (State → Res) :=
  if s.ismvq.isEmpty then [] else (List.range 8).flatMap (fun st => s.engineEvents (.ismv st))

/-- What is due at a context. -/
def State.ctxEvents (s : State) (vd ctx : Nat) : List (State → Res) :=
  let ws := s.contextWgs vd ctx
  due (!ws.isEmpty && ws.all (fun e => s.wgStill e.1 e.2)) (execContextSave vd ctx) ++
  due (s.takes vd ctx && (s.waitingLaunch vd ctx).isNone && (s.nextQueue vd ctx).isSome) (execLaunchRecordRead vd ctx)

/-- What is due at a launch. -/
def State.launchEvents (s : State) (l : Nat) (la : Launch) : List (State → Res) :=
  due (la.over' && !(la.waiting && s.awaits la.vd la.ctx (vaOf (BitVec.ofNat 64 la.rcd.cntaddr)))) (execLaunchCompletionAdd l)

/-- What is due at a virtual device. -/
def State.vdEvents (s : State) (vd : Nat) (v : VDev) : List (State → Res) :=
  due (v.st == .running && (State.nextPlace (s.placementRound vd) vd v.lastCtx).isSome) (execGangPlacement vd) ++
  due (!v.capped && v.pcap != 0 && decide (v.pcap < v.power)) (execPcapExceeded vd) ++
  due (v.st == .running && v.wdog != 0 && decide (v.progress + 1300000 * v.wdog ≤ s.clock) && s.hasWork vd)
    (execWatchdogExpire vd) ++
  due (v.st == .killing || v.st == .draining || v.st == .scrubbing) (execKillDrainComplete vd) ++
  due (v.st == .resetting && v.racks.isEmpty) (execReincarnationComplete vd) ++
  (if v.st == .resetting && decide (v.rackAt + 130000000 ≤ s.clock) then v.racks.map (fun d => execReincarnationTimeout vd d)
    else []) ++
  v.streams.flatMap (fun e =>
    due (match e.2.stallAt with | some t => decide (t + 13000000 ≤ s.clock) | none => false) (execStreamFault vd e.1) ++
    due (match e.2.oldTill with | some t => t != 0 && decide (t ≤ s.clock) | none => false) (execOldKeyDrop vd e.1))

/-- Whether a scheduling pass is due: the grant of a held sub-partition has ended, or a virtual device with a waiting
workgroup would get an unheld one (R470). -/
def State.passDue (s : State) : Bool :=
  s.sps.any (fun e => e.2.holder != 0 && e.2.next.isNone && decide (e.2.till ≤ s.clock) && s.populated (e.1 / 4)) ||
    (s.vds.any (fun e => e.2.st == .running && !(s.waitingShapes e.1).isEmpty) &&
      (let d := s.dueSps
       let p := Pass.settle d (640 * (s.vds.length + 1)) (d.foldl (Pass.choose d) ⟨s.noteReady, [], []⟩)
       p.got.any (fun e => e.2 != 0 && (s.sp e.1).holder != e.2)))

/-- What is due at a consensus group. -/
def State.groupEvents (s : State) (n : Nat) (c : CGroup) : List (State → Res) :=
  due (c.st != .idle && decide (c.openAt + c.timeout * 1300000 ≤ s.clock)) (execConsensusRoundTimeout n)

/-- The matching phase of a cycle: one every 156.25 ns (R362). -/
def phaseAt (clock : Nat) : Nat := clock * 16 / 3250 % 256

/-- Everything that is due now, in one order. -/
def State.events (s : State) : List (State → Res) :=
  s.waves.flatMap (fun e => s.waveEvents e.1 e.2) ++
  s.wgs.flatMap (fun e => s.wgEvents e.1 e.2) ++
  s.launches.flatMap (fun e => s.launchEvents e.1 e.2) ++
  s.ctxs.flatMap (fun e => s.ctxEvents (e.1 / 64) (e.1 % 64)) ++
  s.vds.flatMap (fun e => s.vdEvents e.1 e.2) ++
  due s.passDue (fun s => .next s.schedule) ++
  s.busyCores.flatMap s.coreEvents ++
  s.ismvEvents ++
  due (!s.boot.throttle && decide (s.boot.limit < s.boot.pnow)) execPlimitExceeded ++
  (List.range 16).flatMap (fun n => due (s.dwellDue n) (execDwellStart n)) ++
  s.kvops.flatMap (fun e => due (e.2.any (fun o => !s.kvHeld e.1 o)) (execKvHomeOperation e.1)) ++
  s.kvcopies.flatMap (fun e => due (!e.2.isEmpty) (execKvdemCopyDone e.1)) ++
  (s.ballots.filter s.ballotDue).map (fun b => execConsensusVote b.wave) ++
  s.cgs.flatMap (fun e => s.groupEvents e.1 e.2) ++
  due (s.cgs.any (fun e => e.2.st == .reduce) && s.phase != phaseAt s.clock) (execConsensusPhase (phaseAt s.clock)) ++
  s.fgs.flatMap (fun e => due (e.2.held.any (fun h => decide (h.2.2.2.2.2 + e.2.cycles ≤ s.clock)))
    (execRotHeldGrantExpire (e.1 / 64) (e.1 % 64))) ++
  s.holdoff.flatMap (fun e => due (decide (e.2 ≤ s.clock)) (execMigrationHoldoffExpire (e.1 / 2) (e.1 % 2 == 1))) ++
  (if s.sweepDue then (List.range 9).flatMap (fun r => match s.sweepNext r with
    | some x => [execScrubSweepPage x.1 x.2]
    | none => []) else []) ++
  (match s.pfRestart with
    | some t => [fun _ => .next t]
    | none => []) ++
  (match s.takeCommand with
    | some _ => [fun s => .next (s.takeCommand.getD s)]
    | none => []) ++
  (match s.nextCommand with
    | some r => [fun s => s.beginCommand r]
    | none => [])

/-- The event that happens now, where one is due: their turn goes round with the clock. -/
def State.nextEvent (s : State) : Option (State → Res) :=
  match s.events with
  | [] => none
  | l => l[s.clock / 2 % l.length]?

/-! ## Ready waves (R54, R55) -/

/-- Whether a pre-emption stops a wave before its next instruction: it stands at a reconverged point, or its time has
passed and no latch chain is open (R63, R64). -/
def Wave.stops (w : Wave) (clock : Nat) : Bool :=
  match w.preempt with
  | some t => w.reconverged || (decide (t ≤ clock) && w.chain == 0)
  | none => false

/-- A wave that can issue. One whose round has resolved issues nothing until it has committed or rolled back (R379). A TLBINV
that waits goes on even where a pre-emption is asked for (R456). -/
def State.ready (s : State) (w : Wave) : Bool :=
  (match Tab.get? s.wgs w.wg with
    | some g => !s.cappedVd g.vd && (match w.busy with
      | .no => !w.stops s.clock
      | .inv a n => !s.contextBusy g.vd g.ctx a n
      | _ => false)
    | none => false) &&
    w.trap.isNone && !w.rft && !w.halted && w.issuePc.isSome && !(w.spec.isSome && (s.roundResult w).isSome)

/-- The ready waves of a sub-partition. -/
def State.readyOn (s : State) (sp : Nat) : List (Nat × Wave) := s.waves.filter (fun e => spOf e.1 == sp && s.ready e.2)

/-- The context of a wave, as VDID × 64 + context. -/
def State.ctxKeyOf (s : State) (w : Wave) : Nat :=
  match Tab.get? s.wgs w.wg with
  | some g => ctxKey g.vd g.ctx
  | none => 0

/-- The weight of a context in the issue of a sub-partition. -/
def State.issueWeight (s : State) (c : Nat) : Int :=
  match Tab.get? s.ctxs c with
  | some x => x.weight
  | none => 1

/-- Deficit rounds until one of the contexts with a ready wave has a positive deficit (R54). -/
def deficitAfter (weight : Nat → Int) (cs : List Nat) (t : Tab Int) : Tab Int :=
  let n := roundsUntil (cs.map (fun c => (Tab.getD t c 0, 16 * weight c)))
  cs.foldl (fun t c => Tab.put t c (afterRounds n (Tab.getD t c 0) (16 * weight c))) t

/-- The context served next: ascending from the one after the last served. -/
def nextContext (cs : List Nat) (t : Tab Int) (last : Nat) : Option Nat :=
  let l := cs.filter (fun c => decide (0 < Tab.getD t c 0))
  let least (l : List Nat) : Option Nat := l.foldl (fun b c => match b with
    | none => some c
    | some x => some (min x c)) none
  match least (l.filter (fun c => last < c)) with
  | some c => some c
  | none => least l

/-- The age of a wave: its workgroup's place in the order of placement, then `%waveid`. -/
def State.ageOf (s : State) (w : Wave) : Nat :=
  match Tab.get? s.wgs w.wg with
  | some g => g.age * 32 + w.waveid
  | none => 0

/-- The oldest of some waves. -/
def State.oldest (s : State) (l : List (Nat × Wave)) : Option (Nat × Wave) :=
  match l with
  | [] => none
  | e :: r => some (r.foldl (fun (b : Nat × Wave) x => if s.ageOf x.2 < s.ageOf b.2 then x else b) e)

/-! ## Stalls (R56, R92, R186) -/

/-- Whether a word is a P word. -/
def isPair (w : DWord) : Bool := slice w 62 2 == 1#2

/-- The guard of a word, at the same place in F, X and P words. -/
def guardOf (w : DWord) : Guard := ⟨w.getLsbD 61, slice w 58 3⟩

/-- The number of a wave among the results on their way (R92). -/
def Wave.pipeId (w : Wave) : Nat := w.wg * 32 + w.waveid

/-! ## The words of the next instruction (R70, R199, R200, R217) -/

/-- An instruction that has been fetched: its address and its words. -/
structure Fetch where
  pc : BitVec 64
  w  : DWord
  w2 : Option DWord
  deriving Repr

/-- What a fetch leads to. -/
inductive FetchOut where
  | got (f : Fetch) (s : State)
  /-- A page that is absent: the lanes at the issue PC park for it. -/
  | absent (addr : BitVec 64) (s : State)
  /-- A trap at the instruction. -/
  | trap (c : Cause) (addr : BitVec 64) (s : State)

/-- The instruction at the issue PC of a wave: from its decode queue or fetched anew; where the two differ, either. -/
def State.fetchFor (s : State) (k : Nat) (w : Wave) (pc : BitVec 64) : FetchOut :=
  let queued : Option Fetch := match w.ahead with
    | e :: _ => if e.1 = pc then some ⟨e.1, e.2.1, e.2.2⟩ else none
    | [] => none
  if !canonical pc then .trap .xlate pc s
  else
    let f := s.fetchInstr k w pc
    let fab : Bool := match f.res with
      | .at l => l.space == .fab
      | _ => false
    let now : FetchOut := match f.res with
      | .at _ => if fab then .trap .prot f.addr f.st else .got ⟨pc, f.w, f.w2⟩ f.st
      | .absent => .absent f.addr f.st
      | .prot => .trap .prot f.addr f.st
      | .xlate => .trap .xlate f.addr f.st
    match queued with
    | none => now
    | some q =>
      let same : Bool := match now with
        | .got x _ => x.w == q.w && x.w2 == q.w2
        | _ => false
      if same then now else if Config.freeBool (256 * s.free + 249) then .got q s else now

/-- The cycle of its sub-partition from which the next instruction of a wave can begin a run, as far as the pipelines go. Its
latches are invalid, since its last run has ended. -/
def State.freeAt (s : State) (k : Nat) (w : Wave) : Nat :=
  match w.issuePc with
  | none => 0
  | some pc =>
    match s.fetchFor k w pc with
    | .got f _ => match decode f.w f.w2 with
      | some i => (s.sp (spOf k)).pipe.readyAt w.pipeId [] (guardOf f.w) i
      | none => 0
    | _ => 0

/-- The waves of a sub-partition among which a new run is given: the ready ones whose next instruction does not stall on the
pipelines. DESIGN CHOICE (log entry 105): a wave whose next instruction would stall there is not ready for the deficit
rounds, the choice of the context and the served bits. -/
def State.issuable (s : State) (sp : Nat) : List (Nat × Wave) :=
  (s.readyOn sp).filter (fun e => decide (s.freeAt e.1 e.2 ≤ (s.sp sp).pipe.now))

/-- A new run begins on a sub-partition: the context by its deficit, its oldest ready wave whose served bit is clear. -/
def State.beginRun (s : State) (sp : Nat) : Option (Nat × State) :=
  let rs := s.issuable sp
  let cs := (rs.map (fun e => s.ctxKeyOf e.2)).eraseDups
  if cs.isEmpty then none
  else
    let p := s.sp sp
    let t := deficitAfter s.issueWeight cs p.deficit
    match nextContext cs t p.last with
    | none => none
    | some c =>
      let mine := rs.filter (fun e => s.ctxKeyOf e.2 == c)
      let clear := mine.filter (fun e => !e.2.served)
      let s := if clear.isEmpty then { s with waves := s.waves.map (fun (e : Nat × Wave) =>
          if spOf e.1 = sp ∧ s.ctxKeyOf e.2 = c then (e.1, { e.2 with served := false }) else e) } else s
      (s.oldest (if clear.isEmpty then mine else clear)).map (fun e =>
        let s := s.modWave e.1 (fun w => { w with served := true })
        (e.1, s.modSp sp (fun p => { p with deficit := t, last := c, run := some ⟨e.1, 0, false, false, []⟩ })))

/-- Instructions that enter a decode queue from an address on: at most n, as far as their words can be fetched; what they
bring into the instruction cache stays there (R200). -/
def State.lookAhead (s : State) (k : Nat) (w : Wave) : Nat → BitVec 64 → List (BitVec 64 × DWord × Option DWord) × State
  | 0, _ => ([], s)
  | n + 1, a =>
    let f := s.fetchInstr k w a
    match f.res with
    | .at l =>
      if l.space = .fab ∨ canonical a = false then ([], s)
      else
        let t := { s with icache := f.st.icache }
        let r := t.lookAhead k w n (a + BitVec.ofNat 64 (wordLen f.w))
        ((a, f.w, f.w2) :: r.1, r.2)
    | _ => ([], s)

/-- The decode queue of a wave once the instruction `f` has issued: what was queued behind it stays, decoded as it was, and
the queue is filled up to two. After any other way to its next instruction the queue is empty (R200). -/
def State.refill (s : State) (k : Nat) (f : Fetch) : State :=
  match Tab.get? s.waves k with
  | none => s
  | some w =>
    let next := f.pc + BitVec.ofNat 64 (wordLen f.w)
    if w.issuePc ≠ some next then s.modWave k (fun w => { w with ahead := [] })
    else
      let q := match w.ahead with
        | e :: r => if e.1 = f.pc then r else []
        | [] => []
      let last := match q.getLast? with
        | some e => e.1 + BitVec.ofNat 64 (wordLen e.2.1)
        | none => next
      let t := s.lookAhead k w (2 - q.length) last
      t.2.modWave k (fun w => { w with ahead := q ++ t.1 })

/-- A fetch whose page is absent: the lanes at the issue PC park for it (R51, R217). DESIGN CHOICE (log entry 67): inside an
open latch chain nothing parks; the wave waits for the page and holds its issue slot. -/
def State.parkFetch (s : State) (k : Nat) (w : Wave) (addr : BitVec 64) : State :=
  let va := vaOf addr
  let s' := s.pageFault (s.agentOf k w 5) va false false true
  if w.chain ≠ 0 then s'.setWave k { w with busy := .fetch va }
  else State.endRun { s'.setWave k (w.park w.active 1 (.page va false) s.nextId) with nextId := s.nextId + 1 } k |>.countSp (spOf k) 6 w.active.lanes.length

/-! ## The wave that issues next -/

/-- Whether the words fetched for a wave stall behind its run: words that decode to nothing do not. -/
def State.stallsFetch (s : State) (sp : Nat) (w : Wave) (r : RunSt) (f : Fetch) : Bool :=
  match decode f.w f.w2 with
  | some i => (s.sp sp).pipe.stalls w.pipeId r.latches (guardOf f.w) i
  | none => false

/-- The pipelines of a sub-partition, and the latch cycles of a run, after the words fetched were issued for a wave. -/
def Pipe.occupyFetch (p : Pipe) (r : RunSt) (f : Fetch) (w0 : Wave) : Pipe × RunSt :=
  match decode f.w f.w2 with
  | some i =>
    let x := p.occupy w0.pipeId r.latches (guardOf f.w) i (w0.part (guardOf f.w) w0.active != 0)
    (x.1, { r with issues := r.issues + 1, latches := x.2 })
  | none => ({ p with now := p.now + 1 }, { r with issues := r.issues + 1 })

/-- Whether the wave of a run holds the issue slot of its sub-partition without issuing: a stall inside an open latch chain
(R57, R89). -/
def State.slotHeld (s : State) (sp : Nat) : Bool :=
  match (s.sp sp).run with
  | some r => match Tab.get? s.waves r.wave with
    | some w => w.chain != 0 && !s.ready w
    | none => false
  | none => false

/-- Whether a sub-partition has something to issue: the wave of its run, or a wave to which a new run can be given. -/
def State.canIssue (s : State) (sp : Nat) : Bool :=
  (match (s.sp sp).run with
    | some r => (Tab.get? s.waves r.wave).any s.ready
    | none => false) || !(s.issuable sp).isEmpty

/-- The sub-partitions with something to issue whose issue slot is not held, from the one whose turn it is. -/
def State.spsReady (s : State) : List Nat :=
  let l := (((s.waves.filter (fun e => s.ready e.2)).map (fun e => spOf e.1)).eraseDups).filter (fun p =>
    !s.slotHeld p && s.canIssue p)
  l.filter (fun p => s.turn ≤ p) ++ l.filter (fun p => p < s.turn)

/-- What issues next: a wave and its instruction, or nothing; a fetch that fails is dealt with at once. -/
inductive Next where
  | issue (k : Nat) (f : Fetch) (s : State)
  | moved (s : State)
  | idle

/-- The issue of a wave whose run begins or goes on. -/
def State.tryIssue (s : State) (k : Nat) : Next :=
  match Tab.get? s.waves k with
  | none => .idle
  | some w =>
    match w.issuePc with
    | none => .idle
    | some pc =>
      match s.fetchFor k w pc with
      | .got f t => .issue k f t
      | .absent a t => .moved (t.parkFetch k w a)
      | .trap c a t => .moved (t.raise k (addrTrap c w.active pc (w.active.lanes.map (fun l => (l, a)))))

/-- What issues next on a sub-partition: the wave of the run in progress, unless its next instruction stalls. -/
def State.issueOn (s : State) (sp : Nat) : Next :=
  let s := { s with turn := sp + 1 }
  let fresh (s : State) : Next :=
    match s.beginRun sp with
    | some (k, t) => t.tryIssue k
    | none => .moved s
  match (s.sp sp).run with
  | none => fresh s
  | some r =>
    match Tab.get? s.waves r.wave with
    | none => fresh (s.modSp sp (fun p => { p with run := none }))
    | some w =>
      let ended : State := State.endRun { s with waves := Tab.put s.waves r.wave { w with pick := none } } r.wave
      if !s.ready w then (if w.chain ≠ 0 then .idle else fresh ended)
      else match s.tryIssue r.wave with
        | .issue k f t =>
          if w.chain = 0 && (Config.freeBool (256 * s.free + 248) || s.stallsFetch sp w r f) then fresh (ended.countSp sp 3 1)
          else .issue k f t
        | x => x

/-- What issues next on the device. -/
def State.nextIssue (s : State) : Next :=
  match s.spsReady with
  | [] => .idle
  | sp :: _ => s.issueOn sp

/-! ## After an issue (R54, R56 to R60, R482, R492) -/

/-- The yield hint of an instruction that executes (R72, R73); a P word has none (R84). -/
def yieldHint (w : DWord) : Bool := !isPair w && w.getLsbD 0 && !neverGuard (guardOf w)

/-- The fairness counter after an issue: the wave, and whether a fairness event comes now. YIELD has had its own. -/
def Wave.afterFair (w w0 : Wave) (yh isYield : Bool) : Wave × Bool :=
  if w.runnable != 0 && !w.diverged then (w.settleFair, false)
  else if isYield then (w, false)
  else
    let n := if w0.diverged then w.fairCnt + 1 else w.fairCnt
    let f := (slice w.fair 0 16).toNat
    ({ w with fairCnt := n }, w.diverged && (yh || (decide (f ≠ 0) && decide (max f 8 ≤ n))))

/-- The run of a sub-partition after an issue of its wave: it ends at a switch event outside a latch chain. -/
def State.afterRun (s : State) (k : Nat) (w0 : Wave) (f : Fetch) (w : Wave) (fair : Bool) (isYield : Bool) : State :=
  let sp := spOf k
  let next := f.pc + BitVec.ofNat 64 (wordLen f.w)
  let fairly (s : State) : State := ((s.setWave k w.fairness).countSp sp 4 1).endRun k
  let done (s : State) : State := (s.setWave k { w with pick := if isYield || w.pick != w0.pick then w.pick else none }).endRun k
  match (s.sp sp).run with
  | none =>
    let s := s.modSp sp (fun p => { p with pipe := (p.pipe.occupyFetch ⟨k, 0, false, false, []⟩ f w0).1 })
    if fair then fairly s else done s
  | some r =>
    let x := (s.sp sp).pipe.occupyFetch r f w0
    let s := s.modSp sp (fun p => { p with pipe := x.1 })
    let r := x.2
    let ending := r.ending || fair || yieldHint f.w || decide (8 ≤ r.issues)
    let fair := fair || r.fair
    if w.chain ≠ 0 then
      (s.setWave k w).modSp sp (fun p => { p with run := some { r with ending := ending, fair := fair } })
    else if fair then fairly s
    else if ending || !s.ready w then done s
    else (s.setWave k { w with pick := w.pick.map (fun _ => next) }).modSp sp (fun p => { p with run := some r })

/-- The counters of the issue itself: instructions and pair words (R492). One that has waited at its instruction since it issued is
not counted again. -/
def State.countIssued (s : State) (k : Nat) (f : Fetch) : State :=
  if (Tab.get? s.waves k).any (fun w => w.paid == some f.pc) then s
  else
    let s := s.countSp (spOf k) 1 1
    if isPair f.w then s.countSp (spOf k) 2 1 else s

/-- Whether a wave waits at the instruction that it has issued, which goes on from there. -/
def Wave.waitsAt (w : Wave) (pc : BitVec 64) : Bool :=
  w.trap.isNone && w.issuePc == some pc && (match w.busy with
    | .remote | .ring _ | .inv _ _ => true
    | _ => false)

/-- The counters of what an issue did: chains opened, threads parked (R492). -/
def State.countIssue (s : State) (k : Nat) (w0 w : Wave) : State :=
  let sp := spOf k
  let s := if w0.chain = 0 ∧ w.chain ≠ 0 then s.countSp sp 5 1 else s
  let n := (w.parked &&& ~~~w0.parked).lanes.length
  if n = 0 then s else s.countSp sp 6 n

/-- An issue charged to its context, and noted as progress where the watchdog counts issues. -/
def State.chargeIssue (s : State) (k : Nat) (w0 : Wave) : State :=
  match Tab.get? s.wgs w0.wg with
  | none => s
  | some g =>
    let c := ctxKey g.vd g.ctx
    let s := s.modSp (spOf k) (fun p => { p with deficit := Tab.put p.deficit c (Tab.getD p.deficit c 0 - 1) })
    s.modVd g.vd (fun v => if v.wmode then v else { v with progress := s.clock })

/-- The bookkeeping after an instruction of a wave. -/
def State.afterIssue (s : State) (k : Nat) (w0 : Wave) (f : Fetch) (isYield : Bool) : State :=
  let s := { s with cur := none }.chargeIssue k w0
  match Tab.get? s.waves k with
  | none => s
  | some w =>
    let s := s.countIssue k w0 w
    let w := { w with paid := if w.waitsAt f.pc then some f.pc else none }
    let s := s.setWave k w
    let x := w.afterFair w0 (yieldHint f.w) isYield
    (s.afterRun k w0 f x.1 x.2 isYield).refill k f

/-! ## What every cycle does -/

/-- The virtual devices that were granted a sub-partition since a state. -/
def State.grantedSince (s old : State) : List Nat :=
  ((s.sps.filter (fun e => e.2.holder != 0 && ((old.sp e.1).holder != e.2.holder || (old.sp e.1).till != e.2.till))).map
    (fun e => e.2.holder)).eraseDups

/-- The images that are tried at each grant (R447). -/
def State.tryImages (s old : State) : State :=
  let mine := s.ctxs.filter (fun e => match e.2.saved with
    | .retry _ => true
    | _ => false)
  if mine.isEmpty then s
  else
    let ds := s.grantedSince old
    (mine.filter (fun e => ds.contains (e.1 / 64))).foldl (fun s e =>
      match execContextRestore (e.1 / 64) (e.1 % 64) s with
      | .next t => t
      | _ => s) s

/-- A virtual device without work has its watchdog stopped: its period restarts in full when work appears (R482). -/
def State.restWatchdogs (s : State) : State :=
  s.vds.foldl (fun s e => if !s.hasWork e.1 then s.modVd e.1 (fun v => { v with progress := s.clock }) else s) s

/-- The cycles of the cores, and those in which a matrix half runs a card, for their counters. -/
def State.countCycles (s : State) : State :=
  s.cores.foldl (fun s e =>
    if e.2.bank.ctl.isEmpty then s
    else
      let s := s.countCore e.1 (s.sp (4 * e.1)).holder 0x20 1
      [Engine.half e.1 0, Engine.half e.1 1].foldl (fun s h =>
        match (s.engine h).run.bind (fun r => Tab.get? s.wgs r.card.wg) with
        | some g => s.countCore e.1 g.vd 0x26 1
        | none => s) s) s

/-- The requests that wait at the home slices of a die. -/
def State.homeLevel (s : State) (die : Nat) : Nat :=
  (s.dir.filter (fun e => homeSlice (e.1 * 64) / 96 == die)).foldl (fun n e =>
    n + e.2.waiting.length + if e.2.pending.isSome then 1 else 0) 0

/-- Every 64 cycles a unit of an LLC die whose source it is samples the level of its home slices' queues (R497). -/
def State.sampleLevels (s : State) : State :=
  if s.clock % 64 ≠ 63 ∨ s.lcus.isEmpty = true then s
  else [0, 1].foldl (fun (s : State) die => match Tab.get? s.lcus (160 + die) with
    | some u => s.sample (160 + die) u.owner 2 (s.homeLevel die) 0
    | none => s) s

/-- Where the runnable threads of a wave have come to stand at one PC, its fairness state restarts (R59). -/
def State.settleFair (s : State) : State := { s with waves := s.waves.map (fun e => (e.1, e.2.settleFair)) }

/-- A cycle passes in the pipelines of the sub-partitions that have nothing to issue. -/
def State.passIdle (s : State) : State :=
  { s with sps := s.sps.map (fun e => (e.1, if Pipe.empty e.2.pipe || s.canIssue e.1 then e.2
      else { e.2 with pipe := e.2.pipe.pass })) }

/-- Whether something that waited for an unresolvable page has still to learn of it (R452). -/
def State.refusalOpen (s : State) (vd ctx : Nat) (r : Barred) : Bool :=
  let on (va : Nat) : Bool := va / 4096 == r.page
  r.threads.any (fun t => (Tab.get? s.waves t.1).any (fun w => w.alive.has t.2.1 && w.pcOf t.2.1 == t.2.2)) ||
    r.cards.any (fun x => (s.card? x).any (fun y => !y.2.final && y.2.page.all (fun p => on p.1))) ||
    r.frames.any (fun k => (Tab.get? s.waves k).any (fun w => w.trap.isSome || w.rft)) ||
    (r.vcc && (s.queues.any (fun e => e.1 / 64 == ctxKey vd ctx && e.2.page.any on) ||
      s.launches.any (fun e => e.2.vd == vd && e.2.ctx == ctx && e.2.waiting && on (vaOf (BitVec.ofNat 64 e.2.rcd.cntaddr)))))

/-- The refusals of which everything that waited has learnt are forgotten: a later miss on such a page asks the pager again. -/
def State.forgetRefusals (s : State) : State :=
  { s with ctxs := s.ctxs.map (fun e => if e.2.refused.isEmpty then e else
    (e.1, { e.2 with refused := e.2.refused.filter (s.refusalOpen (e.1 / 64) (e.1 % 64)) })) }

/-- The end of a cycle that began in the state `old`. The phase goes with the clock, but for one that a round has still to meet
as it begins (R362). -/
def State.tick (s old : State) : State :=
  let s := if s.unsent.isEmpty then s else s.sendUnsent
  let s := if s.reqs.isEmpty then s else s.refuseLost.pump
  let s := if s.iacks.isEmpty then s else s.sendIacks
  let s := s.sendPorts
  let s := s.sendSlots
  let s := if s.cgs.any (fun e => e.2.st == .reduce) then s else { s with phase := phaseAt (s.clock + 1) }
  let s := if s.bounce.isEmpty then s else s.mergeBounced
  let s := if s.unparked.isEmpty then s else s.unpark
  let s := if s.leaving.isEmpty then s else s.leavePools
  let s := if s.kvOrphans then s.finishKv else s
  let s := if s.cgs.any (fun e => !e.2.kept.isEmpty) then s.openHeld else s
  let s := if s.ctxs.any (fun e => !e.2.refused.isEmpty) then s.forgetRefusals else s
  let s := if s.atsWait.isEmpty then s else s.answerAts
  let s := if s.sps.any (fun e => e.2.next.isSome) then s.finishSwitches else s
  let s := s.settleFair
  let s := s.passIdle
  let s := s.turnSets
  let s := s.tryImages old
  let s := s.noteReady
  let s := s.meter
  let s := s.measure
  let s := s.uncap
  let s := s.restWatchdogs
  let s := s.countCycles
  let s := s.sampleLevels
  let s := s.pollCommands
  { s with clock := s.clock + 1, free := s.free + 1 }

end Sys2Proof.Machine
end

