-- ==== Sys2Proof/Machine/Issue.lean ====
section
/-! DEFINITION. Issue.lean: what one step of the device is made of: running the instruction that has been fetched, the
turn of events and issues, what happens while the device is down, and how an instruction is put where the next step runs
it (R11, R24, R54 to R60, R71, R511, R515). -/

namespace Sys2Proof.Machine

open Sys2Proof

/-- What follows a next state; a stop stays a stop. -/
def Res.andThen (r : Res) (f : State → State) : Res :=
  match r with
  | .next t => .next (f t)
  | .fault x => .fault x
  | .refused x => .refused x

/-- Whether an instruction is a YIELD that executes, whose fairness event is its own effect (R73, R196). -/
def isYield (i : Instr) : Bool :=
  match i with
  | .yield h => !neverGuard h.guard
  | _ => false

/-- Whether an instruction is PMRD, whose own issue is counted after it has read (R500). -/
def isPmrd (i : Instr) : Bool :=
  match i with
  | .pmrd _ _ _ => true
  | _ => false

/-- Whether an instruction of a wave would only stall in a speculation until its round resolves (R376): it does not issue. -/
def State.onlyStalls (s : State) (k : Nat) (w : Wave) (i : Instr) : Bool :=
  w.spec.isSome && (match exec i { s with cur := some k } with
    | .next t => (Tab.get? t.waves k).any (fun x => x.busy == .spec && x.spec.all (fun p => p.trap.isNone))
    | _ => false)

/-- An instruction that a wave has fetched is executed: words that decode to nothing raise ILLENC at it (R71). A stall in a
speculation counts as a stall, and not as an issue. -/
def State.runFetched (s : State) (k : Nat) (f : Fetch) : Res :=
  match Tab.get? s.waves k with
  | none => .next s
  | some w =>
    match decode f.w f.w2 with
    | none => .next (((s.countIssued k f).raise k (mkTrap .illenc w.active f.pc)).afterIssue k w f false)
    | some i =>
      if s.onlyStalls k w i then Res.andThen (exec i { s with cur := some k }) (fun t => { t.countSp (spOf k) 3 1 with cur := none })
      else if isPmrd i then Res.andThen (exec i { s with cur := some k }) (fun t => (t.countIssued k f).afterIssue k w f false)
      else Res.andThen (exec i { s.countIssued k f with cur := some k }) (fun t => t.afterIssue k w f (isYield i))

/-- What issues next runs. -/
def Next.run (n : Next) (s : State) : Res :=
  match n with
  | .issue k f t => t.runFetched k f
  | .moved t => .next t
  | .idle => .next s

/-- An event that is due happens, or nothing does. -/
def State.runEvent (s : State) : Res :=
  match s.nextEvent with
  | some f => f s
  | none => .next s

/-- Issues and due events take turns; each has the turn of the other where that has nothing to do. -/
def State.turnOf (s : State) : Res :=
  if s.clock % 2 = 0 then
    match s.nextEvent with
    | some f => f s
    | none => s.nextIssue.run s
  else
    match s.nextIssue with
    | .idle => s.runEvent
    | n => n.run s

/-- A cycle of a device that is up: what the environment does comes first. -/
def State.cycle (s : State) : Res :=
  match s.agenda with
  | i :: r => exec i { s with agenda := r, cur := none }
  | [] => s.turnOf

/-- What a device that is down answers to: its starts, and with the supply there its root of trust and the capability
registers (R508, R511). -/
def Boot.hears (b : Boot) (i : Instr) : Bool :=
  match i with
  | .coldStart _ => true
  | .perst _ | .pfFlr _ | .getMeasurements | .keyExchange _ | .registerWrite _ _ _ _ => b.supplied
  | _ => false

/-- A step of a device that is down: it waits for a start, and what it does not hear is lost. -/
def State.down (s : State) : Res :=
  match s.agenda with
  | [] => .fault .packageStopped
  | i :: r =>
    if s.boot.hears i then exec i { s with agenda := r, cur := none }
    else .next { s with agenda := r }

/-! ## An instruction placed where the next step runs it -/

/-- Eight bytes of code written at a place, whatever caches hold. -/
def State.plantWord (s : State) (l : Loc) (w : Nat) : State :=
  let bs := leBytes w 8
  let s := { s with icache := [] }
  match l.space with
  | .dev => { s with mem := cellsSet s.mem l.addr bs }
  | .host => { s with host := cellsSet s.host l.addr bs }
  | .fab => s

/-- A word of code written at a virtual address of a wave, where the address is mapped. -/
def State.plantAt (s : State) (k : Nat) (w : Wave) (a : BitVec 64) (x : Nat) : State :=
  match (s.xlate (s.agentOf k w 5) (vaOf a) false).1 with
  | .at l => s.plantWord l x
  | _ => s

/-- The wave that issues next finds the words x at its issue PC: no queue, no loop buffer and no cache holds others. -/
def State.plantNext (s : State) (k : Nat) (w : Wave) (pc : BitVec 64) (x : Nat) : State :=
  let s := s.setWave k { w with ahead := [] }
  let s := s.modSp (spOf k) (fun p => { p with loop := none })
  (s.plantAt k w pc (x % 2 ^ 64)).plantAt k w (pc + 8) (x / 2 ^ 64 % 2 ^ 64)

/-- The format descriptor of the scene: 8-byte entries, two levels, P at 0, W at 1, A at 5, D at 6, no page-size,
contiguous or kind bits, 40 frame bits from 12, root table at 0x2000 of host memory. -/
def sceneFormat : BitVec 128 :=
  BitVec.ofNat 128 (2 * 2 ^ 76 + 2 * 2 ^ 73 + 2 ^ 72 + 0 * 2 ^ 66 + 1 * 2 ^ 60 + 5 * 2 ^ 53 + 6 * 2 ^ 47 + 63 * 2 ^ 41 +
    63 * 2 ^ 35 + 12 * 2 ^ 29 + 40 * 2 ^ 23 + 63 * 2 ^ 17)

/-- The launch record of the scene: one workgroup of 32 threads whose code begins at 0x1000. -/
def sceneRecord : LaunchRec where
  entry := 0x1000
  param := 0
  ngangs := 1
  wgthr := 32
  gangsz := 1
  fuse := false
  nstage := 0
  prio := 0
  stagetbl := 0
  scratch := 0
  journal := 0
  nqueue := 0
  ringlog := 6
  cscope := 5
  incr := 0
  cntaddr := 0
  stages := []
  qwords := []

/-- The scene in which a placed instruction runs first: virtual device 1 runs, its context 0 has one mapped page of code,
and the only wave of its only workgroup stands at the first word of it, on sub-partition 0. -/
def State.scene (s : State) : State :=
  let pl : Nat × List Nat × List Nat := (0, [0], [0])
  { s with
    boot := { s.boot with up := true }
    cur := none
    clock := 1
    turn := 0
    agenda := []
    waves := [(0, Wave.start 0 0 0 0x1000 0 0 true)]
    wgs := [(0, sceneRecord.workgroup 1 0 1 0 0 0 0 pl)]
    launches := [(1, ⟨1, 0, sceneRecord, 1, 0, false, false⟩)]
    sps := [(0, { SubPart.free with holder := 1, tag := 1, till := 2 ^ 40 })]
    vds := [(1, { VDev.free with
      st := .running, mkey := 1, maxscope := 5, slice := 1, maxsp := 1, minsp := 1, weight := 1, wasReady := true })]
    ctxs := [(64, { Context.fresh with enable := true, running := true, format := sceneFormat })]
    host := cellsSet (cellsSet s.host 0x2000 (leBytes 0x3001 8)) 0x3008 (leBytes 0x4063 8)
    tlb := []
    icache := []
    reqs := []
    nextId := 2 }

/-- The state in which the next step runs the instruction whose words are w: where a wave is about to issue they stand
where it fetches them, else they stand in the scene. -/
def State.planted (s : State) (w : Nat) : State :=
  let ready := { s with agenda := [], clock := s.clock + (1 - s.clock % 2) }
  match s.boot.up, ready.nextIssue with
  | true, .issue k f _ =>
    match Tab.get? s.waves k with
    | some wv => ready.plantNext k wv f.pc w
    | none => ready
  | _, _ =>
    let t := s.scene
    { t with host := cellsSet t.host 0x4000 (leBytes w 16) }

end Sys2Proof.Machine
end

