-- ==== Sys2Proof/Machine/Step.lean ====
section
/-! DEFINITION. Step.lean: one step of the device, and the state in which the next step runs a given instruction. -/

namespace Sys2Proof.Machine

open Sys2Proof

/-- One step: what the environment does, an instruction of a wave, or an event that is due, and then what every cycle
does (R11, R24). A device that is down waits for its start. -/
def step (s : State) : Host.Outcome State Fault Refusal :=
  if s.boot.up then Res.andThen s.cycle (fun t => t.tick s) else s.down

/-- The state s with the instruction whose bits are w stored where `step` fetches its next instruction. -/
def State.withFetchWord (s : State) (_nbits w : Nat) : State := s.planted w

end Sys2Proof.Machine
end

