-- ==== Sys2Proof/Safety.lean ====
section
/-! DEFINITION. Safety.lean: the terms that claims use: the shape that every state of a run has, what it takes for an
instruction to execute, and what an instruction of each shape has done when it has executed. -/

namespace Sys2Proof.Machine

open Sys2Proof

/-- The memories are in their one canonical form: addresses strictly rising, no byte listed that an unlisted address reads
as. -/
structure State.MemOk (s : State) : Prop where
  mem     : Memory.wf s.mem
  host    : Memory.wf s.host
  peer    : Memory.wf s.peer
  scratch : Memory.wf s.scratch

/-- A step that answers a next state. -/
def Steps (s t : State) : Prop := step s = .next t

/-! ## Encodings -/

/-- Whether an instruction is an instruction of the core, which has words in memory (R69); the others are the events and
the commands of spec/opcode_table.json, which have none. -/
def hasWords : Instr → Bool
  | .iadd .. | .isub .. | .iadd3 .. | .iaddw .. | .isubw .. | .imul .. | .imulhi .. | .imad .. | .imadw ..
  | .imin .. | .imax .. | .iabs .. | .idiff .. | .iclamp .. | .icmp .. | .icmpw .. | .isel .. | .mov .. | .movw ..
  | .movhi .. | .iext .. | .idiv .. | .irem .. | .lea .. | .and .. | .or .. | .xor .. | .andn .. | .lop3 ..
  | .shl .. | .shr .. | .sar .. | .shf .. | .shlw .. | .shrw .. | .sarw .. | .bfe .. | .bfi .. | .popc .. | .clz ..
  | .ctz .. | .brev .. | .bperm .. | .ballot .. | .vote .. | .ppopc .. | .mrank .. | .shfl .. | .rdlane ..
  | .wrlane .. | .wred .. | .wscan .. | .matchLane .. | .elect .. | .plop .. | .s2p .. | .fadd .. | .fsub ..
  | .fmul .. | .ffma .. | .fmin .. | .fmax .. | .fcmp .. | .fclass .. | .frnd .. | .fscale .. | .fdiv .. | .frcp ..
  | .frsq .. | .fsqrt .. | .fexp2 .. | .flog2 .. | .fsin .. | .fcos .. | .ftanh .. | .hadd2 .. | .hmul2 ..
  | .hfma2 .. | .hmin2 .. | .hmax2 .. | .hdot2 .. | .qdot4 .. | .cvt .. | .f2i .. | .i2f .. | .hpack .. | .hunpk ..
  | .qpack .. | .qunpk .. | .q4pack .. | .q4unpk .. | .bscale .. | .pairWord .. | .illegalWord .. | .bra ..
  | .brx .. | .call .. | .callx .. | .ret .. | .exit .. | .yield .. | .nop .. | .sleep .. | .syncst .. | .cjoin ..
  | .cleave .. | .cbr .. | .cbrw .. | .csync .. | .cstat .. | .ld .. | .st .. | .ldl .. | .stl .. | .ldfe ..
  | .stfe .. | .feset .. | .ldu .. | .stu .. | .cstore .. | .xload .. | .atom .. | .atomcas .. | .atomf ..
  | .red .. | .atoml .. | .atomlcas .. | .fence .. | .cmaint .. | .icinv .. | .tres .. | .trel .. | .tevict ..
  | .tdemote .. | .barinit .. | .bararv .. | .barwt .. | .bar .. | .cntadd .. | .cntwt .. | .qinit .. | .qpush ..
  | .qpop .. | .qstat .. | .snext .. | .gset .. | .gres .. | .jcopy .. | .jgen .. | .jfill .. | .jmcast ..
  | .jmma .. | .jacc .. | .jmv .. | .jattn .. | .jrot .. | .jpub .. | .jcancel .. | .jstat .. | .jstatRing ..
  | .kvapp .. | .kvref .. | .kvdem .. | .kvlook .. | .kvfork .. | .rsig .. | .rflush .. | .rflushAll .. | .movsr ..
  | .movrs .. | .trap .. | .rft .. | .brk .. | .stsrd .. | .intr .. | .probe .. | .tlbinv .. | .tlbinvAll ..
  | .pmrd .. | .pmctl .. | .pmctlVal .. | .lcurd .. | .mark .. => true
  | .fairnessEvent .. | .threadResume .. | .sleepExpire .. | .stageReassign .. | .launchRecordRead ..
  | .gangPlacement .. | .waveRetire .. | .workgroupRetire .. | .launchCompletionAdd .. | .preemptRequest ..
  | .waveHalt .. | .preemptTimeout .. | .contextSave .. | .contextRestore .. | .trapEntry .. | .cardAdmit ..
  | .cardRelease .. | .cardStart .. | .engineGranuleWrite .. | .cardPark .. | .cardFinish .. | .cardFail ..
  | .cardCancelStop .. | .qpushCommit .. | .qpopCopyDone .. | .ismvChunk .. | .engineDrainTimeout .. | .attnStep ..
  | .kvHomeOperation .. | .kvdemCopyDone .. | .dwellStart .. | .portLinkLoss .. | .rds .. | .rdo .. | .wb ..
  | .rdu .. | .wru .. | .atm .. | .sig .. | .inv .. | .iack .. | .data .. | .ack .. | .nack .. | .retire ..
  | .rack .. | .announce .. | .flitDrop .. | .reincarnationTimeout .. | .oldKeyDrop .. | .streamFault ..
  | .consensusPhase .. | .consensusVote .. | .consensusUp .. | .consensusDown .. | .consensusRestart ..
  | .consensusMemberLost .. | .consensusRoundTimeout .. | .specCommit .. | .specRollback .. | .cbrwResolve ..
  | .rotGrant .. | .rotPiece .. | .rotAck .. | .rotAbort .. | .rotTimeout .. | .rotHeldGrantExpire ..
  | .atsInvalidation .. | .migrationLockRequest .. | .migrationDone .. | .migrationHoldoffExpire ..
  | .scrubSweepPage .. | .sliceEnd .. | .watchdogExpire .. | .killDrainComplete .. | .reincarnationComplete ..
  | .pcapExceeded .. | .vdCreate .. | .vdConfigParams .. | .vdConfigContext .. | .vdConfigFormat ..
  | .vdConfigQueue .. | .vdConfigQueueKey .. | .vdConfigPartition .. | .vdConfigFabricRes .. | .vdConfigWindow ..
  | .vdGrantMem .. | .vdRevokeMem .. | .vdBindKeyMemory .. | .vdBindKeyPartition .. | .vdBindKeyPending ..
  | .vdStart .. | .vdStop .. | .vdKill .. | .vdReset .. | .vdDestroy .. | .vdMigBegin .. | .vdMigRound ..
  | .vdMigFinal .. | .vdMigCommitSource .. | .vdMigCommitImport .. | .vdMigCommitAbort .. | .fgCreateFabric ..
  | .fgDeleteFabric .. | .fgCreateConsensus .. | .fgDeleteConsensus .. | .fgAdd .. | .irqMap .. | .ctrGrant ..
  | .ctrRevoke .. | .status .. | .badop .. | .kick .. | .faultHead .. | .faultAnswer .. | .registerWrite ..
  | .bar4Access .. | .cxlMemAccess .. | .vfFlr .. | .pfFlr .. | .perst .. | .coldStart .. | .undervoltageStop ..
  | .overtempStop .. | .thermalThrottle .. | .getMeasurements .. | .keyExchange .. | .getDeviceInterfaceReport ..
  | .stopInterface .. | .uncorrectableMemoryError .. | .lockInterface .. | .startInterface .. | .ideKm ..
  | .hostCoherenceRecall .. | .relayHop .. | .linkReplay .. | .allowanceRequest .. | .plimitExceeded ..
  | .queueLevelSample .. => false

/-! ## ALU-class instructions -/

/-- What an ALU-class instruction with destination d and sources l needs to execute: a wave stands at it, its guard is not
0b1111 (R73), the chain it would lengthen is not full (R89), no source is a latch whose read raises LATCH (R90), and no
speculation is open (R376). -/
structure AluReady (s : State) (h : Hdr) (d : Dst) (l : List Src) (i : Iss) : Prop where
  iss   : s.iss h.guard (instrLen l) = some i
  runs  : neverGuard h.guard = false
  chain : d.nwb = true → i.w.chain ≠ 4
  latch : ∀ x ∈ l, (i.rd s d.scalar).latchTrap x = false
  calm  : i.w.spec = none

/-- The register of a vector destination in a lane, at its width. -/
def Wave.dstV (w : Wave) (n l : Nat) (wide : Bool) : DWord := if wide then w.getVw n l else (w.getV n l).setWidth 64
/-- A scalar destination, at its width. -/
def Wave.dstS (w : Wave) (n : Nat) (wide : Bool) : DWord := if wide then w.getSw n else (w.getS n).setWidth 64

/-- Whether a vector destination names a register. -/
def dstNamesV (d : Dst) (wide : Bool) (r : Nat) : Bool :=
  match d with
  | .v n => r == n.toNat || (wide && r == n.toNat + 1)
  | _ => false
/-- Whether a scalar destination names a register. -/
def dstNamesS (d : Dst) (wide : Bool) (r : Nat) : Bool :=
  match d with
  | .s n => r == n.toNat || (wide && r == n.toNat + 1)
  | _ => false

/-- The lanes in which an instruction raises flags: those written, or of a scalar form the lowest participating lane
(R105). -/
def Iss.raisesIn (i : Iss) (d : Dst) (l : Nat) : Bool := if d.scalar then i.part.lowest == some l else i.part.has l

/-- What an ALU-class instruction has done to its wave: the destination holds the result `val` of each lane written
(`wr`), or the one result of a scalar form; b0 holds it where the destination is a latch; the other latches have moved on
one place; flags are added; the lanes of `active()` stand at the next instruction; and nothing else of the wave has
changed. -/
structure AluDone (i : Iss) (d : Dst) (wide : Bool) (wr : Mask) (val : Nat → DWord) (fl : Nat → BitVec 7) (w' : Wave) : Prop where
  toV     : ∀ n, d = .v n → ∀ l, wr.has l = true → w'.dstV n.toNat l wide = atWidth wide (val l)
  toS     : ∀ n, d = .s n → ∀ l, i.part.lowest = some l → w'.dstS n.toNat wide = atWidth wide (val l)
  toLV    : d = .latchV → ∀ l, wr.has l = true → w'.latchVal 0 l = some (atWidth wide (val l))
  toLS    : d = .latchS → ∀ l, i.part.lowest = some l → ∀ j, j < 32 → w'.latchVal 0 j = some (atWidth wide (val l))
  restV   : ∀ r l, l < 32 → (dstNamesV d wide r && wr.has l) = false → w'.getV r l = i.w.getV r l
  restS   : ∀ r, (dstNamesS d wide r && i.part != 0) = false → w'.getS r = i.w.getS r
  latches : w'.latch 1 = i.w.latch 0 ∧ w'.latch 2 = i.w.latch 1 ∧ w'.latch 3 = i.w.latch 2
  chain   : w'.chain = if d.nwb then i.w.chain + 1 else 0
  flags   : ∀ l, w'.flagsOf l = if i.raisesIn d l then i.w.flagsOf l ||| fl l else i.w.flagsOf l
  pcs     : ∀ l, w'.pcOf l = if i.act.has l then i.next else i.w.pcOf l
  others  : w' = { i.w with
    v := w'.v, s := w'.s, latches := w'.latches, chain := w'.chain, flags := w'.flags, seed := w'.seed, pc := w'.pc
    held := i.w.held &&& ~~~i.act, waiting := i.w.waiting &&& ~~~i.act }

/-- An ALU-class instruction that never draws from the generators has executed: nothing but its wave has changed. -/
def AluEffect (r : Res) (s : State) (i : Iss) (d : Dst) (wide : Bool) (wr : Mask) (val : Nat → DWord)
    (fl : Nat → BitVec 7) : Prop :=
  ∃ w', r = .next (s.setWave i.k w') ∧ AluDone i d wide wr val fl w' ∧ w'.seed = i.w.seed

/-- An instruction that computes each lane for itself, where one lane's result, flags and generator state come from
`f` (R105, R151). -/
def LaneEffect (r : Res) (s : State) (i : Iss) (d : Dst) (wide : Bool) (f : Nat → Word → LaneOut) : Prop :=
  let seedIn (l : Nat) : Word := if d.scalar then i.w.seedOf (i.act.lowest.getD 0) else i.w.seedOf l
  ∃ w', r = .next (s.setWave i.k w') ∧
    AluDone i d wide i.part (fun l => (f l (seedIn l)).val) (fun l => (f l (seedIn l)).flags) w' ∧
    ∀ l, w'.seedOf l =
      if d.scalar then
        (match i.part.lowest with
        | some p => if l = i.act.lowest.getD 0 then (f p (seedIn p)).seed else i.w.seedOf l
        | none => i.w.seedOf l)
      else if i.part.has l then (f l (i.w.seedOf l)).seed else i.w.seedOf l

/-! ## Integers (R109) -/

/-- The exact value of an operand: unsigned, or two's complement. -/
def exactOf (u : Bool) {n : Nat} (x : BitVec n) : Int := if u then (x.toNat : Int) else x.toInt
/-- The least integer of a width. -/
def leastOf (n : Nat) (u : Bool) : Int := if u then 0 else -(2 ^ (n - 1))
/-- The greatest integer of a width. -/
def greatestOf (n : Nat) (u : Bool) : Int := if u then 2 ^ n - 1 else 2 ^ (n - 1) - 1
/-- An exact result as it is written: clamped where the instruction saturates; a write keeps its low bits. -/
def clampTo (n : Nat) (u sat : Bool) (x : Int) : Int :=
  if sat then max (leastOf n u) (min (greatestOf n u) x) else x
/-- SAT is set where a saturating instruction clamps. -/
def satFlag (n : Nat) (u sat : Bool) (x : Int) : BitVec 7 :=
  if sat && (decide (x < leastOf n u) || decide (greatestOf n u < x)) then flagSAT else 0

/-! ## Rounding (R144 to R147) and the bounds of R176 -/

/-- The value of a finite number. -/
def Num.rat : Num → ℚ
  | .fin n m e => (if n then -1 else 1) * m * 2 ^ e
  | _ => 0
/-- Whether a number is finite. -/
def Num.isFin : Num → Bool
  | .fin _ _ _ => true
  | _ => false

/-- The case `up` of R144 for a magnitude of lo + f spacings. -/
def GoesUp (mode : RMode) (neg : Bool) (draw lo : Nat) (f : ℝ) : Prop :=
  match mode with
  | .rne => 1 / 2 < f ∨ (f = 1 / 2 ∧ lo % 2 = 1)
  | .rna => 1 / 2 ≤ f
  | .rz => False
  | .ru => 0 < f ∧ neg = false
  | .rd => 0 < f ∧ neg = true
  | .sr => 65536 ≤ ⌊f * 65536⌋₊ + draw

/-- The magnitude y rounds to r spacings of 2^u (R144). -/
def RoundsTo (mode : RMode) (neg : Bool) (draw : Nat) (y : ℝ) (u : Int) (r : Nat) : Prop :=
  ∃ (lo : Nat) (f : ℝ), 0 ≤ f ∧ f < 1 ∧ y = (lo + f) * 2 ^ u ∧
    (GoesUp mode neg draw lo f → r = lo + 1) ∧ (¬GoesUp mode neg draw lo f → r = lo)

/-- The rows of R146 for a finite overflow: a code and its flags. -/
def Overflows (f : Fmt) (mode : RMode) (sat neg : Bool) (c : Nat × BitVec 7) : Prop :=
  if sat = true then c = (f.code neg f.maxc, flagSAT)
  else match f.infc with
    | none => c = (f.nan, flagOF)
    | some i =>
      c = (if mode = .rz ∨ (mode = .ru ∧ neg = true) ∨ (mode = .rd ∧ neg = false) then f.code neg f.maxc else f.code neg i, flagOF)

/-- The value (−1)^neg × y, y > 0, rounded into a format gives the code and the flags c (R144 to R147). -/
def RoundedInto (f : Fmt) (mode : RMode) (sat neg : Bool) (draw : Nat) (y : ℝ) (c : Nat × BitVec 7) : Prop :=
  ∃ (x : Int) (r : Nat) (uf : BitVec 7),
    let v : ℝ := r * 2 ^ (x - f.t)
    let below : Prop := y < 2 ^ f.emin ∧ v ≠ y
    ((2 ^ x ≤ y ∧ y < 2 ^ (x + 1) ∧ f.emin ≤ x) ∨ (y < 2 ^ f.emin ∧ x = f.emin)) ∧
    RoundsTo mode neg draw y (x - f.t) r ∧
    (below → uf = flagUF) ∧ (¬below → uf = 0) ∧
    (r = 0 → c = (f.zeroCode neg, uf)) ∧
    (r ≠ 0 → neg = true → f.sgn = false → c = if sat then (0, flagSAT ||| uf) else (f.nan, flagNV ||| uf)) ∧
    (r ≠ 0 → (neg = true → f.sgn = true) →
      ((f.maxNum.rat : ℝ) < v → Overflows f mode sat neg c) ∧
      (v ≤ (f.maxNum.rat : ℝ) → c.2 = uf ∧
        ∃ m e, f.val c.1 = .fin neg m e ∧ ((Num.fin false m e).rat : ℝ) = v))

/-- A binary32 result lies within a distance of a value. -/
def WithinOf (d y : ℝ) (r : Word) : Prop :=
  (Fmt.f32.val r.toNat).isFin = true ∧ |((Fmt.f32.val r.toNat).rat : ℝ) - y| ≤ d
/-- A binary32 result lies within k ulp of a value: spacings of binary32 at that value. -/
def WithinUlps (k : Nat) (y : ℝ) (r : Word) : Prop :=
  ∃ l : Int, 2 ^ l ≤ |y| ∧ |y| < 2 ^ (l + 1) ∧ WithinOf (k * 2 ^ (max l (-126) - 23)) y r

/-! ## Instructions that write only a predicate -/

/-- What an instruction that writes only a predicate needs to execute. -/
structure PredReady (s : State) (h : Hdr) (l : List Src) (i : Iss) : Prop where
  iss   : s.iss h.guard (instrLen l) = some i
  runs  : neverGuard h.guard = false
  latch : ∀ x ∈ l, (i.rd s false).latchTrap x = false

/-- It has executed: the predicate holds `bits` in the participating lanes and what it held in the others (a write of p7
is discarded), an open chain is closed, and nothing else has changed. -/
def PredEffect (r : Res) (s : State) (i : Iss) (pd : BitVec 3) (bits : Mask) : Prop :=
  ∃ w', r = .next (s.setWave i.k w') ∧
    (∀ q : BitVec 3, w'.getP q.toNat =
      if q = pd ∧ pd ≠ 7 then (i.w.getP q.toNat &&& ~~~i.part) ||| (bits &&& i.part) else i.w.getP q.toNat) ∧
    (∀ l, w'.pcOf l = if i.act.has l then i.next else i.w.pcOf l) ∧
    w' = { i.w with
      p := w'.p, pc := w'.pc, chain := 0, held := i.w.held &&& ~~~i.act, waiting := i.w.waiting &&& ~~~i.act }

/-! ## Other instructions of a wave -/

/-- What an instruction that is not ALU-class needs to execute: a wave stands at it, no chain is open (R89), its guard is
not 0b1111, and no speculation is open. -/
structure IssueReady (s : State) (h : Hdr) (len : Nat) (i : Iss) : Prop where
  iss   : s.iss h.guard len = some i
  chain : i.w.chain = 0
  runs  : neverGuard h.guard = false
  calm  : i.w.spec = none

/-- It answers the state t, in which its wave is w' and every other wave stands as it stood. -/
def Leaves (r : Res) (s : State) (i : Iss) (t : State) (w' : Wave) : Prop :=
  r = .next t ∧ Tab.get? t.waves i.k = some w' ∧ ∀ j, j ≠ i.k → Tab.get? t.waves j = Tab.get? s.waves j

/-- Every byte of device and host memory reads as before. -/
def SameGlobal (s t : State) : Prop := ∀ l : Loc, l.space ≠ .fab → t.readLoc l = s.readLoc l
/-- Every byte of the scratchpads reads as before, and every full/empty bit. -/
def SameScratch (s t : State) : Prop :=
  (∀ a, cellGet t.scratch a = cellGet s.scratch a) ∧ ∀ g, t.feOf g = s.feOf g

/-- Whether an instruction's k destination registers name a vector register. -/
def regsNameV (d : Option RegDst) (k r : Nat) : Bool :=
  match d with
  | some (.v n) => decide (n.toNat ≤ r) && decide (r < n.toNat + k)
  | _ => false
/-- Whether they name a scalar register. -/
def regsNameS (d : Option RegDst) (k r : Nat) : Bool :=
  match d with
  | some (.s n) => decide (n.toNat ≤ r) && decide (r < n.toNat + k)
  | _ => false
/-- The k registers of a destination in a lane. -/
def Wave.regsOf (w : Wave) (d : RegDst) (k l : Nat) : List Word :=
  (List.range k).map (fun j => match d with
    | .v n => w.getV (n.toNat + j) l
    | .s n => w.getS (n.toNat + j))
/-- A destination of k registers stands at a multiple of k (R80, R214). -/
def regFits (d : RegDst) (k : Nat) : Bool :=
  match d with
  | .v n | .s n => n.toNat % k == 0

/-- An instruction that ends its wave's run has executed: registers other than its destination, predicates other than `pd`
and every field that is not named here are as they were; the latches are invalid (R90); DEMOTED may have been set (R238);
the lanes of `active()` stand at the next instruction. -/
structure RunDone (i : Iss) (d : Option RegDst) (k : Nat) (pd : Option (BitVec 3)) (w' : Wave) : Prop where
  restV  : ∀ r l, l < 32 → (regsNameV d k r && i.part.has l) = false → w'.getV r l = i.w.getV r l
  restS  : ∀ r, (regsNameS d k r && i.part != 0) = false → w'.getS r = i.w.getS r
  preds  : ∀ q : BitVec 3, pd ≠ some q → w'.getP q.toNat = i.w.getP q.toNat
  scope  : w'.dscope = i.w.dscope ∨ w'.dscope = i.w.dscope ||| 0x100
  pcs    : ∀ l, w'.pcOf l = if i.act.has l then i.next else i.w.pcOf l
  others : w' = { i.w.dropLatches with
    v := w'.v, s := w'.s, p := w'.p, dscope := w'.dscope, pc := w'.pc
    held := i.w.held &&& ~~~i.act, waiting := i.w.waiting &&& ~~~i.act }

/-- What a release, a fence or a checking instruction finds in its way is absent: no refused store is unreported, no
access of the wave is still on the fabric, and nothing written on a shared peer line is still to be sent home (R240, R346). -/
structure Settled (s : State) (i : Iss) : Prop where
  stores : i.w.refused = []
  fabric : s.outstanding i.k = false
  shared : ∀ e ∈ s.llc, e.1 / 2 ^ 60 = 3 → e.2.dirty = true → e.2.hold = .owned

/-- The checks of a checking instruction pass (R52, R163, R306, R346): no thread is parked for a reason other than 6, no
lane of `m` has an enabled flag, and no card of the workgroup has failed unreported. -/
structure ChecksPass (s : State) (i : Iss) (m : Mask) : Prop where
  free    : i.w.blocked = false
  arith   : i.w.arith m = 0
  jobs    : ∀ g, s.wgOf i.w = some g → g.failedCard = none
  stores  : i.w.refused = []

/-! ## Memory as a function of its places -/

/-- n bytes from a place. -/
def bytesIn (f : Loc → Byte) (l : Loc) (n : Nat) : List Byte := (List.range n).map (fun j => f ⟨l.space, l.addr + j⟩)
/-- Bytes put at a place. -/
def withBytes (f : Loc → Byte) (l : Loc) (bs : List Byte) : Loc → Byte :=
  fun a => if a.space = l.space ∧ l.addr ≤ a.addr then (bs[a.addr - l.addr]?).getD (f a) else f a
/-- Bytes put into pieces in order. -/
def intoPieces (f : Loc → Byte) : List Piece → List Byte → Loc → Byte
  | [], _ => f
  | p :: r, bs => intoPieces (withBytes f p.loc (bs.take p.len)) r (bs.drop p.len)
/-- The stores of lanes, one lane after another. -/
def storesOf (f : Loc → Byte) (data : Nat → List Byte) (l : List (Nat × List Piece)) : Loc → Byte :=
  l.foldl (fun f e => intoPieces f e.2 (data e.1)) f
/-- The turns of an atomic's lanes, one after another: what each lane found, and the memory after them all. -/
def turnsOf (new : Nat → List Byte → List Byte) (n : Nat) (f : Loc → Byte) : List (Nat × Loc) → List (Nat × List Byte) × (Loc → Byte)
  | [] => ([], f)
  | (l, a) :: r =>
    let old := bytesIn f a n
    let t := turnsOf new n (withBytes f a (new l old)) r
    ((l, old) :: t.1, t.2)

/-- n bytes of a workgroup's scratchpad. -/
def scratchIn (f : Nat → Byte) (g : Workgroup) (e n : Nat) : List Byte := (List.range n).map (fun j => f (scratchAddr g (e + j)))
/-- Bytes put into a workgroup's scratchpad. -/
def scratchWith (f : Nat → Byte) (g : Workgroup) (e : Nat) : List Byte → Nat → Byte
  | [] => f
  | b :: r => scratchWith (fun a => if a = scratchAddr g e then b else f a) g (e + 1) r
/-- The turns of a scratchpad atomic's lanes. -/
def scratchTurns (new : Nat → List Byte → List Byte) (g : Workgroup) (n : Nat) (f : Nat → Byte) :
    List (Nat × Nat) → List (Nat × List Byte) × (Nat → Byte)
  | [] => ([], f)
  | (l, e) :: r =>
    let old := scratchIn f g e n
    let t := scratchTurns new g n (scratchWith f g e (new l old)) r
    ((l, old) :: t.1, t.2)

/-- The lanes of an instruction on global memory with the pieces of their accesses, where translation finds every one of
them on this device or in host memory, no peer holds a line that has to be recalled, and nothing of the wave is still on the
fabric (R240). `t` is the state after the translations, which may have filled TLBs and set accessed and dirty bits (R448, R450). -/
def Reached (s : State) (i : Iss) (sc : Bool) (addr : Nat → DWord) (n align : Nat) (wr : Bool) (ok : List (Nat × List Piece))
    (t : State) : Prop :=
  let g := s.agentOf i.k i.w 0
  s.lanesX g n align wr ((i.who sc).map (fun l => (l, addr l))) = (ok.map (fun e => (e.1, .ok e.2)), t) ∧
  (∀ e ∈ ok, ∀ p ∈ e.2, p.isFab = false) ∧
  t.recallPlaces wr (ok.flatMap (fun e => e.2.map (fun q => (t.homePlace g.vd q.loc, q.len)))) = none ∧
  s.outstanding i.k = false

/-- The lanes of an instruction on global memory with what the check and the translation of each access found, where no lane
has a fault, no piece lies on a peer's memory, no peer holds a line that has to be recalled, and nothing of the wave is still
on the fabric. `t` is the state after the translations. -/
def Sorted (s : State) (i : Iss) (sc : Bool) (addr : Nat → DWord) (n : Nat) (wr : Bool) (out : List (Nat × LaneX)) (t : State) :
    Prop :=
  let g := s.agentOf i.k i.w 0
  let ok := out.filterMap (fun e => match e.2 with | .ok ps => some (e.1, ps) | _ => none)
  s.lanesX g n 1 wr ((i.who sc).map (fun l => (l, addr l))) = (out, t) ∧
  (∀ e ∈ out, ∀ c, e.2 ≠ .bad c) ∧
  (∀ e ∈ ok, ∀ p ∈ e.2, p.isFab = false) ∧
  t.recallPlaces wr (ok.flatMap (fun e => e.2.map (fun q => (t.homePlace g.vd q.loc, q.len)))) = none ∧
  s.outstanding i.k = false

/-- The pages that lanes wait for, in the order of the lanes. -/
def absentPages (out : List (Nat × LaneX)) : List Nat :=
  out.filterMap (fun e => match e.2 with | .wait va => some va | _ => none)
/-- The accesses of the lanes whose pages are there. -/
def presentPieces (out : List (Nat × LaneX)) : List (Nat × List Piece) :=
  out.filterMap (fun e => match e.2 with | .ok ps => some (e.1, ps) | _ => none)
/-- The lanes that wait for a page. -/
def Iss.waiting (i : Iss) (sc : Bool) (out : List (Nat × LaneX)) : Mask :=
  Mask.ofFn (fun l => out.any (fun e => (match e.2 with | .wait _ => true | _ => false) && (i.for sc e.1).has l))

/-- An instruction has parked the lanes `p` with a reason and executed for the others: a parked lane keeps its registers and
its PC, and the rest is as `RunDone` says. -/
structure ParkDone (i : Iss) (d : Option RegDst) (k : Nat) (p : Mask) (reason : Nat) (w' : Wave) : Prop where
  restV   : ∀ r l, l < 32 → (regsNameV d k r && i.part.has l && !p.has l) = false → w'.getV r l = i.w.getV r l
  restS   : ∀ r, (regsNameS d k r && i.part != 0 && p == 0) = false → w'.getS r = i.w.getS r
  preds   : ∀ q : BitVec 3, w'.getP q.toNat = i.w.getP q.toNat
  scope   : w'.dscope = i.w.dscope ∨ w'.dscope = i.w.dscope ||| 0x100
  pcs     : ∀ l, w'.pcOf l = if i.act.has l && !p.has l then i.next else i.w.pcOf l
  parked  : w'.parked = i.w.parked ||| p
  reasons : ∀ l, w'.reasonOf l = if p.has l then reason else i.w.reasonOf l
  others  : w' = { i.w.dropLatches with
    v := w'.v, s := w'.s, p := w'.p, dscope := w'.dscope, pc := w'.pc, parked := w'.parked, reason := w'.reason
    parkArg := w'.parkArg, group := w'.group
    held := i.w.held &&& ~~~(i.act &&& ~~~p), waiting := i.w.waiting &&& ~~~(i.act &&& ~~~p) }

/-- Stores of n bytes made one after another, where translation finds each of them on this device or in host memory and no peer
holds a line of it. -/
def State.storedInTurn (s : State) (g : Agent) (n : Nat) : List (DWord × List Byte) → Option State
  | [] => some s
  | (a, bs) :: r =>
    let x := s.laneX g a n 1 true
    match x.1 with
    | .ok ps =>
      if ps.any Piece.isFab || (x.2.recallPlaces true (ps.map (fun q => (x.2.homePlace g.vd q.loc, q.len)))).isSome then none
      else State.storedInTurn (ps.foldl (fun (y : State × List Byte) p =>
        (y.1.waveStore g false p (y.2.take p.len), y.2.drop p.len)) (x.2, bs)).1 g n r
    | _ => none

/-! ## Cards -/

/-- The newest card of a workgroup is one of the bytes `bs`, published at what PUB was, and PUB has moved past its
entries (R283, R290). -/
def Published (s t : State) (gid : Nat) (g : Workgroup) (bs : List Byte) : Prop :=
  ∃ g' c, Tab.get? t.wgs gid = some g' ∧ g'.cards.getLast? = some c ∧ c.seq = s.pub g ∧ c.bytes = bs ∧
    c.st = .published ∧ c.guard = cGuard bs ∧ g'.jnotify = g.jnotify ∧ t.pub g' = (s.pub g + cEntries bs) % 2 ^ 64

/-- What a job instruction needs to publish a card of the bytes `bs` (R290, R291, R309): the card is well-formed, its guard
slot is open or true, no refused store is unreported, nothing of the wave is on the fabric, and the ring has room. -/
structure JobReady (s : State) (i : Iss) (g : Workgroup) (j : JobOps) (bs : List Byte) : Prop where
  part   : i.part ≠ 0
  free   : i.w.blocked = false
  wg     : s.wgOf i.w = some g
  notify : g.jnotify % 16 = 0
  card   : g.cardOk bs = true
  body   : s.bodyOk g bs = true
  guard  : cGuard bs = j.g.toNat ∧ (j.g = 0 ∨ g.guardSt (j.g.toNat - 1) = .opened ∨ g.guardSt (j.g.toNat - 1) = .yes)
  calm   : Settled s i
  room   : cEntries bs ≤ s.ringFree g

end Sys2Proof.Machine
end

