-- ==== Sys2Proof/Certificates/Slice0/Obligations.lean ====
section
/-! DEFINITION. Obligations.lean: the statements about this model, for the provers. -/

open Sys2Proof Sys2Proof.Machine

/-! ## Integer instructions (R109 to R121) -/

/-- R109, R110, R115: a sum, difference, product or multiply-add is the exact one, modulo 2^32 or 2^64 or clamped with SAT, in
every participating lane; SAT is the only flag; nothing else of the state changes. LEA gives its address. -/
def Obligations.IntegerSumsAndProducts : Prop :=
  (∀ (s : State) (h : Hdr) (d : Dst) (a b c : Src) (u sat : Bool) (i : Iss),
     let x (y : Src) (l : Nat) : Int := exactOf u ((i.rd s d.scalar).w32 y l)
     let done (j : Instr) (e : Nat → Int) : Prop :=
       AluEffect (exec j s) s i d false i.part (fun l => BitVec.ofInt 64 (clampTo 32 u sat (e l)))
         (fun l => satFlag 32 u sat (e l))
     (AluReady s h d [a, b] i →
       done (.iadd h d a b u sat) (fun l => x a l + x b l) ∧
       done (.isub h d a b u sat) (fun l => x a l - x b l) ∧
       done (.imul h d a b u sat) (fun l => x a l * x b l)) ∧
     (AluReady s h d [a, b, c] i →
       done (.iadd3 h d a b c u sat) (fun l => x a l + x b l + x c l) ∧
       done (.imad h d a b c u sat) (fun l => x a l * x b l + x c l))) ∧
  (∀ (s : State) (h : Hdr) (d : Dst) (a b c : Src) (u sat : Bool) (sh : BitVec 3) (i : Iss),
     let rd := i.rd s d.scalar
     let x (y : Src) (l : Nat) : Int := exactOf u (rd.w32 y l)
     let xw (y : Src) (l : Nat) : Int := exactOf u (rd.val y .w64 l)
     let done (j : Instr) (e : Nat → Int) : Prop :=
       AluEffect (exec j s) s i d true i.part (fun l => BitVec.ofInt 64 (clampTo 64 u sat (e l)))
         (fun l => satFlag 64 u sat (e l))
     (AluReady s h d [a, b] i →
       done (.iaddw h d a b u sat) (fun l => xw a l + xw b l) ∧
       done (.isubw h d a b u sat) (fun l => xw a l - xw b l)) ∧
     (AluReady s h d [a, b, c] i →
       done (.imadw h d a b c u sat) (fun l => x a l * x b l + xw c l) ∧
       AluEffect (exec (.lea h d a b c u sh) s) s i d true i.part
         (fun l => rd.val a .w64 l + (if u then (rd.w32 b l).setWidth 64 else (rd.w32 b l).signExtend 64) <<< sh.toNat +
           (rd.w32 c l).signExtend 64) (fun _ => 0)))

/-- R109, R110, R114: the lesser and greater of two integers, absolute value, absolute difference, clamp, and the high half of
a product. Quotients round toward zero; a divisor of 0 gives all ones and the dividend as remainder, and sets IDZ; the most
negative number over −1 gives itself, or the greatest number and SAT where the instruction saturates. -/
def Obligations.IntegerExtremesAndDivision : Prop :=
  (∀ (s : State) (h : Hdr) (d : Dst) (a b c : Src) (u sat w : Bool) (i : Iss),
     let rd := i.rd s d.scalar
     let x (y : Src) (l : Nat) : Int := exactOf u (rd.w32 y l)
     let xw (y : Src) (l : Nat) : Int := if w then exactOf u (rd.val y .w64 l) else x y l
     let done (j : Instr) (wide : Bool) (e : Nat → Int) : Prop :=
       AluEffect (exec j s) s i d wide i.part (fun l => BitVec.ofInt 64 (e l)) (fun _ => 0)
     (AluReady s h d [a] i →
       AluEffect (exec (.iabs h d a sat) s) s i d false i.part
         (fun l => BitVec.ofInt 64 (clampTo 32 false sat (|(rd.w32 a l).toInt|)))
         (fun l => satFlag 32 false sat (|(rd.w32 a l).toInt|))) ∧
     (AluReady s h d [a, b] i →
       done (.imin h d a b u w) w (fun l => min (xw a l) (xw b l)) ∧
       done (.imax h d a b u w) w (fun l => max (xw a l) (xw b l)) ∧
       done (.idiff h d a b u) false (fun l => |x a l - x b l|) ∧
       done (.imulhi h d a b u) false (fun l => x a l * x b l / 2 ^ 32)) ∧
     (AluReady s h d [a, b, c] i →
       done (.iclamp h d a b c u) false (fun l => min (max (x a l) (x b l)) (x c l)))) ∧
  (∀ (s : State) (h : Hdr) (d : Dst) (a b : Src) (u sat w : Bool) (i : Iss), AluReady s h d [a, b] i →
     let rd := i.rd s d.scalar
     let n := if w then 64 else 32
     let x (y : Src) (l : Nat) : Int := if w then exactOf u (rd.val y .w64 l) else exactOf u (rd.w32 y l)
     let zero (l : Nat) : Bool := decide (x b l = 0)
     let corner (l : Nat) : Bool := !u && decide (x a l = leastOf n false) && decide (x b l = -1)
     AluEffect (exec (.idiv h d a b u sat w) s) s i d w i.part
       (fun l => BitVec.ofInt 64 (if zero l then -1 else if corner l then
         (if sat then greatestOf n false else leastOf n false) else Int.tdiv (x a l) (x b l)))
       (fun l => if zero l then flagIDZ else if corner l && sat then flagSAT else 0) ∧
     AluEffect (exec (.irem h d a b u w) s) s i d w i.part
       (fun l => BitVec.ofInt 64 (if zero l then x a l else Int.tmod (x a l) (x b l)))
       (fun l => if zero l then flagIDZ else 0))

/-- R144 to R147, R149, R167, R168, R171, R175, R176: ROUNDING. An exact value is rounded once into a format: the spacing at
it, the six modes, overflow, infinities and NaN, saturation, signed zeros, underflow and subnormals; conversion to an integer
format clamps. FDIV rounds the exact quotient and FSQRT the exact root; sums and products are exact; a flushing instruction
replaces a result below the smallest normal; FRND rounds to an integral value.
Model choices in it: log entry 74. -/
def Obligations.Rounding : Prop :=
  (∀ (f : Fmt) (mode : RMode) (sat neg : Bool) (draw : Nat),
     f = .f32 ∨ f = .f16 ∨ f = .bf16 ∨ f = .acc ∨ (∃ c inf, EFmt.ofCode c inf = some (.fl f)) → draw < 65536 →
     let r := f.round mode sat draw
     r .nan = (f.nan, 0) ∧ f.val f.nan = .nan ∧
     r (.inf neg) = (if neg = true ∧ f.sgn = false then if sat then (0, flagSAT) else (f.nan, flagNV)
       else if sat then (f.code neg f.maxc, flagSAT)
       else match f.infc with
         | some i => (f.code neg i, 0)
         | none => (f.nan, flagNV)) ∧
     (∀ i, f.infc = some i → f.val (f.code false i) = .inf false ∧ (f.sgn = true → f.val (f.code true i) = .inf true)) ∧
     f.val (f.code false f.maxc) = f.maxNum ∧ (∀ c, |(f.val c).rat| ≤ f.maxNum.rat) ∧
     (∀ e, r (.fin neg 0 e) = (f.zeroCode neg, 0)) ∧ (f.val (f.zeroCode neg)).isZero = true ∧
     (f.val (f.zeroCode neg)).neg = (neg && f.sgn && f.zs) ∧
     (∀ m e k g, 0 < m → 0 < k →
       RoundedInto f mode sat neg draw ((Machine.Num.fin false m e).rat : ℝ) (r (.fin neg m e)) ∧
       RoundedInto f mode sat neg draw (((Machine.Num.fin false m e).rat / (Machine.Num.fin false k g).rat : ℚ) : ℝ)
         (r (.fin neg (quotient m e k g).1 (quotient m e k g).2)) ∧
       RoundedInto f mode sat neg draw (Real.sqrt ((Machine.Num.fin false m e).rat : ℝ))
         (r (.fin neg (sqrtParts m e).1 (sqrtParts m e).2)))) ∧
  (∀ (g : IFmt) (mode : RMode) (neg : Bool) (draw m : Nat) (e : Int), draw < 65536 →
     g.round mode draw .nan = (0, flagNV) ∧
     g.round mode draw (.inf neg) = (if neg then g.lo else g.hi, flagSAT) ∧
     ∃ r : Nat, RoundsTo mode neg draw ((Machine.Num.fin false m e).rat : ℝ) 0 r ∧
       let y : Int := if neg then -(r : Int) else r
       g.round mode draw (.fin neg m e) = if y < g.lo then (g.lo, flagSAT) else if g.hi < y then (g.hi, flagSAT) else (y, 0)) ∧
  (∀ (f : Fmt) (e : FEnv) (z : Word) (x : Machine.Num) (fl : BitVec 7), f = .f32 ∨ f = .f16 ∨ f = .bf16 →
     let s := z ^^^ (z <<< 13)
     let s := s ^^^ (s >>> 17)
     let s := s ^^^ (s <<< 5)
     let d : Nat × Word := if e.mode = .sr then ((s >>> 16).toNat, s) else (0, z)
     let low : Prop := e.flush = true ∧ x.isFin = true ∧ x.rat ≠ 0 ∧ |x.rat| < 2 ^ f.emin
     (low → finish f e z (x, fl) = ⟨BitVec.ofNat 64 (f.zeroCode x.neg), fl ||| flagUF, d.2⟩) ∧
     (¬low → finish f e z (x, fl) =
       ⟨BitVec.ofNat 64 (f.round e.mode e.sat d.1 x).1, fl ||| (f.round e.mode e.sat d.1 x).2, d.2⟩)) ∧
  (∀ (low : Bool) (x y w : Machine.Num),
     let is (r : Machine.Num × BitVec 7) (v : ℚ) : Prop := r.1.isFin = true ∧ r.1.rat = v ∧ r.2 = 0
     (x.isFin = true → y.isFin = true →
       is (addNum low x y) (x.rat + y.rat) ∧ is (mulNum x y) (x.rat * y.rat) ∧ (mulNum x y).1.neg = (x.neg != y.neg) ∧
       (w.isFin = true → is (fmaNum low x y w) (x.rat * y.rat + w.rat)) ∧
       (x.rat + y.rat = 0 → (addNum low x y).1.neg = if x.rat = 0 ∧ x.neg = y.neg then x.neg else low)) ∧
     (∀ m e k g n p, 0 < k → divNum (.fin n m e) (.fin p k g) =
       (if m = 0 then .zero (n != p) else .fin (n != p) (quotient m e k g).1 (quotient m e k g).2, 0)) ∧
     (∀ m e g n p, divNum (.fin n m e) (.fin p 0 g) = if m = 0 then (.nan, flagNV) else (.inf (n != p), flagDZ)) ∧
     (x = .nan ∨ y = .nan → addNum low x y = (.nan, 0) ∧ mulNum x y = (.nan, 0) ∧ divNum x y = (.nan, 0)) ∧
     (∀ n p, addNum low (.inf n) (.inf p) = (if n = p then (.inf n, 0) else (.nan, flagNV)) ∧
       mulNum (.inf n) (.inf p) = (.inf (n != p), 0) ∧ divNum (.inf n) (.inf p) = (.nan, flagNV)) ∧
     (∀ n, x.isFin = true → addNum low (.inf n) x = (.inf n, 0) ∧ addNum low x (.inf n) = (.inf n, 0) ∧
       mulNum (.inf n) x = (if x.rat = 0 then (.nan, flagNV) else (.inf (n != x.neg), 0)) ∧
       mulNum x (.inf n) = (if x.rat = 0 then (.nan, flagNV) else (.inf (n != x.neg), 0)) ∧
       divNum (.inf n) x = (.inf (n != x.neg), 0) ∧ divNum x (.inf n) = (.zero (n != x.neg), 0)) ∧
     (∀ n, x.isFin = true → x.rat = 0 → fmaNum low (.inf n) x .nan = (.nan, flagNV)) ∧
     (∀ m e, 0 < m → sqrtNum (.fin false m e) = (.fin false (sqrtParts m e).1 (sqrtParts m e).2, 0) ∧
       sqrtNum (.fin true m e) = (.nan, flagNV)) ∧
     (∀ n e, sqrtNum (.fin n 0 e) = (.zero n, 0)) ∧
     sqrtNum (.inf false) = (.inf false, 0) ∧ sqrtNum (.inf true) = (.nan, flagNV) ∧ sqrtNum .nan = (.nan, 0)) ∧
  (∀ (mode : RMode) (z : Word) (b : Nat), b < 2 ^ 32 →
     let d := drawFor mode z
     let r := frndBits mode z b
     r.flags = 0 ∧ r.seed = d.2 ∧
     (Fmt.f32.val b = .nan → r.val = 0x7FC00000) ∧
     (∀ n, Fmt.f32.val b = .inf n → r.val = BitVec.ofNat 64 b) ∧
     (∀ n m e, Fmt.f32.val b = .fin n m e →
       (2 ^ 23 ≤ |(Machine.Num.fin n m e).rat| → r.val = BitVec.ofNat 64 b) ∧
       (|(Machine.Num.fin n m e).rat| < 2 ^ 23 → ∃ k : Nat,
         RoundsTo mode n d.1 ((Machine.Num.fin false m e).rat : ℝ) 0 k ∧
         ∃ m' e', Fmt.f32.val r.val.toNat = .fin n m' e' ∧ (Machine.Num.fin false m' e').rat = k)))

/-- R112, R113, R116: moves, the select by a predicate, the extensions; AND, OR, XOR, ANDN and the three-input function of
LOP3, at 32 and at 64 bits. -/
def Obligations.MovesAndLogic : Prop :=
  (∀ (s : State) (h : Hdr) (d : Dst) (a b : Src) (ps : BitVec 3) (pn w : Bool) (mode : ExtMode) (i : Iss),
     let rd := i.rd s d.scalar
     let done (j : Instr) (wide : Bool) (e : Nat → DWord) : Prop := AluEffect (exec j s) s i d wide i.part e (fun _ => 0)
     (AluReady s h d [a] i →
       done (.mov h d a) false (fun l => (rd.w32 a l).setWidth 64) ∧
       done (.movw h d a) true (fun l => rd.val a .w64 l) ∧
       done (.iext h d a mode) (mode = .s32 ∨ mode = .u32) (fun l => match mode with
         | .s8 => (slice (rd.w32 a l) 0 8).signExtend 64
         | .u8 => (slice (rd.w32 a l) 0 8).setWidth 64
         | .s16 => (slice (rd.w32 a l) 0 16).signExtend 64
         | .u16 => (slice (rd.w32 a l) 0 16).setWidth 64
         | .s32 => (rd.w32 a l).signExtend 64
         | .u32 => (rd.w32 a l).setWidth 64)) ∧
     (AluReady s h d [a, b] i →
       done (.movhi h d a b) true (fun l => rd.w32 a l ++ rd.w32 b l) ∧
       done (.isel h d a b ps pn w) w (fun l =>
         rd.val (if (i.w.getP ps.toNat).has l = !pn then a else b) (if w then .w64 else .w32) l))) ∧
  (∀ (s : State) (h : Hdr) (d : Dst) (a b c : Src) (w : Bool) (lut : BitVec 8) (i : Iss),
     let x (y : Src) (l : Nat) : DWord := (i.rd s d.scalar).val y (if w then .w64 else .w32) l
     let done (j : Instr) (e : Nat → DWord) : Prop := AluEffect (exec j s) s i d w i.part e (fun _ => 0)
     let pick (t : Bool) (y : DWord) : DWord := if t then y else ~~~y
     (AluReady s h d [a, b] i →
       done (.and h d a b w) (fun l => x a l &&& x b l) ∧
       done (.or h d a b w) (fun l => x a l ||| x b l) ∧
       done (.xor h d a b w) (fun l => x a l ^^^ x b l) ∧
       done (.andn h d a b w) (fun l => x a l &&& ~~~(x b l))) ∧
     (AluReady s h d [a, b, c] i →
       done (.lop3 h d a b c w lut) (fun l => (List.range 8).foldl (fun r k =>
         if lut.getLsbD k then
           r ||| (pick (k.testBit 2) (x a l) &&& pick (k.testBit 1) (x b l) &&& pick (k.testBit 0) (x c l))
         else r) 0)))

/-- R117 to R121: shifts (a count of the width or more gives zero or the sign, or with WRAP the count is taken modulo the
width) and the funnel shift; bit fields, counts, reversal and the byte permutation
(the clause of BPERM, R121, is the model's choice of log entry 18).
Model choices in it: log entry 18. -/
def Obligations.ShiftsAndBitFields : Prop :=
  (∀ (s : State) (h : Hdr) (d : Dst) (a b c : Src) (wrap : Bool) (dir : ShfDir) (i : Iss),
     let rd := i.rd s d.scalar
     let x (y : Src) (l : Nat) : Word := rd.w32 y l
     let xw (y : Src) (l : Nat) : DWord := rd.val y .w64 l
     let n (bits l : Nat) : Nat := if wrap then (x b l).toNat % bits else (x b l).toNat
     let k (l : Nat) : Nat := if wrap then (x c l).toNat % 64 else min (x c l).toNat 64
     let done (j : Instr) (wide : Bool) (e : Nat → DWord) : Prop := AluEffect (exec j s) s i d wide i.part e (fun _ => 0)
     (AluReady s h d [a, b] i →
       done (.shl h d a b wrap) false (fun l => (x a l <<< n 32 l).setWidth 64) ∧
       done (.shr h d a b wrap) false (fun l => (x a l >>> n 32 l).setWidth 64) ∧
       done (.sar h d a b wrap) false (fun l => ((x a l).sshiftRight (n 32 l)).setWidth 64) ∧
       done (.shlw h d a b wrap) true (fun l => xw a l <<< n 64 l) ∧
       done (.shrw h d a b wrap) true (fun l => xw a l >>> n 64 l) ∧
       done (.sarw h d a b wrap) true (fun l => (xw a l).sshiftRight (n 64 l))) ∧
     (AluReady s h d [a, b, c] i →
       done (.shf h d a b c dir wrap) false (fun l => match dir with
         | .r => (slice ((x b l ++ x a l : DWord) >>> k l) 0 32).setWidth 64
         | .l => (slice ((x b l ++ x a l : DWord) <<< k l) 32 32).setWidth 64))) ∧
  (∀ (s : State) (h : Hdr) (d : Dst) (a b c : Src) (sx w : Bool) (i : Iss),
     let rd := i.rd s d.scalar
     let n := if w then 64 else 32
     let x (y : Src) (l : Nat) : DWord := rd.val y (if w then .w64 else .w32) l
     let pos (y : Src) (l : Nat) : Nat := (slice (rd.w32 y l) 0 8).toNat
     let len (y : Src) (l : Nat) : Nat := min (slice (rd.w32 y l) 8 8).toNat n
     let done (j : Instr) (wide : Bool) (e : Nat → DWord) : Prop := AluEffect (exec j s) s i d wide i.part e (fun _ => 0)
     (AluReady s h d [a] i →
       done (.popc h d a w) false (fun l => BitVec.ofNat 64 (((List.range n).filter (x a l).getLsbD).length)) ∧
       done (.clz h d a w) false (fun l =>
         BitVec.ofNat 64 (((List.range n).takeWhile (fun j => !(x a l).getLsbD (n - 1 - j))).length)) ∧
       done (.ctz h d a w) false (fun l =>
         BitVec.ofNat 64 (((List.range n).takeWhile (fun j => !(x a l).getLsbD j)).length)) ∧
       done (.brev h d a w) w (fun l => if w then (x a l).reverse else ((rd.w32 a l).reverse).setWidth 64)) ∧
     (AluReady s h d [a, b] i →
       done (.bfe h d a b sx w) w (fun l =>
         let f := (x a l >>> pos b l) &&& BitVec.ofNat 64 (2 ^ len b l - 1)
         if sx && decide (0 < len b l) && f.getLsbD (len b l - 1) then f ||| ~~~(BitVec.ofNat 64 (2 ^ len b l - 1)) else f)) ∧
     (AluReady s h d [a, b, c] i →
       done (.bfi h d a b c w) w (fun l =>
         let m : DWord := BitVec.ofNat 64 (2 ^ len c l - 1) <<< pos c l
         (x b l &&& ~~~m) ||| ((x a l <<< pos c l) &&& m)) ∧
       done (.bperm h d a b c) false (fun l =>
         let byte (j : Nat) : BitVec 8 :=
           let t := (slice (rd.w32 c l) (4 * j) 4).toNat
           let y : BitVec 8 := slice (rd.w32 b l ++ rd.w32 a l : DWord) (8 * (t % 8)) 8
           if t < 8 then y else if y.msb then 0xFF else 0
         (byte 3 ++ byte 2 ++ byte 1 ++ byte 0 : Word).setWidth 64)))

/-! ## Predicates and lanes (R111, R122 to R130, R173) -/

/-- R111, R124, R129, R130, R173: the instructions that write only a predicate: comparisons (combined with the old
predicate), votes, ELECT without a register, predicate logic and the tests of S2P. -/
def Obligations.PredicateResults : Prop :=
  ∀ (s : State) (h : Hdr) (pd p q : BitVec 3) (a b : Src) (u neg mask : Bool) (cmp : Cmp) (fc : FCmp) (comb : Comb)
    (ma mb : SMod) (lut : BitVec 4) (i : Iss),
    let rd := i.rd s false
    let old := i.w.getP pd.toNat
    let joined (t : Nat → Bool) : Mask :=
      match comb with
      | .set => Mask.ofFn t
      | .and => old &&& Mask.ofFn t
      | .or => old ||| Mask.ofFn t
      | .xor => old ^^^ Mask.ofFn t
    let rel (x y : Int) : Bool :=
      match cmp with
      | .eq => decide (x = y)
      | .ne => decide (x ≠ y)
      | .lt => decide (x < y)
      | .le => decide (x ≤ y)
      | .gt => decide (y < x)
      | .ge => decide (y ≤ x)
    let chosen : Mask := i.part &&& (if neg then ~~~(i.w.getP p.toNat) else i.w.getP p.toNat)
    let done (j : Instr) (bits : Mask) : Prop := PredEffect (exec j s) s i pd bits
    (PredReady s h [a, b] i →
      done (.icmp h pd a b cmp u comb) (joined (fun l => rel (exactOf u (rd.w32 a l)) (exactOf u (rd.w32 b l)))) ∧
      done (.icmpw h pd a b cmp u comb) (joined (fun l => rel (exactOf u (rd.val a .w64 l)) (exactOf u (rd.val b .w64 l)))) ∧
      done (.fcmp h pd a b ma mb fc comb) (joined (fun l =>
        let x := rd.f32 i.w.ftz ma a l
        let y := rd.f32 i.w.ftz mb b l
        if x.isNan || y.isNan then decide (fc = .ne ∨ fc = .un)
        else match fc with
          | .eq => decide (x.cmp y = 0)
          | .ne => decide (x.cmp y ≠ 0)
          | .lt => decide (x.cmp y < 0)
          | .le => decide (x.cmp y ≤ 0)
          | .gt => decide (0 < x.cmp y)
          | .ge => decide (0 ≤ x.cmp y)
          | .un => false
          | .ord => true))) ∧
    (PredReady s h [] i →
      done (.vote h .any pd p neg) (if chosen = 0 then 0 else 0xFFFFFFFF) ∧
      done (.vote h .all pd p neg) (if chosen = i.part then 0xFFFFFFFF else 0) ∧
      done (.vote h .uni pd p neg) (if chosen = 0 ∨ chosen = i.part then 0xFFFFFFFF else 0) ∧
      done (.elect h pd none) (Mask.ofFn (fun l => i.part.lowest == some l)) ∧
      done (.plop h pd p q lut) (Mask.ofFn (fun l =>
        lut.getLsbD (2 * ((i.w.getP p.toNat).has l).toNat + ((i.w.getP q.toNat).has l).toNat)))) ∧
    (PredReady s h [a] i →
      done (.s2p h pd a mask) (Mask.ofFn (fun l => if mask then (rd.w32 a l).getLsbD l else decide (rd.w32 a l ≠ 0))))

/-- R122 to R126, R128, R129: masks as values, ranks, shuffles, reads and writes of one lane, MATCH, and the lane of
ELECT, whose predicate marks that lane alone. -/
def Obligations.LaneResults : Prop :=
  ∀ (s : State) (h : Hdr) (d : Dst) (a b : Src) (vs : BitVec 6) (p : BitVec 3) (neg w : Bool) (mode : ShflMode)
    (seg : ShflSeg) (i : Iss),
    let rd := i.rd s d.scalar
    let x (y : Src) (l : Nat) : DWord := rd.val y (if w then .w64 else .w32) l
    let chosen : Mask := i.part &&& (if neg then ~~~(i.w.getP p.toNat) else i.w.getP p.toNat)
    let number (m : Mask) (l : Nat) : Nat := ((List.range l).filter m.getLsbD).length
    let sz : Nat := match seg with
      | .seg32 => 32
      | .seg16 => 16
      | .seg8 => 8
      | .seg4 => 4
      | .seg2 => 2
      | .seg1 => 1
    let k (l : Nat) : Nat := (rd.w32 b l).toNat
    let from_ (l : Nat) : Nat := match mode with
      | .idx => l / sz * sz + k l % sz
      | .up => if k l ≤ l % sz then l - k l else l
      | .down => if l % sz + k l < sz then l + k l else l
      | .xor => l ^^^ (k l % sz)
    let done (j : Instr) (wide : Bool) (wr : Mask) (e : Nat → DWord) : Prop :=
      AluEffect (exec j s) s i d wide wr e (fun _ => 0)
    (AluReady s h d [] i →
      (d.scalar = true →
        done (.ballot h d p neg) false 0 (fun _ => chosen.setWidth 64) ∧
        done (.ppopc h d p neg) false 0 (fun _ => BitVec.ofNat 64 (number chosen 32)) ∧
        ∃ w', exec (.elect h p (some d)) s = .next (s.setWave i.k w') ∧
          AluDone i d false 0 (fun l => BitVec.ofNat 64 l) (fun _ => 0) { w' with p := i.w.p } ∧
          (p ≠ 7 → ∀ l, i.part.has l = true → (w'.getP p.toNat).has l = decide (i.part.lowest = some l))) ∧
      (d.scalar = false →
        done (.mrank h d p neg) false i.part (fun l => BitVec.ofNat 64 (number chosen l)))) ∧
    (AluReady s h d [b] i → d.scalar = true →
      done (.rdlane h d vs b w) w 0 (fun l => x (.v vs) ((rd.w32 b l).toNat % 32))) ∧
    (AluReady s h d [a, b] i → d.scalar = false →
      done (.shfl h d a b mode seg w) w i.part (fun l => x a (if i.part.has (from_ l) then from_ l else l)) ∧
      (i.part ≠ 0 →
        let one := { rd with scalar := true }
        let j := (one.w32 b i.lane).toNat % 32
        done (.wrlane h d a b w) w (i.part &&& Mask.one j) (fun _ => one.val a (if w then .w64 else .w32) i.lane))) ∧
    (AluReady s h d [a] i → d.scalar = false →
      done (.matchLane h d a w) false i.part (fun l =>
        (Mask.ofFn (fun j => i.part.has j && decide (x a j = x a l))).setWidth 64))

/-- R127, R129: WRED folds the participating lanes in rising order and draws from the lowest of them; WSCAN gives each lane
the fold of the lanes up to it, or below it; ELECT with a register gives the number of the elected lane.
Model choices in it: log entry 74. -/
def Obligations.ReductionsAndScans : Prop :=
  ∀ (s : State) (h : Hdr) (d : Dst) (a : Src) (vs : BitVec 6) (op : RedOp) (pd : BitVec 3) (w excl : Bool) (i : Iss),
    let rd := i.rd s d.scalar
    let e : FEnv := ⟨i.w.rm, false, i.w.ftz⟩
    let x (y : Src) (l : Nat) : DWord := rd.val y (if w then .w64 else .w32) l
    let num (y : DWord) : Int := if w then y.toInt else (slice y 0 32 : Word).toInt
    let bin (y : DWord) : Nat := modBits .f32 e.flush noMod (slice y 0 32 : Word).toNat
    let two (y t : DWord) (z : Word) : LaneOut :=
      match op with
      | .add => ⟨y + t, 0, z⟩
      | .and => ⟨y &&& t, 0, z⟩
      | .or => ⟨y ||| t, 0, z⟩
      | .xor => ⟨y ^^^ t, 0, z⟩
      | .min => ⟨if num y < num t then y else t, 0, z⟩
      | .max => ⟨if num y < num t then t else y, 0, z⟩
      | .umin => ⟨if atWidth w y < atWidth w t then y else t, 0, z⟩
      | .umax => ⟨if atWidth w y < atWidth w t then t else y, 0, z⟩
      | .fadd => finish .f32 e z (addNum (e.mode == .rd) (Fmt.f32.val (bin y)) (Fmt.f32.val (bin t)))
      | .fmin => ⟨BitVec.ofNat 64 (minMaxBits .f32 false (bin y) (bin t)), 0, z⟩
      | .fmax => ⟨BitVec.ofNat 64 (minMaxBits .f32 true (bin y) (bin t)), 0, z⟩
    let fold (y : Nat → DWord) : LaneOut :=
      match i.part.lanes with
      | [] => ⟨0, 0, 0⟩
      | l :: r => r.foldl (fun o j =>
          let n := two o.val (y j) o.seed
          ⟨n.val, o.flags ||| n.flags, n.seed⟩) ⟨y l, 0, i.w.seedOf l⟩
    let before (l : Nat) : Option DWord :=
      (i.part.lanes.filter (fun j => decide (j < l))).foldl (fun acc j =>
        match acc with
        | none => some (x a j)
        | some y => some (two y (x a j) (i.w.seedOf j)).val) none
    let first : DWord :=
      match op with
      | .add | .or | .xor | .umax => 0
      | .min => if w then 0x7FFFFFFFFFFFFFFF else 0x7FFFFFFF
      | .max => if w then 0x8000000000000000 else 0x80000000
      | .umin | .and => if w then 0xFFFFFFFFFFFFFFFF else 0xFFFFFFFF
      | .fadd => 0x80000000
      | .fmin => 0x7F800000
      | .fmax => 0xFF800000
    let last (l : Nat) : Bool := (List.range 32).all (fun j => !i.part.has j || decide (j ≤ l))
    (AluReady s h d [] i →
      (∃ w', exec (.wred h d vs op w) s = .next (s.setWave i.k w') ∧
        AluDone i d w i.part (fun _ => (fold (x (.v vs))).val) (fun _ => (fold (x (.v vs))).flags) w' ∧
        ∀ j, w'.seedOf j = if i.part.lowest = some j then (fold (x (.v vs))).seed else i.w.seedOf j) ∧
      (d.scalar = true →
        ∃ w', exec (.elect h pd (some d)) s = .next (s.setWave i.k w') ∧
          AluDone i d false 0 (fun l => BitVec.ofNat 64 l) (fun _ => 0) { w' with p := i.w.p } ∧
          (∀ q : BitVec 3, w'.getP q.toNat =
            if q = pd ∧ pd ≠ 7 then (i.w.getP q.toNat &&& ~~~i.part) ||| Mask.ofFn (fun l => i.part.lowest == some l)
            else i.w.getP q.toNat))) ∧
    (AluReady s h d [a] i → d.scalar = false →
      ∃ w', exec (.wscan h d a op w excl) s = .next (s.setWave i.k w') ∧
        AluDone i d w i.part
          (fun l => match before l with
            | none => if excl then first else x a l
            | some y => if excl then y else (two y (x a l) (i.w.seedOf l)).val)
          (fun l => match before l with
            | some y => if excl && last l then 0 else (two y (x a l) (i.w.seedOf l)).flags
            | none => 0) w' ∧
        ∀ l, w'.seedOf l = match i.part.has l, before l with
          | true, some y => if excl && last l then i.w.seedOf l else (two y (x a l) (i.w.seedOf l)).seed
          | _, _ => i.w.seedOf l)

/-! ## Floating point (R165 to R185) -/

/-- R171, R175, R176: the instructions that round: each lane's exact result, from operands after modifiers and flush, is
rounded once, in the mode in force.
Model choices in it: log entry 74. -/
def Obligations.RoundedArithmetic : Prop :=
  ∀ (s : State) (h : Hdr) (d : Dst) (a b c : Src) (ma mb mc : SMod) (m : FMod) (rm : Option RMode) (ftz : Bool) (i : Iss),
    let rd := i.rd s d.scalar
    let e := fenv m i.w
    let r := fenv ⟨rm, false, ftz⟩ i.w
    let x (n : SMod) (y : Src) (l : Nat) : Machine.Num := rd.f32 e.flush n y l
    let done (j : Instr) (f : Nat → Machine.Num × BitVec 7) : Prop :=
      LaneEffect (exec j s) s i d false (fun l z => finish .f32 e z (f l))
    let low := e.mode == .rd
    (AluReady s h d [a] i →
      LaneEffect (exec (.fsqrt h d a ma rm ftz) s) s i d false
        (fun l z => finish .f32 r z (sqrtNum (rd.f32 r.flush ma a l))) ∧
      LaneEffect (exec (.frnd h d a ma rm ftz) s) s i d false
        (fun l z => frndBits r.mode z (modBits .f32 r.flush ma (rd.w32 a l).toNat))) ∧
    (AluReady s h d [a, b] i →
      done (.fadd h d a b ma mb m) (fun l => addNum low (x ma a l) (x mb b l)) ∧
      done (.fsub h d a b ma mb m) (fun l => addNum low (x ma a l) (x mb b l).negate) ∧
      done (.fmul h d a b ma mb m) (fun l => mulNum (x ma a l) (x mb b l)) ∧
      done (.fdiv h d a b ma mb m) (fun l => divNum (x ma a l) (x mb b l)) ∧
      done (.fscale h d a b ma m) (fun l => ((x ma a l).scale (max (-2000) (min 2000 (rd.w32 b l).toInt)), 0))) ∧
    (AluReady s h d [a, b, c] i →
      done (.ffma h d a b c ma mb mc m) (fun l => fmaNum low (x ma a l) (x mb b l) (x mc c l)))

/-- R172, R174, R176: the floating instructions that do not round by `%rmode`: FMIN, FMAX, FCLASS and the functions of the
table of R176, with the special and the exact cases of that table and their flags (the bounds are in `FunctionBounds`).
Model choices in it: log entry 21. -/
def Obligations.UnroundedResults : Prop :=
  (∀ (s : State) (h : Hdr) (d : Dst) (a b : Src) (ma mb : SMod) (ftz : Bool) (i : Iss),
     let rd := i.rd s d.scalar
     let flush := ftz || i.w.ftz
     let bits (n : SMod) (y : Src) (l : Nat) : Nat := modBits .f32 flush n (rd.w32 y l).toNat
     let table (f : Word → Bool → Machine.Num → Word × BitVec 7) (l : Nat) : Word × BitVec 7 :=
       f (BitVec.ofNat 32 (modBits .f32 false ma (rd.w32 a l).toNat)) flush (Fmt.f32.val (bits ma a l))
     let done (j : Instr) (f : Nat → Word × BitVec 7) : Prop :=
       AluEffect (exec j s) s i d false i.part (fun l => (f l).1.setWidth 64) (fun l => (f l).2)
     let one (n : Nat) : Word × BitVec 7 := (1#32 <<< n, 0)
     (AluReady s h d [a] i →
       done (.frcp h d a ma ftz) (table frcpBits) ∧
       done (.frsq h d a ma ftz) (table frsqBits) ∧
       done (.fexp2 h d a ma ftz) (table fexp2Bits) ∧
       done (.flog2 h d a ma ftz) (table flog2Bits) ∧
       done (.fsin h d a ma ftz) (table fsinBits) ∧
       done (.fcos h d a ma ftz) (table fcosBits) ∧
       done (.ftanh h d a ma ftz) (table ftanhBits) ∧
       done (.fclass h d a) (fun l =>
         let y := rd.w32 a l
         let mag := (slice y 0 31 : BitVec 31).toNat
         if 0x7F800000 < mag then one 8
         else if mag = 0x7F800000 then one (if y.msb then 0 else 7)
         else if mag = 0 then one (if y.msb then 3 else 4)
         else if mag < 0x00800000 then one (if y.msb then 2 else 5)
         else one (if y.msb then 1 else 6))) ∧
     (AluReady s h d [a, b] i →
       done (.fmin h d a b ma mb ftz) (fun l => (BitVec.ofNat 32 (minMaxBits .f32 false (bits ma a l) (bits mb b l)), 0)) ∧
       done (.fmax h d a b ma mb ftz) (fun l => (BitVec.ofNat 32 (minMaxBits .f32 true (bits ma a l) (bits mb b l)), 0)))) ∧
  (∀ (b : Nat) (a : Word) (flush : Bool),
     let x := Fmt.f32.val b
     let inf (n : Bool) : Word := if n then 0xFF800000 else 0x7F800000
     let zero (n : Bool) : Word := if n then 0x80000000 else 0
     let one (n : Bool) : Word := if n then 0xBF800000 else 0x3F800000
     let nan : Word := 0x7FC00000
     let is (r : Word × BitVec 7) (y : ℚ) : Prop := ∃ n m e, Fmt.f32.val r.1.toNat = .fin n m e ∧ (Machine.Num.fin n m e).rat = y
     let small (r : Word × BitVec 7) : BitVec 7 := if (slice r.1 0 31 : BitVec 31).toNat < 0x00800000 then flagUF else 0
     (x = .nan → ∀ f ∈ [frcpBits, frsqBits, fexp2Bits, flog2Bits, fsinBits, fcosBits, ftanhBits], f a flush x = (nan, 0)) ∧
     (∀ n, x = .inf n →
       frcpBits a flush x = (zero n, 0) ∧
       frsqBits a flush x = (if n then (nan, flagNV) else (0, 0)) ∧
       fexp2Bits a flush x = (if n then 0 else inf false, 0) ∧
       flog2Bits a flush x = (if n then (nan, flagNV) else (inf false, 0)) ∧
       fsinBits a flush x = (nan, flagNV) ∧
       fcosBits a flush x = (nan, flagNV) ∧
       ftanhBits a flush x = (one n, 0)) ∧
     (∀ n e, x = .fin n 0 e →
       frcpBits a flush x = (inf n, flagDZ) ∧
       frsqBits a flush x = (inf n, flagDZ) ∧
       fexp2Bits a flush x = (one false, 0) ∧
       flog2Bits a flush x = (inf true, flagDZ) ∧
       fsinBits a flush x = (zero n, 0) ∧
       fcosBits a flush x = (one false, 0) ∧
       ftanhBits a flush x = (zero n, 0)) ∧
     (∀ n m e, x = .fin n m e → 0 < m →
       let y : ℚ := x.rat
       (n = true → frsqBits a flush x = (nan, flagNV) ∧ flog2Bits a flush x = (nan, flagNV)) ∧
       (|y⁻¹| < 2 ^ (128 : Int) →
         (flush = true → |y⁻¹| < 2 ^ (-126 : Int) → frcpBits a flush x = (zero n, flagUF)) ∧
         (flush = false ∨ 2 ^ (-126 : Int) ≤ |y⁻¹| →
           (frcpBits a flush x).2 = small (frcpBits a flush x) ∧
           ∀ k : Int, |y| = 2 ^ k → is (frcpBits a flush x) y⁻¹)) ∧
       (n = false → (frsqBits a flush x).2 = 0 ∧ ∀ k : Int, y = 2 ^ (2 * k) → is (frsqBits a flush x) (2 ^ (-k))) ∧
       (128 ≤ y → fexp2Bits a flush x = (inf false, flagOF)) ∧
       (y < 128 →
         (flush = true → y < -126 → fexp2Bits a flush x = (0, flagUF)) ∧
         (flush = false ∨ -126 ≤ y → (fexp2Bits a flush x).2 = small (fexp2Bits a flush x) ∧
           ∀ k : Int, y = k → -149 ≤ k → is (fexp2Bits a flush x) (2 ^ k))) ∧
       (n = false → (flog2Bits a flush x).2 = 0 ∧ ∀ k : Int, y = 2 ^ k → is (flog2Bits a flush x) k) ∧
       (∀ k : Int, 2 * y = k → fsinBits a flush x = (0, 0)) ∧
       (∀ k : Int, y = k → fcosBits a flush x = (one false, 0)) ∧
       (∀ k : Int, y = k + 1 / 2 → fcosBits a flush x = (one true, 0)) ∧
       (∀ k : Int, 2 * y = k + 1 / 2 → fcosBits a flush x = (0, 0)) ∧
       (9 ≤ |y| → ftanhBits a flush x = (one n, 0)))) ∧
  (∀ (f : Fmt) (a b : Nat), f = .f32 ∨ f = .f16 ∨ f = .bf16 →
     let x := f.val a
     let y := f.val b
     let min := minMaxBits f false a b
     let max := minMaxBits f true a b
     (x = .nan → y = .nan → min = f.nan ∧ max = f.nan) ∧
     (x = .nan → y ≠ .nan → min = b ∧ max = b) ∧
     (x ≠ .nan → y = .nan → min = a ∧ max = a) ∧
     (x ≠ .nan → y = x → f.val min = x ∧ f.val max = x) ∧
     (x = .inf true → y ≠ .nan → y ≠ x → min = a ∧ max = b) ∧ (y = .inf true → x ≠ .nan → y ≠ x → min = b ∧ max = a) ∧
     (x = .inf false → y ≠ .nan → y ≠ x → min = b ∧ max = a) ∧ (y = .inf false → x ≠ .nan → y ≠ x → min = a ∧ max = b) ∧
     (x.isFin = true → y.isFin = true →
       (x.rat < y.rat → min = a ∧ max = b) ∧ (y.rat < x.rat → min = b ∧ max = a) ∧
       (x.rat = y.rat → x.neg = true → y.neg = false → min = a ∧ max = b) ∧
       (x.rat = y.rat → x.neg = false → y.neg = true → min = b ∧ max = a)))

/-- R177, R178: packed arithmetic rounds each 16-bit element for itself, the low one first; the dot products round one exact
sum; the integer QDOT4 wraps, or clamps with SAT.
Model choices in it: log entry 74. -/
def Obligations.PackedArithmetic : Prop :=
  ∀ (s : State) (h : Hdr) (d : Dst) (a b c : Src) (ma mb mc : SMod) (m : FMod) (fmt : Fmt16) (ftz : Bool)
    (fc : BitVec 6) (inf sat : Bool) (rm : Option RMode) (i : Iss),
    let rd := i.rd s d.scalar
    let e := fenv m i.w
    let q := fenv ⟨rm, sat, false⟩ i.w
    let f := fmt16 fmt
    let low := e.mode == .rd
    let bits (flush : Bool) (n : SMod) (y : Src) (j l : Nat) : Nat := rd.half fmt flush n y j l
    let x (n : SMod) (y : Src) (j l : Nat) : Machine.Num := f.val (bits e.flush n y j l)
    let byte (y : Src) (l j : Nat) : Nat := (slice (rd.w32 y l) (8 * j) 8 : BitVec 8).toNat
    let halves (g : Nat → Nat → Machine.Num × BitVec 7) (l : Nat) (z : Word) : LaneOut :=
      let p := finish f e z (g 0 l)
      let r := finish f e p.seed (g 1 l)
      ⟨p.val + r.val * 65536, p.flags ||| r.flags, r.seed⟩
    let done (j : Instr) (g : Nat → Word → LaneOut) : Prop := LaneEffect (exec j s) s i d false g
    let least (g : Bool) (l : Nat) : DWord :=
      let fl := ftz || i.w.ftz
      BitVec.ofNat 64 (minMaxBits f g (bits fl ma a 0 l) (bits fl mb b 0 l) +
        minMaxBits f g (bits fl ma a 1 l) (bits fl mb b 1 l) * 65536)
    (AluReady s h d [a, b] i →
      done (.hadd2 h d a b ma mb m fmt) (halves (fun j l => addNum low (x ma a j l) (x mb b j l))) ∧
      done (.hmul2 h d a b ma mb m fmt) (halves (fun j l => mulNum (x ma a j l) (x mb b j l))) ∧
      AluEffect (exec (.hmin2 h d a b ma mb ftz fmt) s) s i d false i.part (least false) (fun _ => 0) ∧
      AluEffect (exec (.hmax2 h d a b ma mb ftz fmt) s) s i d false i.part (least true) (fun _ => 0)) ∧
    (AluReady s h d [a, b, c] i →
      done (.hfma2 h d a b c ma mb mc m fmt) (halves (fun j l => fmaNum low (x ma a j l) (x mb b j l) (x mc c j l))) ∧
      done (.hdot2 h d a b c ma mb mc m fmt) (fun l z => finish .f32 e z
        (dotNum low [(x ma a 0 l, x mb b 0 l), (x ma a 1 l, x mb b 1 l)] (rd.f32 e.flush mc c l))) ∧
      (∀ g, EFmt.ofCode fc.toNat inf = some (.fl g) →
        done (.qdot4 h d a b c fc inf rm sat) (fun l z => finish .f32 q z
          (dotNum (q.mode == .rd) ((List.range 4).map (fun j => (g.val (byte a l j), g.val (byte b l j))))
            (rd.f32 q.flush noMod c l)))) ∧
      (∀ g, EFmt.ofCode fc.toNat inf = some (.int g) →
        let total (l : Nat) : Int := (rd.w32 c l).toInt +
          ((List.range 4).map (fun j => g.val (byte a l j) * g.val (byte b l j))).sum
        AluEffect (exec (.qdot4 h d a b c fc inf rm sat) s) s i d false i.part
          (fun l => BitVec.ofInt 64 (clampTo 32 false sat (total l))) (fun l => satFlag 32 false sat (total l))))

/-- R179 to R181: conversions among binary32, the 16-bit formats and the integers: one exact value, rounded once; an
integer result is clamped with SAT, and a NaN gives 0 with NV. R182 to R185: with a legal format word in every participating
lane, the pack instructions put two quantised elements into the low byte and the unpack instructions give an element's exact
value; the scale byte of BSCALE.
Model choices in it: log entries 19, 20, 22 and 75. -/
def Obligations.Conversions : Prop :=
  (∀ (s : State) (h : Hdr) (d : Dst) (a b : Src) (sf df : FFmt) (it : IType) (m : FMod) (fmt : Fmt16) (rm : Option RMode)
     (ftz half : Bool) (i : Iss),
     let rd := i.rd s d.scalar
     let e := fenv m i.w
     let r := fenv ⟨rm, false, ftz⟩ i.w
     let n : Nat := match it with
       | .s64 | .u64 => 64
       | .s32 | .u32 => 32
       | .s16 | .u16 => 16
       | .s8 | .u8 => 8
     let u : Bool := match it with
       | .u64 | .u32 | .u16 | .u8 => true
       | .s64 | .s32 | .s16 | .s8 => false
     let x (flush : Bool) (l : Nat) : Machine.Num := rd.conv sf flush a l
     let whole (l : Nat) : Int :=
       let y : Nat := (rd.val a (if n = 64 then .w64 else .w32) l).toNat % 2 ^ n
       if !u && decide (2 ^ (n - 1) ≤ y) then (y : Int) - 2 ^ n else y
     (AluReady s h d [a] i →
       LaneEffect (exec (.cvt h d a sf df m) s) s i d false (fun l z =>
         finish (ffmt df) { e with sat := e.sat && decide (sf ≠ df) } z (x e.flush l, 0)) ∧
       LaneEffect (exec (.f2i h d a sf it rm ftz) s) s i d (decide (n = 64)) (fun l z =>
         let g := drawFor r.mode z
         match x r.flush l with
         | .nan => ⟨0, flagNV, g.2⟩
         | .inf neg => ⟨BitVec.ofInt 64 (if neg then leastOf n u else greatestOf n u), flagSAT, g.2⟩
         | .fin neg k p =>
           let y := roundInt r.mode g.1 neg k p
           ⟨BitVec.ofInt 64 (clampTo n u true y), satFlag n u true y, g.2⟩) ∧
       LaneEffect (exec (.i2f h d a df it m) s) s i d false (fun l z => finish (ffmt df) e z (.ofInt (whole l), 0)) ∧
       AluEffect (exec (.hunpk h d a half ftz fmt) s) s i d false i.part
         (fun l => BitVec.ofNat 64 (Fmt.f32.round .rne false 0
           ((fmt16 fmt).val (rd.half fmt (ftz || i.w.ftz) noMod a half.toNat l))).1) (fun _ => 0)) ∧
     (AluReady s h d [a, b] i →
       LaneEffect (exec (.hpack h d a b m fmt) s) s i d false (fun l z =>
         let p := finish (fmt16 fmt) e z (rd.f32 e.flush noMod a l, 0)
         let q := finish (fmt16 fmt) e p.seed (rd.f32 e.flush noMod b l, 0)
         ⟨p.val + q.val * 65536, p.flags ||| q.flags, q.seed⟩))) ∧
  ((∀ (s : State) (h : Hdr) (d : Dst) (a fw e : Src) (n : Bool) (k : BitVec 2) (i : Iss),
      let rd := i.rd s d.scalar
      let legal (four : Bool) : Prop := ∀ l, i.part.has l = true → (narrowWord four (rd.w32 fw l)).isSome = true
      let scale (f : FWord) (l : Nat) : Nat := if f.asc = 1 then (slice (rd.w32 e l) 0 8 : BitVec 8).toNat else 127
      let pack (four : Bool) (p l : Nat) (z : Word) : LaneOut :=
        match narrowWord four (rd.w32 fw l) with
        | none => ⟨0, 0, z⟩
        | some (t, f) =>
          let bits := if four then 4 else 8
          let x := packOne t f (scale f l) z (Fmt.f32.val (slice (rd.val a .w64 l) 0 32 : Word).toNat)
          let y := packOne t f (scale f l) x.2.2 (Fmt.f32.val (slice (rd.val a .w64 l) 32 32 : Word).toNat)
          let at_ := 2 * bits * p
          let mask : DWord := BitVec.ofNat 64 (2 ^ (2 * bits) - 1) <<< at_
          ⟨((oldDst d i.w l).setWidth 64 &&& ~~~mask) ||| (BitVec.ofNat 64 (x.1 + y.1 * 2 ^ bits) <<< at_),
            x.2.1 ||| y.2.1, y.2.2⟩
      let unpack (four : Bool) (p l : Nat) (z : Word) : LaneOut :=
        match narrowWord four (rd.w32 fw l) with
        | none => ⟨0, 0, z⟩
        | some (t, f) =>
          let bits := if four then 4 else 8
          let v (j : Nat) : Machine.Num :=
            scaled (t.val ((rd.w32 a l).toNat / 2 ^ (bits * (2 * p + j)) % 2 ^ bits))
              (if f.asc = 1 then e8 (scale f l) else some 0) 0
          let x := finish .f32 ⟨f.mode, f.sat, false⟩ z (v 0, 0)
          let y := finish .f32 ⟨f.mode, f.sat, false⟩ x.seed (v 1, 0)
          ⟨y.val <<< 32 ||| x.val, x.flags ||| y.flags, y.seed⟩
      AluReady s h d [a, fw, e] i →
        (legal false →
          LaneEffect (exec (.qpack h d a fw e n) s) s i d false (pack false n.toNat) ∧
          LaneEffect (exec (.qunpk h d a fw e n) s) s i d true (unpack false n.toNat)) ∧
        (legal true →
          LaneEffect (exec (.q4pack h d a fw e k) s) s i d false (pack true k.toNat) ∧
          LaneEffect (exec (.q4unpk h d a fw e k) s) s i d true (unpack true k.toNat))) ∧
   (∀ (s : State) (h : Hdr) (d : Dst) (a fw : Src) (fit : Bool) (i : Iss), AluReady s h d [a, fw] i →
      let rd := i.rd s d.scalar
      (∀ l, i.part.has l = true → (bscaleWord (rd.w32 fw l)).isSome = true) →
      AluEffect (exec (.bscale h d a fw fit) s) s i d false i.part
        (fun l => match bscaleWord (rd.w32 fw l) with
          | none => 0
          | some g => (bscaleBits g fit (rd.w32 a l)).1)
        (fun l => match bscaleWord (rd.w32 fw l) with
          | none => 0
          | some g => (bscaleBits g fit (rd.w32 a l)).2) ∧
      ∀ (g : Fmt) (x : Word),
        let mag := (slice x 0 31 : BitVec 31).toNat
        (mag < 0x00800000 → bscaleBits g fit x = (127, 0)) ∧
        (0x7F800000 < mag → bscaleBits g fit x = (127, flagNV)) ∧
        (mag = 0x7F800000 → bscaleBits g fit x = (254, flagSOR))))

/-- R298, R304, R322, R325, R329, R391 to R393, R424, R425: THE WORK OF THE ENGINES, where a card runs that is not stopped and
does not deliver its bytes to a barrier. A copy within scratchpad moves the elements of one destination granule and PROG
follows; JMMA leaves in each element of its tiles the accumulation of its groups in order, and their tag, or fails with TYPE;
JACC clears, loads or converts; a chunk of JMV writes its elements of y; an attention card takes the step of 16 tokens for every
row once their granules are full; the gather and the reduce consumer of a rotation handle a landed piece. Arithmetic is that of
`EngineArithmetic`.
Model choices in it: log entry 109. -/
def Obligations.EngineWork : Prop :=
  ∀ (s : State) (e : Engine) (r : CardRef) (g : Workgroup) (c : Card) (q : Run),
    s.running e = some (r, g, c, q) → s.stops r c q = false → cCm c.bytes ≠ 2 → c.code = 0 → q.done = false →
    (∀ x ∈ s.engines, ∀ z, x.2.run = some z → z.card = r → z = q) →
    let f := FWord.of (BitVec.ofNat 32 (cWord c.bytes 0))
    let old := cellGet s.scratch
    let run (t : State) : Option Run := (t.engine e).run
    let card (t : State) : Option Card := (t.card? r).map Prod.snd
    let goes (p : State → Prop) : Prop := ∃ t, s.engineNext e = .go t ∧ p t
    let key (slot tile : Nat) : Nat := tileKey g.core (g.halfOf slot) tile
    let int := fmtInt f.afmt
    let group (acc : Nat) (iv : List Int × List Int) (fv : List Machine.Num × List Machine.Num) : Nat :=
      if int then (accInt48 acc (iv.1.zip iv.2)).1 else (accAdd acc (groupSum (fv.1.zip fv.2))).1
    -- copy
    (∀ n k, e = .copy n k → c.kind = 1 ∨ c.kind = 2 ∨ c.kind = 3 → q.desc ≠ [] → s.cardBusy r = false →
      let d := CopyDesc.of q.desc
      let prog := if c.kind = 2 then microOps (c.bytes.drop 32) else []
      let gran (e : Nat) : Option Int := (d.target e).map (fun y => y / 32)
      let es := ((List.range d.total).drop q.prog).takeWhile (fun e => gran e == gran q.prog)
      let bytes (h : Nat → Byte) (e : Nat) : List Byte := match d.source c.kind prog e with
        | .place x =>
          let l := scratchIn h g (x / 2).toNat d.ebytes
          if d.esz = 0 then l.map (fun (b : Byte) => if x % 2 = 1 then b >>> 4 else b &&& 0x0F) else l
        | _ => d.fillBytes
      let put (h : Nat → Byte) (e : Nat) : Nat → Byte :=
        let y := (d.target e).getD 0
        let a := (y / 2).toNat
        let was := h (scratchAddr g a)
        scratchWith h g a (if d.esz = 0 then
            (bytes h e).map (fun (b : Byte) => if y % 2 = 1 then (was &&& 0x0F) ||| (b <<< 4) else (was &&& 0xF0) ||| (b &&& 0x0F))
          else bytes h e)
      (d.total ≤ q.prog → goes (fun t => (run t).map Run.done = some true)) ∧
      (q.prog < d.total → d.ssp = 2 ∨ c.kind = 3 → d.dsp = 2 → es.length ≤ 33 →
        (∀ n ∈ es, ∃ y : Int, d.target n = some y ∧ 0 ≤ y ∧ y < 2 ^ 64 ∧ c.covers 2 (y / 2).toNat d.ebytes true = true ∧
          match d.source c.kind prog n with
          | .place x => 0 ≤ x ∧ x < 2 ^ 64 ∧ c.covers 2 (x / 2).toNat d.ebytes false = true
          | .fill => True
          | .negative => False) →
        goes (fun t => (∀ a, cellGet t.scratch a = es.foldl put old a) ∧ SameGlobal s t ∧
          (run t).map Run.prog = some (q.prog + es.length) ∧
          (card t).map Card.prog = some (d.progOf (q.prog + es.length))))) ∧
    -- JMMA
    (∀ (n k : Nat) (a b : MatSide), e = .half n k → c.kind = 0x10 → matSide f false (MmaDesc.of c.bytes) = some a →
      matSide f true (MmaDesc.of c.bytes) = some b →
      let d := MmaDesc.of c.bytes
      let blocks := List.range (d.mt / 16)
      let tile (m : Nat) : Nat × Nat := if d.fuse then (d.slot + m % 2, d.t + m / 2) else (d.slot, d.t + m)
      let at_ (m : Nat) : Nat := key (tile m).1 (tile m).2
      let rd (o n : Nat) : List Byte := scratchIn old g o n
      let dot (m i j : Nat) : Nat := (List.range (d.k / 32)).foldl (fun acc p =>
        group acc (a.ints rd (16 * m + i) (32 * p), b.ints rd j (32 * p)) (a.vals rd (16 * m + i) (32 * p), b.vals rd j (32 * p)))
        (if f.acc then s.accAt (at_ m) (32 * i + j) else 0)
      let clash : Prop := f.acc = true ∧ ∃ m ∈ blocks, s.tagAt (at_ m) ≠ int
      (clash → s.engineNext e = .fail cardType s) ∧
      (¬clash → (blocks.map at_).Nodup →
        (∀ m ∈ blocks, c.allows [tileRange (tile m).1 (tile m).2 1 true] = true ∧
          ∀ i j, i < 16 → j < 32 → c.allows (a.reach (fmtBytes f.afmt d.k) (blocksOf d.k) (16 * m + i)) = true ∧
            c.allows (b.reach (fmtBytes f.bfmt d.k) (blocksOf d.k) j) = true) →
        goes (fun t => (run t).map Run.done = some true ∧ SameGlobal s t ∧ SameScratch s t ∧
          (∀ m ∈ blocks, t.tagAt (at_ m) = int ∧ ∀ i j, i < 16 → j < 32 → t.accAt (at_ m) (32 * i + j) = dot m i j) ∧
          (∀ k n, n < 512 → (∀ m ∈ blocks, k ≠ at_ m) → t.accAt k n = s.accAt k n ∧ t.tagAt k = s.tagAt k)))) ∧
    -- JACC
    (∀ n k, e = .half n k → c.kind = 0x11 →
      let wd (i : Nat) : Nat := cWord c.bytes (2 + i)
      let op := accOp c.bytes
      let nt := bitsOf (wd 2) 6 6
      let slot := bitsOf (wd 2) 12 2
      let at_ (m : Nat) : Nat := key slot (bitsOf (wd 2) 0 6 + m / 16)
      let sz := if f.out = 0 then 6 else if f.out = 1 then 4 else 2
      let fmt := if f.out = 1 then Fmt.f32 else if f.out = 2 then Fmt.bf16 else Fmt.f16
      let row (m : Nat) : Nat := wd 0 + m * wd 1
      let el (m j : Nat) : Nat := s.accAt (at_ m) (m % 16 * 32 + j)
      (q.desc = [] → op = 0 ∨ op = 1 → (∀ m, m < 16 * nt → c.allows [tileRange slot (bitsOf (wd 2) 0 6 + m / 16) 1 true,
          scratchRange (row m) (if op = 1 then 32 * sz else 0) false] = true) →
        goes (fun t => (run t).map Run.done = some true ∧ SameGlobal s t ∧ SameScratch s t ∧
          ∀ m j, m < 16 * nt → j < 32 → t.tagAt (at_ m) = int ∧
            let x := leNat (scratchIn old g (row m + j * sz) sz)
            let y := t.accAt (at_ m) (m % 16 * 32 + j)
            (op = 0 → y = 0) ∧ (op = 1 → f.out = 0 → y = x) ∧
            (op = 1 → f.out ≠ 0 → Fmt.acc.val y = .nan ∧ fmt.val x = .nan ∨
              (Fmt.acc.val y).cmp (fmt.val x) = 0 ∧ (Fmt.acc.val y).neg = (fmt.val x).neg ∧ fmt.val x ≠ .nan ∧
                Fmt.acc.val y ≠ .nan))) ∧
      (q.desc = [] → op = 2 → (∃ m, m < nt ∧ s.tagAt (key slot (bitsOf (wd 2) 0 6 + m)) ≠ int) →
        s.engineNext e = .fail cardType s) ∧
      (q.desc = [] → op = 2 → (∀ m, m < nt → s.tagAt (key slot (bitsOf (wd 2) 0 6 + m)) = int) →
        c.allows [tileRange slot (bitsOf (wd 2) 0 6) nt false,
          scratchRange (bitsOf (wd 3) 0 19) (128 * bitsOf (wd 2) 18 1) false] = true →
        let value (x : Nat) : Machine.Num := if int then .ofInt (BitVec.ofNat 48 x).toInt else Fmt.acc.val x
        let col (j : Nat) : Option Machine.Num := if bitsOf (wd 2) 18 1 = 1 then
          some (Fmt.f32.val (leNat (scratchIn old g (bitsOf (wd 3) 0 19 + 4 * j) 4))) else none
        let conv (m j : Nat) : LaneOut :=
          let v := accScaled (value (el m j)) (col j) (BitVec.ofNat 8 (bitsOf (wd 3) 24 8)).toInt
          finish fmt ⟨f.mode, f.sat, false⟩ (nextSeed^[m] (laneSeed (BitVec.ofNat 32 (cWord c.bytes 1)) j))
            (v.1, if v.2 then flagNV else 0)
        let bytes (m j : Nat) : List Byte := if f.out = 0 then leBytes (el m j) 6 else leBytes (conv m j).val.toNat sz
        goes (fun t => SameGlobal s t ∧ SameScratch s t ∧ (run t).map Run.out = some ((List.range (16 * nt)).flatMap (fun m =>
            granulesOf (row m) ((List.range 32).flatMap (bytes m)))) ∧
          (f.out ≠ 0 → (card t).map Card.xflags = some ((List.range (16 * nt)).foldl (fun x m =>
            (List.range 32).foldl (fun x j => x ||| (conv m j).flags) x) c.xflags)))) ∧
      (q.desc ≠ [] → ∀ o bs rest, q.out = (o, bs) :: rest → c.covers 2 o bs.length true = true →
        goes (fun t => (∀ a, cellGet t.scratch a = scratchWith old g o bs a) ∧ SameGlobal s t ∧
          (run t).map Run.out = some rest))) ∧
    -- JMV
    (∀ (n : Nat) (m : MvRun) (a b : EFmt), e = .ismv n → c.kind = 0x12 → c.mv = some m → c.atAdd = false → EFmt.ofCode f.afmt f.ainf = some a →
      EFmt.ofCode f.bfmt f.binf = some b → mvWord f = true →
      let d := MvDesc.of c.bytes
      let nb := (d.k + 255) / 256
      let bits := fmtClass f.afmt
      let rows := (List.range 32).filterMap (fun i => if 32 * c.prog + i < d.n then some (32 * c.prog + i) else none)
      let place (n v : Nat) : Nat := d.ybase + v * d.yld + n * yBytes f
      let wCodes (n p : Nat) : List Nat := elemsOf bits 32 (s.pinRead m (d.weightAt bits n (32 * p)) (4 * bits))
      let wScale (n p : Nat) (x : Machine.Num) : Machine.Num :=
        if f.asc = 0 then x
        else scaled x (e8 (leNat (s.pinRead m (d.wsbase + n * nb + p / 8) 1))) (if f.asc = 2 then
          leNat (s.pinRead m (d.wsbase + d.n * nb + n * 2 * nb + 2 * (p / 8)) 2) / 4 ^ (p % 8) % 4 else 0)
      let x : MatSide := ⟨b, fmtClass f.bfmt, d.xbase, d.xld, f.bsc, nb, d.xsbase, 0, 0⟩
      let whole (z : EFmt) (l : List Nat) : List Int := match z with | .int g => l.map g.val | .fl _ => []
      let dot (h : Nat → Byte) (n v : Nat) : Nat :=
        let y0 := leNat (scratchIn h g (place n v) (yBytes f))
        (List.range (d.k / 32)).foldl (fun acc p =>
          group acc (whole a (wCodes n p), x.ints m.xread v (32 * p))
            ((wCodes n p).map (fun y => wScale n p (a.val y)), x.vals m.xread v (32 * p)))
          (if !f.acc then 0 else if f.out = 0 then y0 else accOf Fmt.f32 y0)
      let bytes (h : Nat → Byte) (n v : Nat) : List Byte :=
        if f.out = 0 then leBytes (dot h n v) 6
        else
          let y : Machine.Num := if int then .ofInt (BitVec.ofNat 48 (dot h n v)).toInt else Fmt.acc.val (dot h n v)
          leBytes (finish .f32 ⟨f.mode, f.sat, false⟩ (nextSeed^[n] (laneSeed (BitVec.ofNat 32 (cWord c.bytes 1)) v))
            (y, 0)).val.toNat 4
      32 * c.prog < d.n → (∀ n ∈ rows, ∀ v, v < d.b → c.allows (mvReach f d n v) = true) →
      goes (fun t => (card t).map Card.prog = some (c.prog + 1) ∧ SameGlobal s t ∧
        ∀ o, cellGet t.scratch o = rows.foldl (fun h n => (List.range d.b).foldl (fun h v =>
          scratchWith h g (place n v) (bytes h n v)) h) old o)) ∧
    -- JATTN on a slot ring
    (∀ (n : Nat) (a : AttnRun), e = .attn n → c.kind = 0x18 → q.attn = some a → (g.frozen = false ∨ g.feedsRotation c = true) →
      let d := AttnDesc.of c.bytes
      let len := d.d * attnBytes f.bfmt
      let base := d.rbase + a.tdone / d.bt % d.slots * (d.bt * d.tpb)
      let token (j : Nat) : Nat := base + (a.tdone % d.bt + j) * d.tpb
      let full (o : Nat) : Prop := ∀ i, i < len → s.feOf (granuleOf g (o + i)) = true
      let pos (j : Nat) : Nat := a.tdone + j
      let keys (i : Nat) : List (Option (List Machine.Num)) := (List.range 16).map (fun j =>
        if d.causal && decide (d.qpos + i < pos j) then none
        else some (attnVals f.bfmt f.binf d.d (scratchIn old g (token j + d.koff) len)))
      let vals : List (List Machine.Num) :=
        (List.range 16).map (fun j => attnVals f.bfmt f.binf d.d (scratchIn old g (token j + d.voff) len))
      let query (i : Nat) : List Machine.Num :=
        attnVals f.afmt f.ainf d.d (scratchIn old g (d.qbase + i * d.qld) (d.d * attnBytes f.afmt))
      d.ring = true → 0 < len → a.tdone < d.nblk * d.bt →
      ((¬∀ j, j < 16 → full (token j + d.koff) ∧ full (token j + d.voff)) → s.engineNext e = .idle) ∧
      ((∀ j, j < 16 → full (token j + d.koff) ∧ full (token j + d.voff)) →
        goes (fun t => ∃ rows, (run t).bind Run.attn = some { a with rows := rows, tdone := a.tdone + 16 } ∧
          rows.length = a.rows.length ∧
          (∀ (i : Nat) (y : AttnRow), a.rows[i]? = some y →
            rows[i]? = some (y.step (query i) (Fmt.f32.val d.scl) d.d (keys i) vals).1) ∧
          ((a.tdone + 16) % d.bt = 0 → 16 ∣ d.rbase → 16 ∣ d.bt →
            (∀ o, base ≤ o → o < base + d.bt * d.tpb → t.feOf (granuleOf g o) = false) ∧
            ∀ o, cellGet t.scratch o = if d.cv then
              scratchWith old g d.cbase (leBytes ((leNat (scratchIn old g d.cbase 8) + 1) % 2 ^ 64) 8) o else old o) ∧
          ((a.tdone + 16) % d.bt ≠ 0 → SameScratch s t) ∧ SameGlobal s t))) ∧
    -- the consumers of a rotation
    (∀ (n : Nat) (x : RotRun) (j i : Nat) (t : RotSlot) (k : Nat), e = .rot n → c.kind = 0x20 → q.rot = some x → q.prog = 0 → q.got = none → s.cardBusy r = false →
      x.nextPiece (RotDesc.of c.bytes) = some (j, i) → x.slots[j]? = some t → t.block? = some k → i ∈ t.landed →
      let d := RotDesc.of c.bytes
      let at_ := d.rbase + j * d.blk + 256 * i
      let size := d.blk
      let used (u : State) : Prop := ∃ y t', (run u).bind Run.rot = some y ∧ y.slots[j]? = some t' ∧ t'.used = i :: t.used
      let apart (a b : Nat) : Prop := ∀ m n, m < 256 → n < 256 → scratchAddr g (a + m) ≠ scratchAddr g (b + n)
      (∀ dst, d.cons = 1 → d.dsp = 2 → dst = d.dst + (x.me + x.g * 256 - k) % x.g * size + 256 * i → dst + 256 ≤ 2 ^ 64 →
        apart at_ dst →
        goes (fun u => used u ∧ SameGlobal s u ∧
          ∀ o, cellGet u.scratch o = scratchWith old g dst (scratchIn old g at_ 256) o)) ∧
      (∀ own dst, d.cons = 2 → d.ssp = 2 → 1 ≤ k → own = d.src + (x.me + x.g * 256 - k - 1) % x.g * size + 256 * i →
        dst = d.dst + 256 * i → d.dsp = 2 ∨ k ≠ d.nstep → own + 256 ≤ 2 ^ 64 → dst + 256 ≤ 2 ^ 64 →
        apart at_ own → apart at_ dst → apart own dst → (f.out = 1 ∨ f.out = 2 ∨ f.out = 3) →
        (∀ p, p < 16 → c.covers 2 (own + 16 * p) 16 false = true) →
        let sum : List Byte := (List.range 16).flatMap (fun p =>
          (reduceGranule f (scratchIn old g (at_ + 16 * p) 16) (scratchIn old g (own + 16 * p) 16)).1)
        goes (fun u => used u ∧ SameGlobal s u ∧ ∀ o, cellGet u.scratch o =
          if k = d.nstep then scratchWith (scratchWith old g dst sum) g at_ sum o else scratchWith old g at_ sum o)))

/-! ## P words (R83 to R87) -/

/-- R84, R87, R89: both halves of a P word read before either writes; the vector half's result enters b0, the scalar half
writes its register; the vector half does what the F instruction of its operation does with MOD = 0. That the chain register is 0
after NOP || NOP is the model's choice (log entry 73).
Model choices in it: log entry 73. -/
def Obligations.PairWords : Prop :=
  (∀ (s : State) (g : Guard) (so : PairS) (sd : BitVec 6) (sa sb : Src) (vo : PairV) (vd : BitVec 6) (va vb : Src) (i : Iss),
     s.iss g 8 = some i → neverGuard g = false → i.w.spec = none →
     (∀ x ∈ [sa, sb, va, vb], (i.rd s false).latchTrap x = false) →
     let rs := i.rd s true
     let a := rs.w32 sa i.lane
     let b := rs.w32 sb i.lane
     let scalar : DWord := match so with
       | .iadd => (a + b).setWidth 64
       | .isub => (a - b).setWidth 64
       | .imul => (a * b).setWidth 64
       | .imin => (if a.toInt ≤ b.toInt then a else b).setWidth 64
       | .imax => (if a.toInt ≤ b.toInt then b else a).setWidth 64
       | .and => (a &&& b).setWidth 64
       | .or => (a ||| b).setWidth 64
       | .xor => (a ^^^ b).setWidth 64
       | .andn => (a &&& ~~~b).setWidth 64
       | .shl => (a <<< b.toNat).setWidth 64
       | .shr => (a >>> b.toNat).setWidth 64
       | .sar => (a.sshiftRight b.toNat).setWidth 64
       | .mov => a.setWidth 64
       | .iaddw => rs.val sa .w64 i.lane + b.signExtend 64
       | .popc => BitVec.ofNat 64 ((List.range 32).filter a.getLsbD).length
       | .nop => 0
     let wide := so == .iaddw
     let on := i.part ≠ 0
     let vec (l : Nat) : LaneOut := pairVector vo (i.rd s false) va vb l (i.w.seedOf l)
     ∃ w', exec (.pairWord g so sd sa sb vo vd va vb) s = .next (s.setWave i.k w') ∧
       (vo ≠ .nop → ∀ l, i.part.has l = true → w'.dstV vd.toNat l false = atWidth false (vec l).val ∧
         w'.latchVal 0 l = some (atWidth false (vec l).val)) ∧
       (∀ r l, l < 32 → (vo = .nop ∨ r ≠ vd.toNat ∨ i.part.has l = false) → w'.getV r l = i.w.getV r l) ∧
       (so ≠ .nop → on → w'.dstS sd.toNat wide = atWidth wide scalar) ∧
       (∀ r, (so = .nop ∨ i.part = 0 ∨ dstNamesS (.s sd) wide r = false) → w'.getS r = i.w.getS r) ∧
       (vo ≠ .nop → w'.latch 1 = i.w.latch 0 ∧ w'.latch 2 = i.w.latch 1 ∧ w'.latch 3 = i.w.latch 2) ∧
       (vo = .nop → w'.latches = i.w.latches) ∧
       (∀ l, w'.flagsOf l = if i.part.has l then i.w.flagsOf l ||| (vec l).flags else i.w.flagsOf l) ∧
       (∀ l, w'.seedOf l = if i.part.has l then (vec l).seed else i.w.seedOf l) ∧
       (∀ l, w'.pcOf l = if i.act.has l then i.next else i.w.pcOf l) ∧
       w' = { i.w with
         v := w'.v, s := w'.s, latches := w'.latches, chain := 0, flags := w'.flags, seed := w'.seed, pc := w'.pc
         held := i.w.held &&& ~~~i.act, waiting := i.w.waiting &&& ~~~i.act }) ∧
  (∀ (s : State) (g : Guard) (sd : BitVec 6) (sa sb : Src) (vo : PairV) (vd : BitVec 6) (va vb : Src) (i : Iss),
     s.iss g 8 = some i → neverGuard g = false → i.w.spec = none → va.isLit = false → vb.isLit = false →
     (∀ x ∈ [sa, sb, va, vb], (i.rd s false).latchTrap x = false) →
     let h : Hdr := ⟨g, false⟩
     let d : Dst := .v vd
     let m : FMod := ⟨none, false, false⟩
     let plain (j : Instr) : Prop :=
       ∃ w₁ w₂, exec (.pairWord g .nop sd sa sb vo vd va vb) s = .next (s.setWave i.k w₁) ∧
         exec j s = .next (s.setWave i.k w₂) ∧ { w₁ with seed := w₂.seed } = w₂ ∧ ∀ l, w₁.seedOf l = w₂.seedOf l
     match vo with
     | .iadd => plain (.iadd h d va vb false false)
     | .isub => plain (.isub h d va vb false false)
     | .imul => plain (.imul h d va vb false false)
     | .imin => plain (.imin h d va vb false false)
     | .imax => plain (.imax h d va vb false false)
     | .and => plain (.and h d va vb false)
     | .or => plain (.or h d va vb false)
     | .xor => plain (.xor h d va vb false)
     | .shl => plain (.shl h d va vb false)
     | .shr => plain (.shr h d va vb false)
     | .sar => plain (.sar h d va vb false)
     | .mov => plain (.mov h d va)
     | .fadd => plain (.fadd h d va vb noMod noMod m)
     | .fsub => plain (.fsub h d va vb noMod noMod m)
     | .fmul => plain (.fmul h d va vb noMod noMod m)
     | .fmin => plain (.fmin h d va vb noMod noMod false)
     | .fmax => plain (.fmax h d va vb noMod noMod false)
     | .hadd2 => plain (.hadd2 h d va vb noMod noMod m .f16)
     | .hmul2 => plain (.hmul2 h d va vb noMod noMod m .f16)
     | .hmin2 => plain (.hmin2 h d va vb noMod noMod false .f16)
     | .hmax2 => plain (.hmax2 h d va vb noMod noMod false .f16)
     | .nop => True)

/-! ## Control (R188 to R201) -/

/-- R189 to R192: every participating lane goes to its target, which is relative to the branch or an address, the other
lanes of `active()` go on; CALL writes its return address; a branch, a call or a return with an illegal target in a
participating lane raises ALIGN, whose mask is the lanes with illegal targets, and writes nothing. (CBR is in
`CollectiveInstructions`.) R195 to R198: EXIT ends the participating threads, YIELD is a fairness event that ends the run
whatever lanes participate, SLEEP makes the wave
wait for at most 1,048,576 cycles, SYNCST and NOP only move on.
Model choices in it: log entries 16, 68, 69 and 107. -/
def Obligations.ControlInstructions : Prop :=
  ((∀ (s : State) (h : Hdr) (t : BTarget) (link : BitVec 6) (a : Src) (uni lb rel : Bool) (i : Iss),
      let near (n : Nat) : DWord :=
        i.pc + (match t with | .off o => o.signExtend 64 | .lit x => x.signExtend 64) * BitVec.ofNat 64 n
      let far (l : Nat) : DWord :=
        if rel then i.pc + ((i.rd s false).w32 a l).signExtend 64 * 8 else (i.rd s false).val a .w64 l
      let back (l : Nat) : DWord := (i.rd s false).val a .w64 l
      let len : Nat := match t with | .off _ => 8 | .lit _ => 16
      let legal (x : DWord) : Prop := canonical x = true ∧ x.toNat % 8 = 0
      let goes (j : Instr) (link : Option (BitVec 6)) (x : Nat → DWord) (capture : Bool) : Prop :=
        ∃ u w', Leaves (exec j s) s i u w' ∧
          (∀ l, w'.pcOf l = if i.part.has l then x l else if i.act.has l then i.next else i.w.pcOf l) ∧
          (∀ n, link = some n → ∀ l, i.part.has l = true → w'.getVw n.toNat l = i.next) ∧
          (∀ r l, l < 32 → (∀ n, link = some n → (r = n.toNat ∨ r = n.toNat + 1) → i.part.has l = false) →
            w'.getV r l = i.w.getV r l) ∧
          w' = { i.w with
            v := w'.v, pc := w'.pc, latches := w'.latches
            held := i.w.held &&& ~~~i.act, waiting := i.w.waiting &&& ~~~i.act } ∧
          SameScratch s u ∧ (capture = false → SameGlobal s u)
      (IssueReady s h len i → (∀ l, i.part.has l = true → legal (near 8)) →
        goes (.bra h t uni lb) none (fun _ => near 8) lb ∧ goes (.call h link t uni) (some link) (fun _ => near 8) false) ∧
      (IssueReady s h (instrLen [a]) i → (∀ l, i.part.has l = true → legal (far l)) →
        goes (.brx h a rel uni) none far false ∧ goes (.callx h link a rel uni) (some link) far false) ∧
      (IssueReady s h 8 i → (∀ l, i.part.has l = true → legal (back l)) → goes (.ret h a uni) none back false)) ∧
   (∀ (s : State) (h : Hdr) (t : BTarget) (link : BitVec 6) (a : Src) (uni lb rel : Bool) (i : Iss),
      let near (_ : Nat) : DWord :=
        i.pc + (match t with | .off o => o.signExtend 64 | .lit x => x.signExtend 64) * 8
      let far (l : Nat) : DWord :=
        if rel then i.pc + ((i.rd s false).w32 a l).signExtend 64 * 8 else (i.rd s false).val a .w64 l
      let back (l : Nat) : DWord := (i.rd s false).val a .w64 l
      let bad (x : Nat → DWord) : Mask :=
        Mask.ofFn (fun l => i.part.has l && !(canonical (x l) && decide ((x l).toNat % 8 = 0)))
      let aligns (j : Instr) (x : Nat → DWord) : Prop :=
        bad x ≠ 0 → exec j s = .next (s.takeTrap i.k
          ⟨0x04, 0, bad x, i.pc, x ((bad x).lowest.getD 0), (bad x).lanes.map (fun l => (l, x l)), []⟩)
      (IssueReady s h (match t with | .off _ => 8 | .lit _ => 16) i →
        aligns (.bra h t uni lb) near ∧ aligns (.call h link t uni) near) ∧
      (IssueReady s h (instrLen [a]) i →
        aligns (.brx h a rel uni) far ∧ aligns (.callx h link a rel uni) far) ∧
      (IssueReady s h 8 i → aligns (.ret h a uni) back))) ∧
  (∀ (s : State) (h : Hdr) (tail : Bool) (a : Src) (i : Iss),
     let on := i.part ≠ 0
     (IssueReady s h 8 i →
       exec (.nop h) s = .next (s.setWave i.k (i.step i.w)) ∧
       (i.w.arith i.part = 0 → exec (.syncst h) s = .next (s.setWave i.k (i.step i.w))) ∧
       exec (.yield h) s = .next ((s.setWave i.k
         (if (i.step i.w).diverged then (i.step i.w).fairness else i.step i.w)).endRun i.k) ∧
       (ChecksPass s i i.part →
         ∃ w', exec (.exit h tail) s = .next ((s.setWave i.k w').endRun i.k) ∧
           w'.exited = i.w.exited ||| i.part ∧
           (∀ l, w'.pcOf l = if i.act.has l && !i.part.has l then i.next else i.w.pcOf l) ∧
           w'.v = i.w.v ∧ w'.s = i.w.s ∧ w'.p = i.w.p ∧ w'.flags = i.w.flags ∧ w'.seed = i.w.seed ∧
           (w'.alive = 0 → w'.tail = tail))) ∧
     (IssueReady s h (instrLen [a]) i →
       let c := min ((i.rd s true).w32 a i.lane).toNat 1048576
       (¬on → exec (.sleep h a) s = .next (s.setWave i.k (i.step i.w))) ∧
       (on → c = 0 → exec (.sleep h a) s = .next ((s.setWave i.k (i.step i.w)).endRun i.k)) ∧
       (on → 0 < c → exec (.sleep h a) s =
         .next ((s.setWave i.k { i.step i.w with busy := .sleep (s.clock + c) }).endRun i.k))))

/-- R139, R140, R143, R158, R159, R298, R299, R325, R393, R425: THE ARITHMETIC OF THE ENGINES. The index tuple of an element
and its place in each layout; where an element takes its value, with the micro-operations of JGEN; the group sum and the
accumulation of dot products; scaled operands; the value that JACC.out converts; the score and the step of an attention row; the
sum of a reduced granule.
Model choices in it: log entries 110 and 112. -/
def Obligations.EngineArithmetic : Prop :=
  (∀ (exts : List Nat) (e : Nat), (∀ x ∈ exts, 0 < x) → e < exts.foldl (· * ·) 1 →
     let t := tupleOf exts e
     t.length = exts.length ∧ (∀ d, d < exts.length → t.getD d 0 < exts.getD d 0) ∧
     (t.zip exts).foldr (fun p n => p.1 + p.2 * n) 0 = e) ∧
  (∀ (base rowb : Nat) (j : Int),
     let x : Int := 2 * base + j
     let o : DWord := BitVec.ofInt 64 (x / 2)
     let swap (k : Nat) : Int := 2 * (o ^^^ (((o >>> k) &&& 7) <<< 4)).toNat + x % 2
     nibbleAt base 0 rowb j = some x ∧ nibbleAt base 1 rowb j = some (swap 7) ∧ nibbleAt base 2 rowb j = some (swap 10) ∧
     (j < 0 → nibbleAt base 3 rowb j = none) ∧
     (∀ i h : Nat, j = 2 * i + h → h < 2 →
       let n := i / rowb
       let b := i % rowb
       nibbleAt base 3 rowb j =
         some ((2 * (base + n / 32 * 32 * rowb + (b / 256 * 32 + n % 32) * 256 + b % 256) + h : Nat) : Int))) ∧
  (∀ (d : CopyDesc) (k e : Nat) (prog : List (Nat × Nat × Int)),
     let idx := tupleOf (d.dims.map CopyDim.ext) e
     let sum (f : CopyDim → Int) : Int := ((idx.zip d.dims).map (fun p => (p.1 : Int) * f p.2)).sum
     let out : Prop := ∃ p ∈ idx.zip d.dims, p.2.lim ≠ 0 ∧ p.2.lim ≤ p.1
     let m := (Micro.mk 0 0 true).run idx prog
     let off : Prop := m.v = false ∨ m.a < 0 ∨ 2 * (d.srclen : Int) < d.nibbles * (m.a + 1)
     (d.esz = 0 → d.fillBytes = [BitVec.ofNat 8 (d.fill % 16)]) ∧
     (0 < d.esz → d.esz ≤ 5 → d.fillBytes =
       (List.range (2 ^ (d.esz - 1))).map (fun i => BitVec.ofNat 8 (d.fill / 2 ^ (8 * (i % 4)) % 256))) ∧
     d.target e = nibbleAt d.dst d.dswz d.rowb (d.nibbles * sum CopyDim.dstr) ∧
     (k = 3 → d.source k prog e = .fill) ∧
     (k = 1 ∨ k = 4 → (out → d.source k prog e = .fill) ∧
       (¬out → d.source k prog e = match nibbleAt d.src d.sswz d.rowb (d.nibbles * sum CopyDim.sstr) with
         | some x => .place x
         | none => .negative)) ∧
     (k = 2 → (off → d.source k prog e = .fill) ∧ (¬off → d.source k prog e = .place (2 * d.src + d.nibbles * m.a)))) ∧
  (∀ (m : Micro) (idx : List Nat) (d op : Nat) (imm : Int) (r : List (Nat × Nat × Int)),
     let i : Int := idx.getD d 0
     let w (x : Int) : Int := (BitVec.ofInt 64 x).toInt
     m.op idx 1 d imm = { m with t := imm } ∧
     m.op idx 2 d imm = { m with t := w (m.t + i * imm) } ∧
     m.op idx 3 d imm = { m with v := m.v && decide (0 ≤ m.t ∧ m.t < imm) } ∧
     m.op idx 4 d imm = { m with a := w (m.a + m.t * imm) } ∧
     m.op idx 5 d imm = { m with a := w (m.a + i * imm) } ∧
     (0 < imm → m.op idx 6 d imm = { m with t := m.t / imm } ∧ m.op idx 7 d imm = { m with t := m.t % imm }) ∧
     m.op idx 8 d imm = { m with t := w (m.t * 2 ^ (imm % 32).toNat) } ∧
     m.run idx [] = m ∧ m.run idx ((0, d, imm) :: r) = m ∧
     (op ≠ 0 → m.run idx ((op, d, imm) :: r) = (m.op idx op d imm).run idx r)) ∧
  (∀ l : List (Machine.Num × Machine.Num),
     let p := l.map (fun x => x.1.mul x.2)
     let odd : Prop := .nan ∈ p ∨ (.inf false ∈ p ∧ .inf true ∈ p)
     (odd → groupSum l = (some .nan, if l.any (fun x => x.1.isNan || x.2.isNan) then 0 else flagNV)) ∧
     (¬odd → ∀ n, .inf n ∈ p → groupSum l = (some (.inf n), 0)) ∧
     ((∀ y ∈ p, y.isFin = true) → (∀ y ∈ p, y.rat = 0) → groupSum l = (none, 0)) ∧
     ((∀ y ∈ p, y.isFin = true) → (∃ y ∈ p, y.rat ≠ 0) →
       ∃ (top : Int) (x : Machine.Num), (∃ y ∈ p, 2 ^ top ≤ |y.rat|) ∧ (∀ y ∈ p, |y.rat| < 2 ^ (top + 1)) ∧
         groupSum l = (some x, 0) ∧ x.isFin = true ∧ (x.rat = 0 → x.neg = false) ∧
         x.rat = (p.map (fun y => (if y.rat < 0 then -1 else 1) * (⌊|y.rat| / 2 ^ (top - 80)⌋ : ℚ) * 2 ^ (top - 80))).sum)) ∧
  (∀ (acc : Nat) (x : Machine.Num) (fl : BitVec 7),
     let a := Fmt.acc.val acc
     accAdd acc (none, fl) = (acc, fl) ∧
     (a = .nan ∨ x = .nan → accAdd acc (some x, fl) = (0x7FE000000000, fl)) ∧
     (∀ n, (a = .inf n → x = .inf (!n) → accAdd acc (some x, fl) = (0x7FE000000000, fl ||| flagNV)) ∧
       (a = .inf n → x = .inf n ∨ x.isFin = true → accAdd acc (some x, fl) = (Fmt.acc.code n (511 * 2 ^ 38), fl)) ∧
       (x = .inf n → a.isFin = true → accAdd acc (some x, fl) = (Fmt.acc.code n (511 * 2 ^ 38), fl))) ∧
     (a.isFin = true → x.isFin = true →
       (a.rat + x.rat = 0 → x.neg = false ∨ x.rat ≠ 0 → accAdd acc (some x, fl) = (0, fl)) ∧
       (a.rat + x.rat ≠ 0 → ∃ c, accAdd acc (some x, fl) = (c.1, fl ||| (c.2 &&& (flagOF ||| flagUF))) ∧
         RoundedInto .acc .rne false (decide (a.rat + x.rat < 0)) 0 ((|a.rat + x.rat| : ℚ) : ℝ) c))) ∧
  (∀ (acc : Nat) (l : List (Int × Int)), acc < 2 ^ 48 →
     let x : Int := (BitVec.ofNat 48 acc).toInt + (l.map (fun p => p.1 * p.2)).sum
     accInt48 acc l =
       if 2 ^ 47 ≤ x then (2 ^ 47 - 1, flagSAT) else if x < -2 ^ 47 then (2 ^ 47, flagSAT)
       else ((BitVec.ofInt 48 x).toNat, 0)) ∧
  (∀ (x : Machine.Num) (b sh : Nat),
     (b ≠ 255 → scaled x (e8 b) sh = x.scale ((b : Int) - 127 - sh)) ∧
     (b = 255 → scaled x (e8 b) sh = if x = .nan then .nan else .zero false) ∧
     (∀ k : Int, (x.scale k).rat = x.rat * 2 ^ k ∧ (x.scale k).isFin = x.isFin)) ∧
  (∀ (m : MatSide) (f : Nat → Byte) (r k i : Nat), i < 32 → m.bits = 4 ∨ m.bits = 8 ∨ m.bits = 16 →
     let rd (o n : Nat) : List Byte := (List.range n).map (fun j => f (o + j))
     let x := m.base + r * m.ld + k * m.bits / 8
     let code : Nat :=
       if m.bits = 4 then (f (x + i / 2)).toNat / (if i % 2 = 0 then 1 else 16) % 16
       else if m.bits = 8 then (f (x + i)).toNat
       else (f (x + 2 * i)).toNat + 256 * (f (x + 2 * i + 1)).toNat
     let h := m.hb + r * m.hstr + 2 * (k / 256)
     let sh := if m.sc = 2 then ((f h).toNat + 256 * (f (h + 1)).toNat) / 4 ^ (k % 256 / 32) % 4 else 0
     (m.vals rd r k)[i]? = some (if m.sc = 0 then m.fmt.val code
       else scaled (m.fmt.val code) (e8 (f (m.sb + r * m.sstr + k / 256)).toNat) sh) ∧
     (∀ g, m.fmt = .int g → (m.ints rd r k)[i]? = some (g.val code))) ∧
  (∀ (x k : Machine.Num) (sh : Int),
     accScaled x none sh = (x.scale sh, false) ∧
     (k = .nan → accScaled x (some k) sh = (.nan, true)) ∧
     (k.isInf = true → x.isZero = true → accScaled x (some k) sh = (.nan, true)) ∧
     (k ≠ .nan → ¬(k.isInf = true ∧ x.isZero = true) → accScaled x (some k) sh = ((x.mul k).scale sh, false))) ∧
  (∀ (scl : Machine.Num) (q k : List Machine.Num) (n acc : Nat),
     let up (x : Machine.Num) : Machine.Num := Fmt.f32.val (rne32 x).1
     attnScore scl q k 0 acc = up ((up (Fmt.acc.val acc)).mul scl) ∧
     attnScore scl q k (n + 1) acc =
       attnScore scl (q.drop 32) (k.drop 32) n (accAdd acc (groupSum ((q.take 32).zip (k.take 32)))).1) ∧
  (∀ (r : AttnRow) (q : List Machine.Num) (scl : Machine.Num) (d : Nat) (keys : List (Option (List Machine.Num)))
     (vals : List (List Machine.Num)),
     let x : List Machine.Num := keys.map (fun k => match k with
       | some k => attnScore scl q k (d / 32) 0
       | none => .inf true)
     let mo := Fmt.f32.val r.m.toNat
     let y := r.step q scl d keys vals
     (r.bad = true → y = (r, 0)) ∧
     (r.bad = false → .nan ∈ x ∨ .inf false ∈ x → y.1 = ⟨0x7FC00000, 0x7FC00000, List.replicate d 0x7FC00000, true⟩) ∧
     (r.bad = false → mo ≠ .nan → .nan ∉ x → .inf false ∉ x →
       ∃ mn ∈ mo :: x, (∀ z ∈ mo :: x, 0 ≤ mn.cmp z) ∧
         (mn = .inf true → y = (r, 0)) ∧
         (mn ≠ .inf true →
           let sub (z : Machine.Num) : Nat := (rne32 (Machine.Num.sum [z, mn.negate] false).1).1
           let ex (z : Machine.Num) : Machine.Num :=
             if z = .inf true then .zero false
             else Fmt.f32.val (fexp2Bits (BitVec.ofNat 32 (sub z)) false (Fmt.f32.val (sub z))).1.toNat
           let word (z : Machine.Num) : Word := BitVec.ofNat 32 (rne32 z).1
           (Fmt.f32.val y.1.m.toNat).cmp mn = 0 ∧ y.1.bad = false ∧
           y.1.l = word (Machine.Num.sum ((Fmt.f32.val r.l.toNat).mul (ex mo) :: x.map ex) false).1 ∧
           y.1.o.length = r.o.length ∧
           ∀ e, e < r.o.length → y.1.o.getD e 0 = word (Machine.Num.sum ((Fmt.f32.val (r.o.getD e 0).toNat).mul (ex mo) ::
             (x.zip vals).map (fun z => (ex z.1).mul (z.2.getD e (.zero false)))) false).1))) ∧
  (∀ z : Machine.Num, (rne32 z).1 = (Fmt.f32.round .rne false 0 z).1) ∧
  (∀ (w : FWord) (a b : List Byte), w.out = 1 ∨ w.out = 2 ∨ w.out = 3 → a.length = 16 → b.length = 16 →
     let n := if w.out = 1 then 4 else 2
     let f := if w.out = 1 then Fmt.f32 else if w.out = 2 then Fmt.bf16 else Fmt.f16
     let el (e : Nat) : LaneOut := finish f ⟨w.mode, w.sat, false⟩ 0
       (addNum (w.mode == .rd) (f.val (leNat ((a.drop (e * n)).take n))) (f.val (leNat ((b.drop (e * n)).take n))))
     reduceGranule w a b = ((List.range (16 / n)).flatMap (fun e => leBytes (el e).val.toNat n),
       (List.range (16 / n)).foldl (fun x e => x ||| (el e).flags) 0))

/-! ## Memory (R212 to R260) -/

/-- R214 to R216, R221: a load of global memory gives each accessing lane the bytes of its place, extended where it loads 8
or 16 bits, and changes no byte of memory. -/
def Obligations.GlobalLoads : Prop :=
  ∀ (s : State) (h : Hdr) (d : RegDst) (m : MemRef) (sz : MSize) (sx acq : Bool) (scope : Option Scope) (i : Iss)
    (ok : List (Nat × List Piece)) (t : State),
    IssueReady s h (instrLen [m.base, m.off]) i → i.w.rejected = [] → regFits d (regCount (msize sz)) = true →
    Reached s i (regScalar d) ((i.rd s (regScalar d)).gaddr m) (msize sz) 1 false ok t →
    ∀ j ∈ [Instr.ld h d m sz sx acq scope, Instr.ldu h d m sz sx acq scope],
      ∃ u w', Leaves (exec j s) s i u w' ∧ RunDone i (some d) (regCount (msize sz)) none w' ∧
        (∀ e ∈ ok, w'.regsOf d (regCount (msize sz)) e.1 = loadWords sx ((List.range (msize sz)).map (fun b =>
          (e.2.flatMap (fun p => bytesIn t.readLoc p.loc p.len)).getD b 0))) ∧
        SameGlobal t u ∧ SameScratch s u

/-- R214 to R216, R221: a store to global memory changes the bytes of each lane's place, lane after lane, and no other
byte. -/
def Obligations.GlobalStores : Prop :=
  ∀ (s : State) (h : Hdr) (m : MemRef) (a : Src) (sz : MSize) (rel : Bool) (scope : Option Scope) (i : Iss)
    (ok : List (Nat × List Piece)) (t : State),
    let sc := scalarFields [m.base, a, m.off]
    let rd := i.rd s sc
    IssueReady s h (instrLen [m.base, a, m.off]) i → Settled s i → i.part ≠ 0 → (∀ e ∈ s.vds, e.2.dlog = false) →
    Reached s i sc (rd.gaddr m) (msize sz) 1 true ok t →
    ∀ j ∈ [Instr.st h m a sz rel scope, Instr.stu h m a sz rel scope],
      ∃ u w', Leaves (exec j s) s i u w' ∧ RunDone i none 0 none w' ∧
        (∀ l : Loc, l.space ≠ .fab → u.readLoc l = storesOf t.readLoc (rd.bytes a (msize sz)) ok l) ∧
        SameScratch s u

/-- R209 to R211, R220, R222, R225: loads of the scratchpad: LDL, LDFE of full granules, LDFE.try, XLOAD. R219, R222 to R224:
stores to the scratchpad and the full/empty bits that STFE and FESET leave. (Parking is in `ParkedAccesses`.) -/
def Obligations.ScratchpadAccesses : Prop :=
  (∀ (s : State) (h : Hdr) (d : RegDst) (m : MemRef) (sz : MSize) (sx acq clr park : Bool) (tryPd : Option (BitVec 3))
     (from_ : Src) (scope : Option Scope) (i : Iss) (g : Workgroup),
     let sc := regScalar d
     let n := msize sz
     let k := regCount n
     let rd := i.rd s sc
     let at_ (l : Nat) : Nat := (rd.saddr m l).toNat
     let who (l : Nat) : Prop := if sc then i.part.lowest = some l else i.part.has l = true
     let val (o : Workgroup) (l : Nat) : List Word := loadWords sx (scratchIn (cellGet s.scratch) o (at_ l) n)
     s.wgOf i.w = some g → regFits d k = true → s.outstanding i.k = false →
     (IssueReady s h (instrLen [m.base, m.off]) i →
       ((∀ l, who l → s.scratchFault g (at_ l) n n false true = none) →
         ∃ u w', Leaves (exec (.ldl h d m sz sx acq scope) s) s i u w' ∧ RunDone i (some d) k none w' ∧
           (∀ l, who l → w'.regsOf d k l = val g l) ∧ SameGlobal s u ∧ SameScratch s u) ∧
       ((∀ l, who l → s.scratchFault g (at_ l) n n clr true = none) →
         (tryPd = none → ∀ l, who l → s.feOf (granuleOf g (at_ l)) = true) →
         (∀ l j, who l → who j → granuleOf g (at_ l) = granuleOf g (at_ j) → l = j) →
         ∃ u w', Leaves (exec (.ldfe h d m sz sx clr tryPd scope) s) s i u w' ∧ RunDone i (some d) k tryPd w' ∧
           (∀ l, who l → s.feOf (granuleOf g (at_ l)) = true → w'.regsOf d k l = val g l) ∧
           (∀ l, who l → s.feOf (granuleOf g (at_ l)) = false → w'.regsOf d k l = i.w.regsOf d k l) ∧
           (∀ p l, tryPd = some p → p ≠ 7 → sc = false → i.part.has l = true →
             (w'.getP p.toNat).has l = s.feOf (granuleOf g (at_ l))) ∧
           (∀ l, who l → clr = true → u.feOf (granuleOf g (at_ l)) = false) ∧
           (∀ q, (clr = false ∨ ∀ l, who l → granuleOf g (at_ l) ≠ q) → u.feOf q = s.feOf q) ∧
           SameGlobal s u ∧ ∀ a, cellGet u.scratch a = cellGet s.scratch a)) ∧
     (IssueReady s h (instrLen [m.base, from_, m.off]) i →
       (∀ l, who l → ∃ o, s.member g (rd.w32 from_ l).toNat = some o ∧ s.scratchFault o (at_ l) n n false true = none ∧
         (park = true → s.feOf (granuleOf o (at_ l)) = true)) →
       ∃ u w', Leaves (exec (.xload h d m from_ sz sx park acq scope) s) s i u w' ∧ RunDone i (some d) k none w' ∧
         (∀ l o, who l → s.member g (rd.w32 from_ l).toNat = some o → w'.regsOf d k l = val o l) ∧
         SameGlobal s u ∧ SameScratch s u)) ∧
  (∀ (s : State) (h : Hdr) (m : MemRef) (a : Src) (sz : MSize) (rel val : Bool) (scope : Option Scope) (i : Iss)
     (g : Workgroup),
     let sc := scalarFields [m.base, a, m.off]
     let rd := i.rd s sc
     let n := msize sz
     let at_ (l : Nat) : Nat := (rd.saddr m l).toNat
     let len (l : Nat) : Nat := (rd.w32 a l).toNat
     IssueReady s h (instrLen [m.base, a, m.off]) i → s.wgOf i.w = some g → i.part ≠ 0 →
     ((Settled s i → (∀ l ∈ i.who sc, s.scratchFault g (at_ l) n n true true = none) →
       let after := (i.who sc).foldl (fun f l => scratchWith f g (at_ l) (rd.bytes a n l)) (cellGet s.scratch)
       (∃ u w', Leaves (exec (.stl h m a sz rel scope) s) s i u w' ∧ RunDone i none 0 none w' ∧
         (∀ x, cellGet u.scratch x = after x) ∧ (∀ q, u.feOf q = s.feOf q) ∧ SameGlobal s u) ∧
       (∃ u w', Leaves (exec (.stfe h m a sz scope) s) s i u w' ∧ RunDone i none 0 none w' ∧
         (∀ x, cellGet u.scratch x = after x) ∧
         (∀ q, u.feOf q = (s.feOf q || (i.who sc).any (fun l => granuleOf g (at_ l) == q))) ∧ SameGlobal s u)) ∧
     (s.outstanding i.k = false → (∀ l ∈ i.who sc, len l % 16 = 0 ∧ s.scratchFault g (at_ l) (len l) 16 true true = none) →
       ∃ u w', Leaves (exec (.feset h m a val scope) s) s i u w' ∧ RunDone i none 0 none w' ∧
         (∀ q, u.feOf q =
           if (i.who sc).any (fun l => (List.range (len l / 16)).any (fun j => granuleOf g (at_ l + 16 * j) == q)) then val
           else s.feOf q) ∧
         SameGlobal s u ∧ ∀ x, cellGet u.scratch x = cellGet s.scratch x)))

/-- R176: THE BOUNDS of the reciprocals and the transcendentals: each result lies within 1 ulp, 2 ulp or 2^−22 of the
mathematical value, as the table gives.
(Which value within the bound it is, is the model's choice.)
Model choices in it: log entry 21. -/
def Obligations.FunctionBounds : Prop :=
  ∀ (b : Nat) (a : Word) (flush n : Bool) (m : Nat) (e : Int), Fmt.f32.val b = .fin n m e → 0 < m →
    let x := Fmt.f32.val b
    let y : ℝ := (x.rat : ℝ)
    let kept (z : ℝ) : Prop := flush = false ∨ 2 ^ (-126 : Int) ≤ |z|
    (|y⁻¹| < 2 ^ (128 : Int) → kept y⁻¹ → WithinUlps 1 y⁻¹ (frcpBits a flush x).1) ∧
    (0 < y → WithinUlps 1 (Real.sqrt y)⁻¹ (frsqBits a flush x).1) ∧
    (y < 128 → kept ((2 : ℝ) ^ y) → WithinUlps 2 ((2 : ℝ) ^ y) (fexp2Bits a flush x).1) ∧
    (0 < y → y ≠ 1 → WithinUlps 2 (Real.logb 2 y) (flog2Bits a flush x).1 ∨
      (1 / 2 ≤ y ∧ y ≤ 2 ∧ WithinOf (2 ^ (-22 : Int)) (Real.logb 2 y) (flog2Bits a flush x).1)) ∧
    WithinOf (2 ^ (-22 : Int)) (Real.sin (2 * Real.pi * y)) (fsinBits a flush x).1 ∧
    WithinOf (2 ^ (-22 : Int)) (Real.cos (2 * Real.pi * y)) (fcosBits a flush x).1 ∧
    (|y| < 9 → kept (Real.tanh y) → WithinUlps 2 (Real.tanh y) (ftanhBits a flush x).1)

/-- R226 to R228: with no element left over from before and every page there, CSTORE stores the data of the selected lanes
as consecutive elements, in lane order. -/
def Obligations.CompactingStores : Prop :=
  ∀ (s : State) (h : Hdr) (m : MemRef) (a : Src) (ps : BitVec 3) (pn rel : Bool) (sz : MSize) (scope : Option Scope)
    (i : Iss) (t : State),
    let rd := i.rd s false
    let n := msize sz
    let sel : Mask := i.part &&& (if pn then ~~~(i.w.getP ps.toNat) else i.w.getP ps.toNat)
    let rank (l : Nat) : Nat := (sel.lanes.filter (fun j => decide (j < l))).length
    IssueReady s h (instrLen [m.base, a, m.off]) i → Settled s i → i.w.pend = [] →
    (sel = 0 → exec (.cstore h m a ps pn sz rel scope) s = .next ((s.setWave i.k (i.step i.w)).endRun i.k)) ∧
    (sel ≠ 0 →
      s.storedInTurn (s.agentOf i.k i.w 0) n
        (sel.lanes.map (fun l => (rd.gaddr m 0 + BitVec.ofNat 64 (rank l * n), rd.bytes a n l))) = some t →
      ∃ u w', Leaves (exec (.cstore h m a ps pn sz rel scope) s) s i u w' ∧ RunDone i none 0 none w' ∧
        (∀ l : Loc, l.space ≠ .fab → u.readLoc l = t.readLoc l) ∧ SameScratch s u)

/-- R251 to R253: the new value of each operation of an atomic on n-byte integers (n 4 or 8), of the compare-and-swap, and of
the floating operations on binary32 and on two 16-bit elements, which round their exact sum to nearest even. -/
def Obligations.AtomicOperations : Prop :=
  (∀ (a b : Word) (op : FAtomOp),
    let each (f : Fmt) (p q : Nat) : Nat :=
      match op with
      | .fadd => (f.round .rne false 0 (addNum false (f.val p) (f.val q)).1).1
      | .fmin => minMaxBits f false p q
      | .fmax => minMaxBits f true p q
    let half (x : Word) (j : Nat) : Nat := (slice x (16 * j) 16 : BitVec 16).toNat
    let new (kind : Nat) : Nat := atomNew kind (FAtomOp.num op) 4 a.toNat (leBytes b.toNat 4)
    new 2 = each .f32 a.toNat b.toNat ∧
    new 3 = each .f16 (half a 0) (half b 0) + 65536 * each .f16 (half a 1) (half b 1) ∧
    new 4 = each .bf16 (half a 0) (half b 0) + 65536 * each .bf16 (half a 1) (half b 1)) ∧
  ∀ (wide : Bool) (x y z : DWord),
    let n := if wide then 8 else 4
    let cut (v : DWord) : DWord := if wide then v else (slice v 0 32 : Word).setWidth 64
    let num (v : DWord) : Int := if wide then v.toInt else (slice v 0 32 : Word).toInt
    let new (op : AtomOp) : Nat := atomNew 0 (AtomOp.num op) n (cut x).toNat (leBytes (cut y).toNat n)
    new .add = (cut (x + y)).toNat ∧
    new .min = (if num y < num x then cut y else cut x).toNat ∧
    new .max = (if num x < num y then cut y else cut x).toNat ∧
    new .umin = min (cut x).toNat (cut y).toNat ∧
    new .umax = max (cut x).toNat (cut y).toNat ∧
    new .and = (cut (x &&& y)).toNat ∧
    new .or = (cut (x ||| y)).toNat ∧
    new .xor = (cut (x ^^^ y)).toNat ∧
    new .exch = (cut y).toNat ∧
    new .inc = (if (cut y).toNat ≤ (cut x).toNat then 0 else (cut x).toNat + 1) ∧
    new .dec = (if (cut x).toNat = 0 ∨ (cut y).toNat < (cut x).toNat then (cut y).toNat else (cut x).toNat - 1) ∧
    atomNew 1 15 n (cut x).toNat (leBytes (cut y).toNat n ++ leBytes (cut z).toNat n) =
      (if cut x = cut y then (cut z).toNat else (cut x).toNat)

/-- R251 to R255, R260: a global atomic reads and replaces the value of each lane's place in one step, lane after lane; an
atomic with a destination leaves the old values there; nothing else of memory changes. R209, R254: an atomic of the scratchpad
does the same there. -/
def Obligations.AtomicsOfMemory : Prop :=
  (∀ (s : State) (h : Hdr) (d : RegDst) (m : MemRef) (a c new : Src) (op : AtomOp) (fop : FAtomOp) (rop : RedMemOp)
     (ty : FAtomTy) (sz : MSize) (ord : AOrd) (rel : Bool) (scope : Option Scope) (i : Iss),
     let sc := regScalar d
     let rd := i.rd s sc
     let q := scalarFields [m.base, a, m.off]
     let n := msize sz
     let runs (j : Instr) (q : Bool) (d : Option RegDst) (base : MemRef) (n kind code : Nat) (data : Nat → List Byte) : Prop :=
       ∀ ok t, Reached s i q ((i.rd s q).gaddr base) n n true ok t → (∀ e ∈ ok, e.2.length = 1) →
       let turns := turnsOf (fun l old => leBytes (atomNew kind code n (leNat old) (data l)) n) n t.readLoc
         (ok.map (fun e => (e.1, (e.2.headD ⟨⟨.dev, 0⟩, 0, 0⟩).loc)))
       ∃ u w', Leaves (exec j s) s i u w' ∧ RunDone i d (regCount n) none w' ∧
         (∀ r, d = some r → ∀ e ∈ turns.1, w'.regsOf r (regCount n) e.1 = wordsOf e.2) ∧
         (∀ l : Loc, l.space ≠ .fab → u.readLoc l = turns.2 l) ∧ SameScratch s u
     i.part ≠ 0 → i.w.rejected = [] → Settled s i → (∀ e ∈ s.vds, e.2.dlog = false) →
     (IssueReady s h (instrLen [m.base, a, m.off]) i →
       (4 ≤ n → n ≤ 8 → regFits d (regCount n) = true →
         runs (.atom h d m a op sz ord scope) sc (some d) m n 0 (AtomOp.num op) (rd.bytes a n)) ∧
       runs (.atomf h d m a fop ty ord scope) sc (some d) m 4 (FAtomTy.kind ty) (FAtomOp.num fop) (rd.fbytes a ty) ∧
       (∀ o, rop = .int o → 4 ≤ n → n ≤ 8 →
         runs (.red h m a rop sz rel scope) q none m n 0 (AtomOp.num o) ((i.rd s q).bytes a n)) ∧
       (∀ o, rop = .float o → runs (.red h m a rop sz rel scope) q none m 4 2 (FAtomOp.num o) ((i.rd s q).fbytes a .f32))) ∧
     (IssueReady s h (instrLen [m.base, c, new]) i → 4 ≤ n → n ≤ 8 → regFits d (regCount n) = true →
       runs (.atomcas h d m.base c new sz ord scope) sc (some d) ⟨m.base, noOff⟩ n 1 15
         (fun l => rd.bytes c n l ++ rd.bytes new n l))) ∧
  (∀ (s : State) (h : Hdr) (d : RegDst) (m : MemRef) (a c new : Src) (op : AtomOp) (sz : MSize) (ord : AOrd)
     (scope : Option Scope) (i : Iss) (g : Workgroup),
     let sc := regScalar d
     let rd := i.rd s sc
     let n := msize sz
     let runs (j : Instr) (base : MemRef) (kind code : Nat) (data : Nat → List Byte) : Prop :=
       let at_ (l : Nat) : Nat := (rd.saddr base l).toNat
       (∀ l ∈ i.who sc, s.scratchFault g (at_ l) n n true true = none) →
       let turns := scratchTurns (fun l old => leBytes (atomNew kind code n (leNat old) (data l)) n) g n (cellGet s.scratch)
         ((i.who sc).map (fun l => (l, at_ l)))
       ∃ u w', Leaves (exec j s) s i u w' ∧ RunDone i (some d) (regCount n) none w' ∧
         (∀ e ∈ turns.1, w'.regsOf d (regCount n) e.1 = wordsOf e.2) ∧
         (∀ x, cellGet u.scratch x = turns.2 x) ∧ (∀ q, u.feOf q = s.feOf q) ∧ SameGlobal s u
     i.part ≠ 0 → Settled s i → s.wgOf i.w = some g → 4 ≤ n → n ≤ 8 → regFits d (regCount n) = true →
     (IssueReady s h (instrLen [m.base, a, m.off]) i →
       runs (.atoml h d m a op sz ord scope) m 0 (AtomOp.num op) (rd.bytes a n)) ∧
     (IssueReady s h (instrLen [m.base, c, new]) i →
       runs (.atomlcas h d m.base c new sz ord scope) ⟨m.base, noOff⟩ 1 15 (fun l => rd.bytes c n l ++ rd.bytes new n l)))

/-- R51, R217, R222, R225: PARKING. Where the pages of some lanes of a load or store of global memory are absent and no lane has
a fault, those lanes park with reason 1 at the instruction and keep their registers, and a fault entry for each page awaits its
answer; the other lanes perform their accesses and move on. LDFE.park at an empty granule and XLOAD.park at an empty granule of
a member park a lane with reason 2 in the same way. -/
def Obligations.ParkedAccesses : Prop :=
  (∀ (s : State) (h : Hdr) (d : RegDst) (m : MemRef) (a : Src) (sz : MSize) (sx acq rel : Bool) (scope : Option Scope) (i : Iss)
     (out : List (Nat × LaneX)) (t : State),
     let g := s.agentOf i.k i.w 0
     let n := msize sz
     let q (wr : Bool) : State :=
       (absentPages out).foldl (fun x va => x.pageFault g va (!wr) wr false) { t with nextId := t.nextId + 32 }
     let queued (wr : Bool) (u : State) : Prop :=
       (∀ l : Loc, l.space = .dev → (q wr).readLoc l = t.readLoc l) ∧
       ((t.ctx? g.vd g.ctx).isSome = true → ∀ va ∈ absentPages out, u.awaits g.vd g.ctx va = true)
     (IssueReady s h (instrLen [m.base, m.off]) i → i.w.rejected = [] → regFits d (regCount n) = true →
       Sorted s i (regScalar d) ((i.rd s (regScalar d)).gaddr m) n false out t →
       ∀ j ∈ [Instr.ld h d m sz sx acq scope, Instr.ldu h d m sz sx acq scope],
         ∃ u w', Leaves (exec j s) s i u w' ∧
           ParkDone i (some d) (regCount n) (i.waiting (regScalar d) out) 1 w' ∧
           (∀ e ∈ presentPieces out, w'.regsOf d (regCount n) e.1 = loadWords sx ((List.range n).map (fun b =>
             (e.2.flatMap (fun p => bytesIn (q false).readLoc p.loc p.len)).getD b 0))) ∧
           queued false u ∧ SameGlobal (q false) u ∧ SameScratch s u) ∧
     (let sc := scalarFields [m.base, a, m.off]
      let rd := i.rd s sc
      IssueReady s h (instrLen [m.base, a, m.off]) i → Settled s i → i.part ≠ 0 → (∀ e ∈ s.vds, e.2.dlog = false) →
      Sorted s i sc (rd.gaddr m) n true out t →
      ∀ j ∈ [Instr.st h m a sz rel scope, Instr.stu h m a sz rel scope],
        ∃ u w', Leaves (exec j s) s i u w' ∧ ParkDone i none 0 (i.waiting sc out) 1 w' ∧
          (∀ l : Loc, l.space ≠ .fab → u.readLoc l = storesOf (q true).readLoc (rd.bytes a n) (presentPieces out) l) ∧
          queued true u ∧ SameScratch s u)) ∧
  (∀ (s : State) (h : Hdr) (d : RegDst) (m : MemRef) (sz : MSize) (sx acq clr : Bool) (from_ : Src) (scope : Option Scope)
     (i : Iss) (g : Workgroup),
     let sc := regScalar d
     let n := msize sz
     let k := regCount n
     let rd := i.rd s sc
     let at_ (l : Nat) : Nat := (rd.saddr m l).toNat
     let parks (owner : Nat → Option Workgroup) : Mask := Mask.ofFn (fun l => (i.who sc).any (fun j =>
       (match owner j with | some o => !s.feOf (granuleOf o (at_ j)) | none => false) && (i.for sc j).has l))
     let val (o : Workgroup) (l : Nat) : List Word := loadWords sx (scratchIn (cellGet s.scratch) o (at_ l) n)
     let done (owner : Nat → Option Workgroup) (u : State) (w' : Wave) : Prop :=
       ParkDone i (some d) k (parks owner) 2 w' ∧
       (∀ l ∈ i.who sc, ∀ o, owner l = some o → s.feOf (granuleOf o (at_ l)) = true → w'.regsOf d k l = val o l) ∧
       (∀ l ∈ i.who sc, ∀ o, owner l = some o → s.feOf (granuleOf o (at_ l)) = false →
         ∀ x, (i.for sc l).has x = true → Tab.get? w'.parkArg x = some (.granule (granuleOf o (at_ l)))) ∧
       SameGlobal s u ∧ ∀ x, cellGet u.scratch x = cellGet s.scratch x
     s.wgOf i.w = some g → regFits d k = true → s.outstanding i.k = false →
     (IssueReady s h (instrLen [m.base, m.off]) i →
       (∀ l ∈ i.who sc, s.scratchFault g (at_ l) n n clr true = none) →
       (∀ l ∈ i.who sc, ∀ j ∈ i.who sc, granuleOf g (at_ l) = granuleOf g (at_ j) → l = j) →
       ∃ u w', Leaves (exec (.ldfe h d m sz sx clr none scope) s) s i u w' ∧ done (fun _ => some g) u w' ∧
         ∀ q, u.feOf q = (s.feOf q && !(clr && (i.who sc).any (fun l => granuleOf g (at_ l) == q)))) ∧
     (IssueReady s h (instrLen [m.base, from_, m.off]) i →
       (∀ l ∈ i.who sc, ∃ o, s.member g (rd.w32 from_ l).toNat = some o ∧ s.scratchFault o (at_ l) n n false true = none) →
       ∃ u w', Leaves (exec (.xload h d m from_ sz sx true acq scope) s) s i u w' ∧
         done (fun l => s.member g (rd.w32 from_ l).toNat) u w' ∧ ∀ q, u.feOf q = s.feOf q))

/-- R239, R256 to R258: a fence moves on once nothing of its wave is on the fabric; CMAINT writes back the lines of its
range, or writes them back and removes them, or invalidates them in the first-level cache; ICINV removes the words of its
range from the instruction caches that its scope reaches. No byte of memory changes. -/
def Obligations.FencesAndCaches : Prop :=
  ∀ (s : State) (h : Hdr) (kind : FenceKind) (m : MemRef) (len : Src) (op : CmOp) (scope : Option Scope) (i : Iss),
    let rd := i.rd s true
    let a := rd.gaddr m i.lane
    let n := (rd.w32 len i.lane).toNat
    let g := s.agentOf i.k i.w 0
    let lines := s.rangeLines g.vd g.ctx a.toNat n
    i.part ≠ 0 → Settled s i →
    (IssueReady s h 8 i →
      exec (.fence h kind scope) s = .next ((s.setWave i.k (i.step (s.scopeOf i.w scope).2)).endRun i.k)) ∧
    (IssueReady s h (instrLen [m.base, len, m.off]) i → canonical a = true → a.toNat + n ≤ 2 ^ 57 →
      (s.reqs = [] → (∀ e ∈ s.llc, e.1 / 2 ^ 60 = 3 → e.2.dirty = false) →
        ∃ u w', Leaves (exec (.cmaint h m len op scope) s) s i u w' ∧ RunDone i none 0 none w' ∧
          (∀ e ∈ lines,
            let k := lineKey e.2.space e.2.addr
            match op with
            | .wb => ∀ ln, Tab.get? u.llc k = some ln → ln.dirty = false
            | .wbinv => ∀ ln, Tab.get? u.llc k = some ln → e.2.space = .fab ∧ ln.vd ≠ g.vd
            | .inv => Tab.get? u.l1 (l1Key (s.l1Of g.core e.2.addr) k) = none) ∧
          SameGlobal s u ∧ SameScratch s u) ∧
      ∃ u w', Leaves (exec (.icinv h m len scope) s) s i u w' ∧ RunDone i none 0 none w' ∧
        (∀ e ∈ u.icache, icReach (s.scopeOf i.w scope).1 g.core (e.1 / 2 ^ 68) = true → ∀ x ∈ lines,
          ¬(e.1 / 2 ^ 64 % 16 = Space.code x.2.space ∧ e.1 % 2 ^ 64 / 8 = x.2.addr / 64)) ∧
        SameGlobal s u ∧ SameScratch s u)

/-- R229 to R232: TRES gives the lowest free handle of the virtual device, or says that there is none or that the range is
not one; TREL frees a handle of its context, TDEMOTE gives it priority 0, TEVICT empties the cache of its lines. -/
def Obligations.ResidencyHandles : Prop :=
  ∀ (s : State) (h : Hdr) (sd : BitVec 6) (a len : Src) (pri : BitVec 3) (i : Iss) (v : VDev),
    let rd := i.rd s true
    let g := s.agentOf i.k i.w 0
    let base := (rd.val a .w64 i.lane).toNat
    let size := 4096 * (rd.w32 len i.lane).toNat
    let bad := base % 4096 ≠ 0 ∨ size = 0 ∨ 2 ^ 57 < base + size
    let gives (j : Instr) (x : Word) (f : Tab Handle → Tab Handle) : Prop :=
      ∃ u w' v', Leaves (exec j s) s i u w' ∧ RunDone i (some (.s sd)) 1 none w' ∧ w'.getS sd.toNat = x ∧
        Tab.get? u.vds g.vd = some v' ∧ v'.handles = f v.handles ∧ SameGlobal s u ∧ SameScratch s u
    let j := (rd.w32 a i.lane).toNat
    i.part ≠ 0 → Tab.get? s.vds g.vd = some v →
    (IssueReady s h (instrLen [a, len]) i →
      (bad → gives (.tres h sd a len pri) 0xFFFFFFFE id) ∧
      (¬bad → (∀ k, k < 256 → (Tab.get? v.handles k).isSome = true) → gives (.tres h sd a len pri) 0xFFFFFFFF id) ∧
      (∀ k, ¬bad → k < 256 → Tab.get? v.handles k = none → (∀ q, q < k → (Tab.get? v.handles q).isSome = true) →
        gives (.tres h sd a len pri) (BitVec.ofNat 32 k) (fun t => Tab.put t k ⟨g.ctx, base, size, pri.toNat⟩))) ∧
    (IssueReady s h (instrLen [a]) i → j < 256 → ∀ x, Tab.get? v.handles j = some x → x.ctx = g.ctx →
      (∃ u w' v', Leaves (exec (.trel h a) s) s i u w' ∧ RunDone i none 0 none w' ∧ Tab.get? u.vds g.vd = some v' ∧
        v'.handles = Tab.del v.handles j ∧ SameGlobal s u ∧ SameScratch s u) ∧
      (∃ u w' v', Leaves (exec (.tdemote h a) s) s i u w' ∧ RunDone i none 0 none w' ∧ Tab.get? u.vds g.vd = some v' ∧
        v'.handles = Tab.put v.handles j { x with prio := 0 } ∧ SameGlobal s u ∧ SameScratch s u) ∧
      (s.reqs = [] → (∀ e ∈ s.llc, e.1 / 2 ^ 60 = 3 → e.2.dirty = false) →
        ∃ u w', Leaves (exec (.tevict h a) s) s i u w' ∧ RunDone i none 0 none w' ∧
          (∀ e ∈ s.rangeLines g.vd g.ctx x.base x.size, ∀ ln,
            Tab.get? u.llc (lineKey e.2.space e.2.addr) = some ln → e.2.space = .fab ∧ ln.vd ≠ g.vd) ∧
          SameGlobal s u ∧ SameScratch s u))

/-! ## Traps, special registers, monitors (R431 to R456, R489 to R503) -/

/-- R432, R436, R437: TAKING A TRAP. Inside the handler, or with no handler or no frame, the context faults. Otherwise the
frame is written, every thread that has not exited stands at the handler's address, none is parked, and the trap registers
hold the trap; registers, predicates, flags and generators are as they were. R436, R438: what RFT reads from a frame that
nothing has changed is what the trap wrote: PCs, park reasons, pending indices, the fairness counter, the
rover and the awaited phase. -/
def Obligations.TrapEntryAndFrame : Prop :=
  (∀ (s : State) (k : Nat) (w : Wave) (t : TrapRec), Tab.get? s.waves k = some w →
     let g := s.agentOf k w 0
     let vec : BitVec 64 := match s.ctx? g.vd g.ctx with | some c => c.trapvec | none => 0
     let cause : BitVec 32 := 1#1 ++ 0#15 ++ t.detail ++ t.cause
     let shut := w.tcause.getLsbD 31 = true ∨ vec = 0 ∨ w.tframe = 0
     (shut → s.takeTrap k t = s.contextFault g.vd g.ctx (t.detail.toNat * 256 + t.cause.toNat) t.pc t.addr) ∧
     (¬shut → s.outstanding k = false → ∀ ps s', s.span g (vaOf w.tframe) 1024 true = (.ok ps, s') →
       (∀ p ∈ ps, p.isFab = false) → (∀ e ∈ s.vds, e.2.dlog = false) →
       ∃ w', Tab.get? (s.takeTrap k t).waves k = some w' ∧
         (∀ l, w.alive.has l = true → w'.pcOf l = vec) ∧
         w'.tcause = cause ∧ w'.tmask = t.mask ∧ w'.tpc = t.pc ∧ w'.taddr = t.addr ∧ w'.tcount = w.tcount + 1 ∧
         w'.parked = 0 ∧ w'.held = 0 ∧ w'.waiting = 0 ∧ w'.chain = 0 ∧ w'.busy = .no ∧
         (∀ j, j < w.latches.length → (w'.latch j).valid = false) ∧
         w'.v = w.v ∧ w'.s = w.s ∧ w'.p = w.p ∧ w'.flags = w.flags ∧ w'.seed = w.seed ∧ w'.exited = w.exited ∧
         w'.tframe = w.tframe ∧ w'.trapen = w.trapen ∧ w'.rmode = w.rmode ∧ w'.fair = w.fair ∧
         (∀ l : Loc, l.space ≠ .fab →
           (s.takeTrap k t).readLoc l = intoPieces s'.readLoc ps (frameBytes w t cause) l))) ∧
  (∀ (w u : Wave) (t : TrapRec) (cause : BitVec 32), u.exited = w.exited →
     let b := frameBytes w t cause
     let r := u.fromFrame b
     b.length = 1024 ∧
     (∀ l, w.alive.has l = true → r.pcOf l = w.pcOf l ∧ r.reasonOf l = w.reasonOf l ∧
       (∀ j, Tab.get? w.pend l = some j → j < 64 → Tab.get? r.pend l = some j) ∧
       (Tab.get? w.pend l = none → Tab.get? r.pend l = none)) ∧
     r.fairCnt = w.fairCnt % 2 ^ 32 ∧ r.rover = w.rover ∧ r.phase = w.phase ∧ r.tcause = u.tcause &&& 0x7FFFFFFF)

/-- R511 to R513: A START. Its steps run in order until one ends it; the status of each is recorded. A step that fails makes
the next start use its other form, and is fatal in its last form; the stacks, the ISMVs, the tier, the clusters and the ports are
mapped out or replaced one by one. A warm start that finds WARM set and steps 3 to 10 in order skips those steps and leaves their
parts and the fields of the record for them as they are; WARM follows R512.
Model choices in it: log entries 66 and 72. -/
def Obligations.Starts : Prop :=
  ∀ (old : BootRec) (cold : Bool) (b : Boot) (t : BootTests),
    let x := runStart old cold b t
    let st (n : Nat) : Nat := x.r.stepOf n
    let warm : Prop := cold = false ∧ old.flags.getLsbD 0 = true
    let skip : Prop := warm ∧ ∀ n, 3 ≤ n → n ≤ 10 → old.stepOf n ∈ [1, 2, 4, 5]
    let after (n : Nat) : Prop := ∀ m, n < m → m ≤ 12 → st m = 0
    -- a step that ends the start, or goes on in its first or its fallback form
    let form (n : Nat) (bad fallback last : Bool) (next : Prop) : Prop :=
      (bad = true → st n = 3 ∧ x.ended = true ∧ x.fatal = last ∧ after n ∧ (last = false → next)) ∧
      (bad = false → st n = if fallback then 2 else 1)
    let inB := old.fwSlot.getLsbD 0
    let badA := old.fwSlot.getLsbD 1
    let badB := old.fwSlot.getLsbD 2
    let firmware (n : Nat) (bad : Bool) : Prop :=
      form n bad (badA || badB) (if inB then badA else badB) (x.r.fwSlot.getLsbD 0 = !inB) ∧
      (bad = true → x.r.fwSlot.getLsbD (if inB then 2 else 1) = true)
    let part (n : Nat) (failed out cons : Prop) : Prop :=
      (failed → st n = 3) ∧ (¬failed → out → st n = 5) ∧ (¬failed → ¬out → cons → st n = 2) ∧
      (¬failed → ¬out → ¬cons → st n = 1)
    x.r.seq = (old.seq + 1) % 2 ^ 32 ∧ x.r.count = (old.count + 1) % 2 ^ 48 ∧
    (x.ended = false → x.fatal = false ∧ (st 12 = 1 ∨ st 12 = 2)) ∧
    form 1 t.rom false true False ∧
    (st 1 = 1 → firmware 2 (if inB then t.fwB else t.fwA)) ∧
    (st 2 = 1 ∨ st 2 = 2 → ¬skip →
      form 3 (if old.fwSlot.getLsbD 3 then t.refB else t.refA) (old.fwSlot.getLsbD 3) (old.fwSlot.getLsbD 3)
        (x.r.fwSlot.getLsbD 3 = true) ∧
      (st 3 ≠ 3 → form 4 (if old.flags.getLsbD 1 then t.linksSpare else t.links) (old.flags.getLsbD 1) (old.flags.getLsbD 1)
        (x.r.flags.getLsbD 1 = true)) ∧
      (st 3 ≠ 3 → st 4 ≠ 3 →
        let slow (i : Nat) : Prop := i < 8 ∧ (old.stkCons.getLsbD i = true ∨ old.stkOut.getLsbD i = true ∨
          (old.stepOf 5 = 3 ∧ t.stkFail.getLsbD i = true))
        let lost (i : Nat) : Prop := i < 8 ∧ ¬slow i ∧ t.stkFail.getLsbD i = true
        let out (i : Nat) : Prop := slow i ∧ t.stkConsFail.getLsbD i = true
        let lpSlow : Prop := old.lpMode ≠ 0 ∨ old.stepOf 7 = 3
        let saved (d i : Nat) : Prop := i / 10 = d ∧ t.clFail.getLsbD i = true ∧ t.clFail.getLsbD (20 + d) = false ∧
          ∀ j, j < i → j / 10 = d → t.clFail.getLsbD j = false
        part 5 (∃ i, lost i) (∃ i, out i) (∃ i, slow i) ∧
        (∀ i, i < 8 → (x.stk.getLsbD i = true ↔ ¬lost i ∧ ¬out i) ∧ (x.r.stkOut.getLsbD i = true ↔ out i) ∧
          (x.r.stkCons.getLsbD i = true ↔ slow i ∧ ¬out i)) ∧
        part 6 False (∃ i, x.stk.getLsbD i = true ∧ t.ismvFail.getLsbD i = true) False ∧
        (∀ i, x.ismv.getLsbD i = (x.stk.getLsbD i && !t.ismvFail.getLsbD i) ∧
          x.r.ismvOut.getLsbD i = (x.stk.getLsbD i && t.ismvFail.getLsbD i)) ∧
        part 7 (¬lpSlow ∧ t.lpFail = true) (lpSlow ∧ t.lpConsFail = true) lpSlow ∧
        (x.lp = true ↔ ¬(¬lpSlow ∧ t.lpFail = true) ∧ ¬(lpSlow ∧ t.lpConsFail = true)) ∧
        (lpSlow → x.r.lpMode = if t.lpConsFail then 2 else 1) ∧ (¬lpSlow → x.r.lpMode = 0) ∧
        part 8 False (∃ i, x.r.clOut.getLsbD i = true) (∃ d i, d < 2 ∧ saved d i) ∧
        (∀ i, i < 20 → (x.r.clOut.getLsbD i = true ↔ t.clFail.getLsbD i = true ∧ ¬saved (i / 10) i)) ∧
        (∀ d, d < 2 → (x.r.spare.getLsbD d = true ↔ ∃ i, saved d i)) ∧
        form 9 (if old.flags.getLsbD 2 then t.llcRepair else t.llc) (old.flags.getLsbD 2) (old.flags.getLsbD 2)
          (x.r.flags.getLsbD 2 = true) ∧
        (st 9 ≠ 3 → part 10 False (t.portFail ≠ 0) False ∧ x.r.portOut = t.portFail ∧ x.ports = ~~~t.portFail))) ∧
    (st 2 = 1 ∨ st 2 = 2 → skip →
      (∀ n, 3 ≤ n → n ≤ 10 → st n = 4) ∧ x.stk = b.stk ∧ x.ismv = b.ismv ∧ x.ports = b.ports ∧ x.lp = b.lp ∧
      x.r.portOut = old.portOut ∧ x.r.stkOut = old.stkOut ∧ x.r.stkCons = old.stkCons ∧ x.r.ismvOut = old.ismvOut ∧
      x.r.lpMode = old.lpMode ∧ x.r.spare = old.spare ∧ x.r.clOut = old.clOut ∧
      x.r.fwSlot.getLsbD 3 = old.fwSlot.getLsbD 3 ∧ x.r.flags.getLsbD 1 = old.flags.getLsbD 1 ∧
      x.r.flags.getLsbD 2 = old.flags.getLsbD 2) ∧
    (st 10 ≠ 0 → old.link < 4 →
      form 11 (t.hostFails.getLsbD old.link) (decide (old.link ≠ 0)) (decide (old.link = 3)) (x.r.link = old.link + 1)) ∧
    (st 11 = 1 ∨ st 11 = 2 → x.r.link = old.link ∧ firmware 12 t.tables) ∧
    (x.r.flags.getLsbD 0 = true ↔ (st 12 = 1 ∨ st 12 = 2) ∨ (warm ∧ ∀ n, 1 ≤ n → n ≤ 12 → st n ≠ 3)) ∧
    (∀ c : Boot, let r := x.r.bits
      recordOk r = true ∧ (recordSeq c.record + 1 = recordSeq r → (c.write r).record = r))

/-- R70, R71, R432, R438, R440: TRAP enters the handler with its frame at the next instruction, BRK at the BRK, a word whose
opcode is unassigned raises ILLOP; and RFT inside the handler, with every thread that has not exited at it, gives each of
them back what its frame holds.
Model choices in it: log entries 16, 26 and 51. -/
def Obligations.TrapsAndReturn : Prop :=
  (∀ (s : State) (h : Hdr) (code : BitVec 8) (x : BitVec 64) (i : Iss),
     (IssueReady s h 8 i → i.part ≠ 0 →
       exec (.trap h code) s =
         .next (((s.setWave i.k (i.step i.w)).takeTrap i.k ⟨0x10, code, i.part, i.pc, 0, [], []⟩).endRun i.k) ∧
       exec (.brk h code) s = .next ((s.takeTrap i.k ⟨0x11, code, i.part, i.pc, 0, [], []⟩).endRun i.k)) ∧
     (s.iss ⟨false, 7⟩ 8 = some i → i.w.spec = none →
       exec (.illegalWord x) s = .next (s.takeTrap i.k ⟨0x01, 0, i.act, i.pc, 0, [], []⟩))) ∧
  (∀ (s : State) (h : Hdr) (i : Iss), IssueReady s h 8 i → i.act = i.w.alive → i.part ≠ 0 →
     let s₀ := s.setWave i.k { i.w with waiting := 0 }
     let g := s.agentOf i.k i.w 0
     (i.w.tcause.getLsbD 31 = false → exec (.rft h) s = .next ((s₀.takeTrap i.k ⟨0x12, 0, i.part, i.pc, 0, [], []⟩).endRun i.k)) ∧
     (i.w.tcause.getLsbD 31 = true → i.w.tframe ≠ 0 → ∀ ps s', s₀.span g (vaOf i.w.tframe) 1024 false = (.ok ps, s') →
       (∀ p ∈ ps, p.isFab = false) → frameBad i.w (s'.readPieces ps) = false →
       let at_ (o n : Nat) : Nat := leNat (((s'.readPieces ps).drop o).take n)
       ∃ u w', Leaves (exec (.rft h) s) s i u w' ∧
         (∀ l, i.w.alive.has l = true → w'.pcOf l = BitVec.ofNat 64 (at_ (64 + 8 * l) 8) ∧
           w'.reasonOf l = frameReason (s'.readPieces ps) l) ∧
         w'.tcause = i.w.tcause &&& 0x7FFFFFFF ∧ w'.fairCnt = at_ 32 4 ∧ w'.rover = BitVec.ofNat 64 (at_ 40 8) ∧
         w'.v = i.w.v ∧ w'.s = i.w.s ∧ w'.p = i.w.p ∧ w'.flags = i.w.flags ∧ w'.seed = i.w.seed ∧
         w'.exited = i.w.exited ∧ w'.tmask = i.w.tmask ∧ w'.tpc = i.w.tpc ∧ w'.taddr = i.w.taddr))

/-- R33, R431, R434: MOVSR gives the value of a special register: in each participating lane, or in a scalar register that
of the lowest lane of `active()`. -/
def Obligations.SpecialRegisterReads : Prop :=
  ∀ (s : State) (h : Hdr) (d : RegDst) (idx : BitVec 10) (i : Iss) (g : Workgroup) (c : Context) (r : SReg),
    IssueReady s h 8 i → i.part ≠ 0 → s.wgOf i.w = some g → s.ctx? g.vd g.ctx = some c →
    SReg.ofIdx idx.toNat = some r →
    let k := if r.wide then 2 else 1
    regFits d k = true →
    let words (l : Nat) : List Word :=
      let x : DWord := BitVec.ofNat 64 (s.sregVal i g c r l)
      if r.wide then [slice x 0 32, slice x 32 32] else [slice x 0 32]
    let val (q : SReg) (l : Nat) : Nat := s.sregVal i g c q l
    (∃ w', exec (.movsr h d idx) s = .next (s.setWave i.k w') ∧
      (regScalar d = false → ∀ l, i.part.has l = true → w'.regsOf d k l = words l) ∧
      (regScalar d = true → w'.regsOf d k 0 = words (i.act.lowest.getD 0)) ∧
      (∀ q l, l < 32 → (regsNameV (some d) k q && i.part.has l) = false → w'.getV q l = i.w.getV q l) ∧
      (∀ q, regsNameS (some d) k q = false → w'.getS q = i.w.getS q) ∧
      (∀ l, w'.pcOf l = if i.act.has l then i.next else i.w.pcOf l) ∧
      w' = { i.w with
        v := w'.v, s := w'.s, pc := w'.pc, held := i.w.held &&& ~~~i.act, waiting := i.w.waiting &&& ~~~i.act }) ∧
    (∀ l, val .laneid l = l ∧ val .waveid l = i.w.waveid ∧ val .tid l = i.w.waveid * 32 + l ∧ val .wgid l = g.wgid ∧
      val .coreid l = g.core ∧ val .spid l = i.k / 16 ∧ val .devid l = s.devid ∧ val .wgsize l = g.nthr ∧
      val .salloc l = g.salloc ∧ val .clock l = s.clock ∧ val .parked l = i.w.parked.toNat ∧
      val .active l = i.act.toNat ∧ val .frontier l = i.pc.toNat ∧ val .trapvec l = c.trapvec.toNat ∧
      val .tcause l = i.w.tcause.toNat ∧ val .tpc l = i.w.tpc.toNat ∧ val .ctxid l = g.vd * 64 + g.ctx)

/-- R58, R148, R162, R237, R431, R435: what MOVRS writes; `%trapvec` under HLOCK raises PRIV.
The mask and the address of an ALIGN trap and that PRIV is looked at before ALIGN are the model's choices.
Model choices in it: log entries 16 and 17. -/
def Obligations.SpecialRegisterWrites : Prop :=
  ∀ (s : State) (h : Hdr) (a : Src) (i : Iss) (g : Workgroup) (c : Context),
    IssueReady s h (instrLen [a]) i → i.part ≠ 0 → s.wgOf i.w = some g → s.ctx? g.vd g.ctx = some c →
    let rd := i.rd s (!a.isV)
    let x := rd.w32 a i.lane
    let y := rd.val a .w64 i.lane
    let writes (r : SReg) (w : Wave) : Prop := ∀ idx : BitVec 10, SReg.ofIdx idx.toNat = some r →
      exec (.movrs h a idx) s = .next ((s.setWave i.k (i.step w)).endRun i.k)
    let traps (r : SReg) (t : TrapRec) : Prop := ∀ idx : BitVec 10, SReg.ofIdx idx.toNat = some r →
      exec (.movrs h a idx) s = .next ((s.takeTrap i.k t).endRun i.k)
    let one := Mask.one i.lane
    writes .fair { i.w with fair := x &&& 0xFFFF } ∧
    writes .trapen { i.w with trapen := x &&& 0x7F } ∧
    ((slice x 0 3 : BitVec 3).toNat < 6 → writes .rmode { i.w with rmode := x &&& 0xF }) ∧
    (6 ≤ (slice x 0 3 : BitVec 3).toNat → writes .rmode { i.w with rmode := (x &&& 8) ||| (i.w.rmode &&& 7) }) ∧
    ((slice x 0 4 : BitVec 4).toNat < 11 →
      writes .dscope { i.w with dscope := (i.w.dscope &&& x &&& 0x100) ||| (x &&& 0xF) }) ∧
    (c.hlock = true → traps .trapvec ⟨0x12, 0, i.part, i.pc, 0, [], []⟩) ∧
    (c.hlock = false → (canonical y = false ∨ y.toNat % 8 ≠ 0) →
      traps .trapvec ⟨0x04, 0, one, i.pc, y, [(i.lane, y)], []⟩) ∧
    (c.hlock = false → canonical y = true → y.toNat % 8 = 0 → ∀ idx : BitVec 10, SReg.ofIdx idx.toNat = some .trapvec →
      exec (.movrs h a idx) s = .next (((s.setWave i.k (i.step i.w)).modCtx g.vd g.ctx
        (fun c => { c with trapvec := y })).endRun i.k)) ∧
    (canonical y = true → y.toNat % 64 = 0 → writes .tframe { i.w with tframe := y }) ∧
    ((canonical y = false ∨ y.toNat % 64 ≠ 0) → traps .tframe ⟨0x04, 0, one, i.pc, y, [(i.lane, y)], []⟩)

/-- R163, R441, R442, R506: STSRD gives the flags of its lanes and clears those it names; INTR sends a message of class PROGRAM
and says whether it was sent, merged, unmapped or out of range. A message that the function's MSI-X table masks sets its pending
bit. That a message held back by a masked remapping entry counts as sent (answer 0) is the model's choice.
Model choices in it: log entry 46. -/
def Obligations.FlagsAndInterrupts : Prop :=
  ∀ (s : State) (h : Hdr) (d : RegDst) (m n : Src) (sd : BitVec 6) (i : Iss),
    (IssueReady s h (instrLen [m]) i →
      let rd := i.rd s (regScalar d)
      ∃ w', exec (.stsrd h d m) s = .next (s.setWave i.k w') ∧
        (∀ q l, d = .v q → i.part.has l = true → w'.getV q.toNat l = (i.w.flagsOf l).setWidth 32) ∧
        (∀ q, d = .s q → i.part ≠ 0 → w'.getS q.toNat =
          (i.part.lanes.foldl (fun f l => f ||| i.w.flagsOf l) (0 : BitVec 7)).setWidth 32) ∧
        (∀ l, w'.flagsOf l =
          if i.part.has l then i.w.flagsOf l &&& ~~~(slice (rd.w32 m l) 0 7) else i.w.flagsOf l) ∧
        (∀ q l, l < 32 → (regsNameV (some d) 1 q && i.part.has l) = false → w'.getV q l = i.w.getV q l) ∧
        (∀ q, (regsNameS (some d) 1 q && i.part != 0) = false → w'.getS q = i.w.getS q) ∧
        (∀ l, w'.pcOf l = if i.act.has l then i.next else i.w.pcOf l) ∧
        w' = { i.w with
          v := w'.v, s := w'.s, flags := w'.flags, pc := w'.pc
          held := i.w.held &&& ~~~i.act, waiting := i.w.waiting &&& ~~~i.act }) ∧
    (IssueReady s h (instrLen [n]) i → i.part ≠ 0 → Settled s i →
      let vd := (s.agentOf i.k i.w 0).vd
      let x := ((i.rd s true).w32 n i.lane).toNat
      let e : BitVec 32 := Tab.getD s.remap (vd * 512 + x) 0
      let gives (r : Word) (f : State → State) : Prop :=
        exec (.intr h sd n) s = .next ((f s).setWave i.k (i.step ((s.scopeOf i.w (some .node)).2.setS sd.toNat r)))
      (64 ≤ x → gives 3 id) ∧
      (x < 64 → e.getLsbD 31 = false → gives 2 (fun s => s.modVd vd (fun v => { v with drops := v.drops + 1 }))) ∧
      (x < 64 → e.getLsbD 31 = true → e.getLsbD 29 = true → gives 1 id) ∧
      (x < 64 → e.getLsbD 31 = true → e.getLsbD 29 = false → e.getLsbD 30 = true →
        gives 0 (fun s => { s with remap := Tab.put s.remap (vd * 512 + x) (e ||| 0x20000000) })) ∧
      (x < 64 → e.getLsbD 31 = true → e.getLsbD 29 = false → e.getLsbD 30 = false →
        let fn := (slice e 6 10 : BitVec 10).toNat
        let vec := (slice e 0 6 : BitVec 6).toNat
        (s.msixMasked fn vec = false → gives 0 (fun s => { s with msi := s.msi ++ [(fn, vec)] })) ∧
        (s.msixMasked fn vec = true →
          gives 0 (fun s => { s with pba := Tab.set 0 s.pba fn (Tab.getD s.pba fn 0 ||| (1#64 <<< vec)) }))))

/-- R453, R454: PROBE gives what the page tables say of an address, the permission bits of a present leaf among it, and changes no
memory; TLBINV leaves no translation of its context for the range, or for any address, in the TLBs of the cores that its scope
reaches.
Model choices in it: log entries 52 and 129. -/
def Obligations.Translations : Prop :=
  ∀ (s : State) (h : Hdr) (d : RegDst) (m : MemRef) (n : Src) (scope : Option Scope) (i : Iss) (c : Context),
    let g := s.agentOf i.k i.w 0
    s.ctx? g.vd g.ctx = some c →
    let clean (u : State) (lo hi : Nat) : Prop := ∀ e ∈ u.tlb, e.die = false → e.vd = g.vd → e.pasid = c.pasid →
      icReach (s.scopeOf i.w scope).1 g.core e.unit = true → ¬(e.base < hi ∧ lo < e.base + e.size)
    (IssueReady s h (instrLen [m.base, m.off]) i → regFits d 2 = true →
      let rd := i.rd s (regScalar d)
      let ans (l : Nat) : List Word := [slice (s.probe g.vd g.ctx (rd.gaddr m l)) 0 32, slice (s.probe g.vd g.ctx (rd.gaddr m l)) 32 32]
      (∃ w', exec (.probe h d m) s = .next (s.setWave i.k w') ∧
        (regScalar d = false → ∀ l, i.part.has l = true → w'.regsOf d 2 l = ans l) ∧
        (∀ l, regScalar d = true → i.part.lowest = some l → w'.regsOf d 2 l = ans l) ∧
        (∀ l, w'.pcOf l = if i.act.has l then i.next else i.w.pcOf l)) ∧
      (∀ a, canonical a = false → s.probe g.vd g.ctx a = 1) ∧
      (∀ a, canonical a = true → walkVa c.format s.host (vaOf a) = .absent → s.probe g.vd g.ctx a = 0) ∧
      (∀ a base size frame kind wr pte, canonical a = true → kind < 4 →
        walkVa c.format s.host (vaOf a) = .leaf base size frame kind wr pte →
        let x := s.probe g.vd g.ctx a
        let ma := frame + (vaOf a - base)
        let e := s.fotOf (ma / 65536)
        x.getLsbD 63 = true ∧ (slice x 61 2 : BitVec 2).toNat = kind ∧ x.getLsbD 60 = wr ∧ slice x 0 55 = (0 : BitVec 55) ∧
        (kind ≠ 1 → x.getLsbD 59 = true ∧ x.getLsbD 58 = false ∧ x.getLsbD 57 = false) ∧
        (kind = 1 → ma < 0x14000000000 → x.getLsbD 59 = decide (fotOwner e = g.vd) ∧ x.getLsbD 58 = e.getLsbD 31 ∧
          x.getLsbD 57 = e.getLsbD 30) ∧
        (size = 2 ^ 12 → slice x 55 2 = (0 : BitVec 2)) ∧ (size = 2 ^ 16 → slice x 55 2 = (1 : BitVec 2)) ∧
        (size = 2 ^ 21 → slice x 55 2 = (2 : BitVec 2)) ∧ (size = 2 ^ 30 → slice x 55 2 = (3 : BitVec 2)))) ∧
    (i.part ≠ 0 → Settled s i →
      let j : Iss := { i with w := { i.w with busy := .no } }
      (IssueReady s h (instrLen [m.base, n, m.off]) i →
        let rd := i.rd s true
        let a := rd.gaddr m i.lane
        let k := (rd.w32 n i.lane).toNat
        canonical a = true → s.contextBusy g.vd g.ctx (vaOf a) (4096 * k) = false →
        ∃ u w', Leaves (exec (.tlbinv h m n scope) s) s i u w' ∧
          (k = 0 → RunDone i none 0 none w') ∧ (k ≠ 0 → RunDone j none 0 none w') ∧
          (k ≠ 0 → clean u (vaOf a) (vaOf a + 4096 * k)) ∧ SameGlobal s u ∧ SameScratch s u) ∧
      (IssueReady s h 8 i → s.contextBusy g.vd g.ctx 0 (2 ^ 57) = false →
        ∃ u w', Leaves (exec (.tlbinvAll h scope) s) s i u w' ∧ RunDone j none 0 none w' ∧ clean u 0 (2 ^ 57) ∧
          SameGlobal s u ∧ SameScratch s u))

/-- R495 to R503: PMRD and LCURD give a counter or a field of a unit, or bit 63 alone where the virtual device does not
hold it; PMCTL answers 0, 1 (not held) or 2 (bad selector), and 1 before it looks at the control word; MARK counts, opens an
interval, or closes it.
Model choices in it: log entries 17, 63, 84 and 127. -/
def Obligations.Monitors : Prop :=
  ∀ (s : State) (h : Hdr) (dd sd : BitVec 6) (cid ctl : Src) (fld : BitVec 5) (tag : BitVec 8) (i : Iss),
    let vd := (s.agentOf i.k i.w 0).vd
    let rd := i.rd s true
    let id_ := rd.w32 cid i.lane
    let moved (w : Wave) : State := s.setWave i.k (i.step w)
    i.part ≠ 0 →
    (IssueReady s h (instrLen [cid]) i →
      (∀ c r, cidOf id_ = some c → s.counters i.k vd c = some r →
        exec (.pmrd h dd cid) s = .next (moved (i.w.setSw dd.toNat ((s.cntRead r).setWidth 64)))) ∧
      ((cidOf id_).bind (s.counters i.k vd) = none → exec (.pmrd h dd cid) s = .next (moved (i.w.setSw dd.toNat (1#64 <<< 63)))) ∧
      (id_.toNat < 2 ^ 17 → ∀ n, lcuOf i.k (slice id_ 13 3 : BitVec 3).toNat (slice id_ 4 9 : BitVec 9).toNat = some n →
        s.holdsLcu vd n = true → exec (.lcurd h dd cid fld) s = .next (moved (i.w.setSw dd.toNat ((s.lcuAt n).field fld.toNat)))) ∧
      (id_.toNat < 2 ^ 17 → fld ≠ 3 → ∀ n, lcuOf i.k (slice id_ 13 3 : BitVec 3).toNat (slice id_ 4 9 : BitVec 9).toNat = some n →
        s.holdsLcu vd n = false → exec (.lcurd h dd cid fld) s = .next (moved (i.w.setSw dd.toNat (1#64 <<< 63)))) ∧
      (2 ^ 17 ≤ id_.toNat → fld ≠ 3 → exec (.lcurd h dd cid fld) s = .next (moved (i.w.setSw dd.toNat (1#64 <<< 63))))) ∧
    (IssueReady s h (instrLen [cid, ctl]) i →
      let x := rd.w32 ctl i.lane
      let y := rd.val ctl .w64 i.lane
      (cidOf id_ = none → exec (.pmctl h sd cid ctl) s = .next (moved (i.w.setS sd.toNat 2)) ∧
        exec (.pmctlVal h sd cid ctl) s = .next (moved (i.w.setS sd.toNat 2))) ∧
      (∀ c, cidOf id_ = some c → c.lcu = false → s.counters i.k vd c = none →
        exec (.pmctl h sd cid ctl) s = .next (moved (i.w.setS sd.toNat 1)) ∧
        exec (.pmctlVal h sd cid ctl) s = .next (moved (i.w.setS sd.toNat 1))) ∧
      (∀ c r, cidOf id_ = some c → c.lcu = false → s.counters i.k vd c = some r →
        (x &&& 0x3FFFFF00 = 0 → evtOk c.cls (slice x 0 8 : BitVec 8).toNat = true →
          ∃ u w', Leaves (exec (.pmctl h sd cid ctl) s) s i u w' ∧ w'.getS sd.toNat = 0 ∧
            ∀ k ∈ r.keys, Tab.getD (u.bankOf r).ctl k 0 = x) ∧
        (y.toNat < 2 ^ 48 → r.keys.length = 1 →
          ∃ u w', Leaves (exec (.pmctlVal h sd cid ctl) s) s i u w' ∧ w'.getS sd.toNat = 0 ∧
            u.cntRead r = slice y 0 48))) ∧
    (IssueReady s h 8 i →
      exec (.mark h .beg tag) s = .next (moved { i.w with mark := some (s.clock, tag) }) ∧
      exec (.mark h .ev tag) s = .next ((s.countSp (spOf i.k) 7 1).setWave i.k (i.step i.w)) ∧
      (∀ t, i.w.mark = some (t, tag) →
        exec (.mark h .fin tag) s = .next ((s.sample (coreOf i.k) vd 3 (s.clock - t) tag).setWave i.k
          (i.step { i.w with mark := none }))) ∧
      (∀ t g, (i.w.mark = none ∨ i.w.mark = some (t, g)) → g ≠ tag → exec (.mark h .fin tag) s = .next (moved i.w)))

/-! ## Barriers, counters, queues and stages (R43 to R53, R261 to R279) -/

/-- R263 to R266: BARINIT writes a fresh object; the last thread of a wave to reach BARARV makes one arrival with its
pending count and gets the phase it awaits, and the last one to reach BAR makes it and parks unless that completes the
phase; BARWT passes where the phase is past and parks where it is not, and changes no other wave where none is parked on the
object for a phase that is past.
Model choices in it: log entry 37. -/
def Obligations.Barriers : Prop :=
  ∀ (s : State) (h : Hdr) (m : MemRef) (n : Src) (cnt : Option Src) (sd : Option (BitVec 6)) (i : Iss) (g : Workgroup),
    let e := ((i.rd s true).saddr m i.lane).toNat
    let b := s.barGet g e
    let k := ((i.rd s true).w32 n i.lane).toNat
    let q := match cnt with | some x => ((i.rd s true).w32 x i.lane).toNat | none => 0
    let next : BarObj :=
      if b.arrived + 1 = b.expect ∧ b.pend + q = 0 then { b with arrived := 0, phase := !b.phase, pend := b.pend + q }
      else { b with arrived := b.arrived + 1, pend := b.pend + q }
    let good := b.valid = true ∧ b.err = false ∧ b.zero = 0
    i.part = i.act → i.act ≠ 0 → s.wgOf i.w = some g → s.scratchFault g e 16 16 true false = none →
    (IssueReady s h (instrLen [m.base, n, m.off]) i → i.w.blocked = false → i.w.refused = [] → 1 ≤ k → k ≤ 65535 →
      b.valid = false →
      ∃ u w', exec (.barinit h m n) s = .next u ∧ Tab.get? u.waves i.k = some w' ∧
        u.barGet g e = ⟨k, 0, false, true, 0, false, 0⟩ ∧ (∀ l, i.act.has l = true → w'.pcOf l = i.next) ∧
        w'.v = i.w.v ∧ w'.s = i.w.s) ∧
    (IssueReady s h (instrLen ([m.base, m.off] ++ cnt.toList)) i → good → b.arrived ≠ b.expect → b.arrived < 65535 →
      b.pend + q ≤ 2 ^ 39 - 1 → s.outstanding i.k = false → i.act = i.w.alive → i.w.gather = 0 → i.w.arrived = false →
      (ChecksPass s i 0 →
        ∃ u w', exec (.bararv h sd m cnt) s = .next u ∧ Tab.get? u.waves i.k = some w' ∧ u.barGet g e = next ∧
          (∀ l, i.act.has l = true → w'.pcOf l = i.next ∧ w'.parked.has l = false) ∧
          (∀ r, sd = some r → w'.getS r.toNat = if b.phase then 1 else 0) ∧ w'.v = i.w.v) ∧
      (ChecksPass s i i.act →
        ∃ u w', exec (.bar h m cnt) s = .next u ∧ Tab.get? u.waves i.k = some w' ∧ u.barGet g e = next ∧
          (∀ l, i.act.has l = true →
            if next.phase = b.phase then w'.reasonOf l = 6 ∧ w'.pcOf l = i.pc
            else w'.parked.has l = false ∧ w'.pcOf l = i.next) ∧
          w'.v = i.w.v ∧ w'.s = i.w.s)) ∧
    (IssueReady s h (instrLen [m.base, n, m.off]) i → good → ChecksPass s i i.act → s.barResume i.w.wg e = s →
      let p := ((i.rd s true).w32 n i.lane).getLsbD 0
      (b.phase ≠ p →
        exec (.barwt h m n) s = .next ((s.setWave i.k { i.step i.w with arrived := false }).endRun i.k)) ∧
      (b.phase = p →
        ∃ w', exec (.barwt h m n) s = .next ((s.setWave i.k w').endRun i.k) ∧
          ∀ l, i.act.has l = true → w'.reasonOf l = 6 ∧ w'.pcOf l = i.w.pcOf l))

/-- R269 to R271: CNTADD adds to each lane's 64-bit counter, lane after lane; CNTWT passes in the lanes whose counter has
reached its target, parks the others with reason 3, and with `.try` gives a predicate instead.
Model choices in it: log entry 36. -/
def Obligations.Counters : Prop :=
  ∀ (s : State) (h : Hdr) (m : MemRef) (a : Src) (w : Bool) (tryPd : Option (BitVec 3)) (scope : Option Scope) (i : Iss)
    (g : Workgroup),
    let sc := scalarFields [m.base, a, m.off]
    let rd := i.rd s sc
    let e (l : Nat) : Nat := (rd.saddr m l).toNat
    let add (l : Nat) : Nat := if w then (rd.val a .w64 l).toNat else (rd.w32 a l).toNat
    let new (l : Nat) (old : List Byte) : List Byte := leBytes (leNat old + add l) 8
    let tgt (l : Nat) : Nat := (rd.val a .w64 l).toNat
    IssueReady s h (instrLen [m.base, a, m.off]) i → i.part ≠ 0 → s.wgOf i.w = some g →
    (Settled s i → (∀ l ∈ i.who sc, s.scratchFault g (e l) 8 8 true true = none) →
      ∃ u w', Leaves (exec (.cntadd h m a w true scope) s) s i u w' ∧ RunDone i none 0 none w' ∧
        (∀ x, cellGet u.scratch x =
          (scratchTurns new g 8 (cellGet s.scratch) ((i.who sc).map (fun l => (l, e l)))).2 x) ∧
        SameGlobal s u ∧ ∀ q, u.feOf q = s.feOf q) ∧
    (Settled s i → i.w.rejected = [] → (∀ e ∈ s.vds, e.2.dlog = false) →
      ∀ ok t, Reached s i sc (rd.gaddr m) 8 8 true ok t → (∀ e ∈ ok, e.2.length = 1) →
      ∃ u w', Leaves (exec (.cntadd h m a w false scope) s) s i u w' ∧ RunDone i none 0 none w' ∧
        (∀ l : Loc, l.space ≠ .fab → u.readLoc l =
          (turnsOf new 8 t.readLoc (ok.map (fun e => (e.1, (e.2.headD ⟨⟨.dev, 0⟩, 0, 0⟩).loc)))).2 l) ∧
        SameScratch s u) ∧
    (s.outstanding i.k = false → (∀ l ∈ i.who sc, s.scratchFault g (e l) 8 8 false true = none) →
      let there (l : Nat) : Bool := decide (tgt l ≤ leNat (scratchIn (cellGet s.scratch) g (e l) 8))
      ((tryPd.isSome = true ∨ ∀ l ∈ i.who sc, there l = true) →
        ∃ u w', Leaves (exec (.cntwt h m a true tryPd scope) s) s i u w' ∧ RunDone i none 0 tryPd w' ∧
          (∀ p l, tryPd = some p → p ≠ 7 → sc = false → i.part.has l = true → (w'.getP p.toNat).has l = there l) ∧
          SameGlobal s u ∧ SameScratch s u) ∧
      (tryPd = none → sc = false →
        ∃ u w', Leaves (exec (.cntwt h m a true none scope) s) s i u w' ∧
          (∀ l, i.part.has l = true → there l = false → w'.reasonOf l = 3 ∧ w'.pcOf l = i.w.pcOf l) ∧
          (∀ l, i.part.has l = true → there l = true → i.w.parked.has l = false →
            w'.parked.has l = false ∧ w'.pcOf l = i.next))) ∧
    (i.w.rejected = [] → i.w.inbuf = [] → ∀ ok t, Reached s i sc (rd.gaddr m) 8 8 false ok t →
      (∀ e ∈ ok, e.2.length = 1) →
      (tryPd.isSome = true ∨ ∀ e ∈ ok, ∀ p ∈ e.2, tgt e.1 ≤ leNat (bytesIn t.readLoc p.loc 8)) →
      (∀ e ∈ ok, ∀ p ∈ e.2, p.len = 8) →
      ∃ u w', Leaves (exec (.cntwt h m a false tryPd scope) s) s i u w' ∧ RunDone i none 0 tryPd w' ∧
        SameGlobal t u ∧ SameScratch s u)

/-- R272 to R276: QINIT sets a queue up empty; QPUSH reserves the next slot and takes the element's bytes, QPOP hands over
the oldest element, one part of it to each lane where the queue is per lane, and each waits (or, with `.try`, says so) where the
queue is full or empty; on an empty queue whose producer has closed QPOP ends without an element; QSTAT gives its status.
Model choices in it: log entry 38. -/
def Obligations.Queues : Prop :=
  ∀ (s : State) (h : Hdr) (m : MemRef) (a : Src) (q : BitVec 4) (sd : BitVec 6) (tryPd : Option (BitVec 3)) (i : Iss)
    (g : Workgroup) (x : Queue),
    let sc := scalarFields [m.base, m.off]
    let c := (i.rd s true).val a .w64 i.lane
    let e (l : Nat) : Nat := ((i.rd s sc).saddr m l).toNat
    let n := qElem x.ctl
    let holds (b : Bool) (w' : Wave) : Prop :=
      ∀ p l, tryPd = some p → p ≠ 7 → i.part.has l = true → (w'.getP p.toNat).has l = b
    let queueIs (u : State) (y : Queue) : Prop := ∃ g', Tab.get? u.wgs i.w.wg = some g' ∧ Tab.get? g'.queues q.toNat = some y
    let passes (push : Bool) : Prop := i.queueCheck s g q.toNat push sc m = .inl x
    i.part ≠ 0 → s.wgOf i.w = some g →
    (IssueReady s h 8 i →
      (qWordOk c g.salloc = true → slice c 35 6 = (0 : BitVec 6) → s.nqueue g ≤ q.toNat →
        (∀ e ∈ s.wavesOf i.w.wg, ∀ l, e.2.parked.has l = true → Tab.get? e.2.parkArg l ≠ some (.queue q.toNat)) →
        ∃ u w', Leaves (exec (.qinit h a q) s) s i u w' ∧ RunDone i none 0 none w' ∧ queueIs u ⟨c, 0, 0, 0, 0, []⟩) ∧
      (Tab.get? g.queues q.toNat = some x →
        ∃ u w', Leaves (exec (.qstat h sd q) s) s i u w' ∧ RunDone i (some (.s sd)) 1 none w' ∧
          w'.getS sd.toNat = queueStatus g x) ∧
      (Tab.get? g.queues q.toNat = none →
        ∃ u w', Leaves (exec (.qstat h sd q) s) s i u w' ∧ RunDone i (some (.s sd)) 1 none w' ∧ w'.getS sd.toNat = 0)) ∧
    (IssueReady s h (instrLen [m.base, m.off]) i →
      (passes true → Settled s i → x.reserved - x.head ≠ qDepth x.ctl →
        g.onNotify (qSlot x.ctl x.reserved) (qSlotSize x.ctl) = false →
        let bytes := if qLane x.ctl then (List.range 32).flatMap (fun l =>
            if i.part.has l then scratchIn (cellGet s.scratch) g (e l) n else List.replicate n 0)
          else scratchIn (cellGet s.scratch) g (e i.lane) n
        ∃ u w', Leaves (exec (.qpush h m q tryPd) s) s i u w' ∧ RunDone i none 0 tryPd w' ∧ holds true w' ∧
          queueIs u { x with reserved := x.reserved + 1, copies := x.copies ++ [(x.reserved, bytes)] } ∧
          SameGlobal s u ∧ SameScratch s u) ∧
      (passes true → Settled s i → x.reserved - x.head = qDepth x.ctl →
        (tryPd.isSome = true →
          ∃ u w', Leaves (exec (.qpush h m q tryPd) s) s i u w' ∧ RunDone i none 0 tryPd w' ∧ holds false w') ∧
        (tryPd = none → ∃ u w', Leaves (exec (.qpush h m q tryPd) s) s i u w' ∧
          ∀ l, i.part.has l = true → w'.reasonOf l = 5 ∧ w'.pcOf l = i.w.pcOf l)) ∧
      (passes false → s.outstanding i.k = false → x.avail ≠ 0 →
        let from_ (l : Nat) : Nat := qSlot x.ctl (x.head + x.popping) + (if qLane x.ctl then l * n else 0)
        let after := (if qLane x.ctl then i.part.lanes else [i.lane]).foldl
          (fun f l => scratchWith f g (e l) (scratchIn (cellGet s.scratch) g (from_ l) n)) (cellGet s.scratch)
        ∃ u w', Leaves (exec (.qpop h m q tryPd) s) s i u w' ∧ RunDone i none 0 tryPd w' ∧ holds true w' ∧
          queueIs u { x with popping := x.popping + 1 } ∧ (∀ y, cellGet u.scratch y = after y) ∧ SameGlobal s u) ∧
      (passes false → s.outstanding i.k = false → x.avail = 0 →
        (tryPd.isSome = true ∨ (g.closed.contains (qProd x.ctl) && x.copies.isEmpty) = true) →
        ∃ u w', Leaves (exec (.qpop h m q tryPd) s) s i u w' ∧ RunDone i none 0 tryPd w' ∧ holds false w' ∧ queueIs u x ∧
          SameGlobal s u ∧ SameScratch s u) ∧
      (passes false → s.outstanding i.k = false → x.avail = 0 → tryPd = none →
        (g.closed.contains (qProd x.ctl) && x.copies.isEmpty) = false →
        ∃ u w', Leaves (exec (.qpop h m q tryPd) s) s i u w' ∧
          ∀ l, i.part.has l = true → w'.reasonOf l = 4 ∧ w'.pcOf l = i.w.pcOf l))

/-- R43 to R47, R90, R278, R279: SNEXT in a wave whose threads all stand at it takes the wave to the highest stage that is
eligible once the waves that wait already have been examined, with s0 to s7 kept, everything else of the register state
zero and every latch reading as zero; GSET opens the lowest free guard slot; GRES resolves an
open one.
Model choices in it: log entry 38. -/
def Obligations.StagesAndGuards : Prop :=
  ∀ (s : State) (h : Hdr) (a : Src) (sd : BitVec 6) (i : Iss) (g : Workgroup), i.part ≠ 0 → s.wgOf i.w = some g →
    (IssueReady s h 8 i → i.part = i.act → i.w.blocked = false → i.act = i.w.alive →
      let w₀ : Wave := { i.w with waiting := i.w.waiting ||| i.act, inStage := false, busy := .stage }
      let s₁ := s.restage i.w.wg
      ∀ r st, Tab.get? s₁.waves i.k = some i.w → Tab.get? s₁.wgs i.w.wg = some g → s₁.rcdOf g = some r → st ≤ r.nstage →
        (s₁.setWave i.k w₀).eligible i.w.wg g r st = true →
        (∀ q, st < q → q ≤ r.nstage → (s₁.setWave i.k w₀).eligible i.w.wg g r q = false) →
        ∃ u w', Leaves (exec (.snext h false) s) s₁ i u w' ∧ w'.stage = st ∧ w'.inStage = true ∧
          (∀ l, i.act.has l = true → w'.pcOf l = r.stageEntry st) ∧ w'.waiting = i.w.waiting &&& ~~~i.act ∧
          (∀ n, w'.getS n = if n < 8 then i.w.getS n else 0) ∧ (∀ n l, w'.getV n l = 0) ∧
          (∀ n, n < 7 → w'.getP n = 0) ∧ (∀ n l, w'.latchVal n l = some 0)) ∧
    (IssueReady s h 8 i →
      (g.freeGuard = none → exec (.gset h sd) s =
        .next ((s.setWave i.k (i.step (i.w.setS sd.toNat 0xFFFFFFFF))).endRun i.k)) ∧
      (∀ n, n < 8 → g.guardSt n = .free → (∀ q, q < n → g.guardSt q ≠ .free) →
        ∃ u w' g', Leaves (exec (.gset h sd) s) s i u w' ∧ w'.getS sd.toNat = BitVec.ofNat 32 n ∧
          Tab.get? u.wgs i.w.wg = some g' ∧ g'.guardSt n = .opened ∧ ∀ q, q ≠ n → g'.guardSt q = g.guardSt q)) ∧
    (IssueReady s h (instrLen [a]) i →
      let n := ((i.rd s true).w32 a i.lane).toNat
      n < 8 → g.guardSt n = .opened →
      (∃ u w' g', Leaves (exec (.gres h a true) s) s i u w' ∧ Tab.get? u.wgs i.w.wg = some g' ∧
        g'.guardSt n = (if (Tab.getD g.guards n ⟨.free, 0⟩).count = 0 then .free else .yes) ∧
        ∀ q, q ≠ n → g'.guardSt q = g.guardSt q) ∧
      (∃ u w', exec (.gres h a false) s = .next u ∧ Tab.get? u.waves i.k = some w' ∧
        (∀ l, w'.pcOf l = if i.act.has l then i.next else i.w.pcOf l) ∧
        ∀ c, g.card? c.seq = some c → c.guard = n + 1 → c.final = false →
          ∃ c', (u.card? ⟨i.w.wg, c.seq⟩).map Prod.snd = some c' ∧ c'.st = .discarded))

/-! ## Job instructions (R283, R290 to R309, R316 to R318) -/

/-- R290, R294, R295, R301: the copy instructions publish a card made of their header, their descriptor's place and the
footprint of the descriptor, and give its sequence number.
Model choices in it: log entry 40. -/
def Obligations.CopyJobs : Prop :=
  ∀ (s : State) (h : Hdr) (desc : Src) (j : JobOps) (i : Iss) (g : Workgroup) (d : CopyDesc) (x : List Byte),
    let off := ((i.rd s true).w32 desc i.lane).toNat
    let sc := s.scopeOf i.w j.scope
    let card (kind : Nat) : List Byte :=
      Iss.jobHeader { i with w := sc.2 } s j kind j.g.toNat sc.1 ++
        (leBytes (off + (if kind = 4 then g.tag else 0) * 2 ^ 112) 16 ++
          (if kind = 2 then s.scratchRead g (off + 64 + 16 * d.dims.length) 64 else [])) ++
        (d.footprint kind off).flatMap Range.bytes
    let done (kind : Nat) (q : Instr) : Prop :=
      d.ok kind g.gangsz = true → (kind = 2 → off + 64 + 16 * d.dims.length + 64 ≤ g.salloc) → JobReady s i g j (card kind) →
      ∃ u w', Leaves (exec q s) s i u w' ∧ RunDone i (j.sd.map .s) 1 none w' ∧ Published s u i.w.wg g (card kind) ∧
        (∀ r, j.sd = some r → w'.getS r.toNat = BitVec.ofNat 32 (s.pub g)) ∧ SameGlobal s u
    IssueReady s h (instrLen [desc, j.inc]) i → off < 2 ^ 19 → s.descBytes g off = some x → CopyDesc.of x = d →
    done 1 (.jcopy h desc j) ∧ done 2 (.jgen h desc j) ∧ done 3 (.jfill h desc j) ∧ done 4 (.jmcast h desc j)

/-- R152, R290, R316 to R318: a matrix, attention or rotation instruction whose format word is one in every participating
lane and legal publishes a card of its header, the word, the generator's state where it draws, and its descriptor block.
Model choices in it: log entries 40 and 111. -/
def Obligations.EngineJobs : Prop :=
  ∀ (s : State) (h : Hdr) (fw : Src) (db : BitVec 4) (j : JobOps) (i : Iss) (g : Workgroup),
    let rd := i.rd s false
    let x := rd.w32 fw i.lane
    let f := FWord.of x
    let sc := s.scopeOf i.w j.scope
    let z := i.w.seedOf i.lane
    let front (kind n : Nat) (seed : Bool) : List Byte :=
      Iss.jobHeader { i with w := sc.2 } s j kind j.g.toNat sc.1 ++
        bodyBytes (x.toNat :: (if seed ∧ f.rnd = 5 then (nextSeed z).toNat else 0) ::
          (List.range n).map (fun q => (i.w.getS (4 * db.toNat + q)).toNat))
    let done (q : Instr) (kind n : Nat) (seed legal : Bool) (ranges : List Range) : Prop :=
      legal = true → JobReady s i g j (front kind n seed ++ ranges.flatMap Range.bytes) →
      ∃ u w', Leaves (exec q s) s i u w' ∧ Published s u i.w.wg g (front kind n seed ++ ranges.flatMap Range.bytes) ∧
        (∀ r, j.sd = some r → w'.getS r.toNat = BitVec.ofNat 32 (s.pub g)) ∧
        (∀ r, j.sd ≠ some r → w'.getS r.toNat = i.w.getS r.toNat) ∧ w'.v = i.w.v ∧
        (∀ l, w'.seedOf l = if seed ∧ f.rnd = 5 ∧ l = i.lane then nextSeed z else i.w.seedOf l) ∧
        (∀ l, w'.pcOf l = if i.act.has l then i.next else i.w.pcOf l) ∧ SameGlobal s u
    IssueReady s h (instrLen [fw, j.inc]) i → (∀ l, i.part.has l = true → rd.w32 fw l = x) →
    done (.jmma h fw db j) 0x10 10 true (mmaWord f) (mmaFoot (front 0x10 10 true) f) ∧
    done (.jacc h fw db j) 0x11 4 true (accWord f (accOp (front 0x11 4 true))) (accFoot (front 0x11 4 true) f) ∧
    done (.jmv h fw db j) 0x12 10 true (mvWord f) (mvFoot (front 0x12 10 true) f) ∧
    done (.jattn h fw db j) 0x18 10 true (attnWord f) (attnRanges (AttnDesc.of (front 0x18 10 true)) f) ∧
    done (.jrot h fw db j) 0x20 8 false (rotWord x (RotDesc.of (front 0x20 8 false)).cons)
      (rotFoot (RotDesc.of (front 0x20 8 false)))

/-- R291, R307, R308: JPUB publishes the cards that a wave wrote into the ring; JCANCEL answers 2 for a card that is unknown
or final, 1 for a running one, which keeps running with its cancellation noted, and 0 for the others, which become final as
cancelled; JSTAT gives the status word, JSTAT.ring the admitted
cards and the free entries.
Model choices in it: log entries 40 and 41. -/
def Obligations.RingInstructions : Prop :=
  ∀ (s : State) (h : Hdr) (a : Src) (sd : BitVec 6) (i : Iss) (g : Workgroup),
    let k := (i.rd s true).w32 a i.lane
    let givesAnd (q : Instr) (x : Word) (p : State → Prop) : Prop :=
      ∃ u w', exec q s = .next u ∧ Tab.get? u.waves i.k = some w' ∧ RunDone i (some (.s sd)) 1 none w' ∧ w'.getS sd.toNat = x ∧
        p u
    let gives (q : Instr) (x : Word) : Prop := givesAnd q x (fun _ => True)
    i.part ≠ 0 → i.w.blocked = false → s.wgOf i.w = some g →
    (IssueReady s h 8 i → gives (.jstatRing h sd)
      (BitVec.ofNat 32 ((g.cards.filter (fun c => !c.final && decide (c.st ≠ .published))).length * 65536 + s.ringFree g))) ∧
    (IssueReady s h (instrLen [a]) i →
      (k = 0 → exec (.jpub h a) s = .next ((s.setWave i.k (i.step i.w)).endRun i.k)) ∧
      (∀ l, k ≠ 0 → k.toNat ≤ s.ringFree g → s.parseCards g k.toNat (s.pub g) k.toNat = some l → Settled s i →
        g.jnotify % 16 = 0 →
        (∀ bs ∈ l, cGuard bs = 0 ∨ g.guardSt (cGuard bs - 1) = .opened ∨ g.guardSt (cGuard bs - 1) = .yes) →
        ∃ u w' g', exec (.jpub h a) s = .next u ∧ Tab.get? u.waves i.k = some w' ∧ RunDone i none 0 none w' ∧
          Tab.get? u.wgs i.w.wg = some g' ∧ u.pub g' = (s.pub g + k.toNat) % 2 ^ 64 ∧
          (∀ bs ∈ l, ∃ c ∈ g'.cards, c.bytes = bs ∧ c.st = .published) ∧ SameGlobal s u) ∧
      (s.findCard g k = none → gives (.jcancel h sd a) 2 ∧ gives (.jstat h sd a) 0xFFFFFFFF) ∧
      (∀ c, s.findCard g k = some c →
        gives (.jstat h sd a) (BitVec.ofNat 32 c.status) ∧
        (c.final = true → gives (.jcancel h sd a) 2) ∧
        (g.card? c.seq = some c →
          let cardIs (p : Card → Prop) (u : State) : Prop := ∃ c', (u.card? ⟨i.w.wg, c.seq⟩).map Prod.snd = some c' ∧ p c'
          (c.st = .running → givesAnd (.jcancel h sd a) 1 (cardIs (fun c' => c'.st = .running ∧ c'.cancel = true))) ∧
          (c.final = false → c.st ≠ .running → givesAnd (.jcancel h sd a) 0 (cardIs (fun c' => c'.st = .cancelled))))))

/-! ## Collective branches (R360 to R384) -/

/-- R365, R367, R368, R371 to R376: CJOIN gives the lowest free position or the reason why none; CLEAVE leaves the group;
CBR and CBRW vote and then, with a journal area and a hint, go on speculatively to the predicted side, else wait for the
round; outside a group they raise CONSLOST; CSYNC and CSTAT give the last result and the state of a group.
Model choices in it: log entries 26 and 49. -/
def Obligations.CollectiveInstructions : Prop :=
  ∀ (s : State) (h : Hdr) (sd dd : BitVec 6) (n : Src) (mode : CMode) (hint : CHint) (ps : BitVec 3) (pn : Bool)
    (off : BitVec 14) (site : BitVec 16) (i : Iss),
    let moved (w : Wave) : State := (s.setWave i.k (i.step w)).endRun i.k
    let k := ((i.rd s true).w32 n i.lane).toNat
    let vd := (s.agentOf i.k i.w 0).vd
    (IssueReady s h (instrLen [n]) i → i.part ≠ 0 →
      (i.w.member ≠ none → exec (.cjoin h sd n) s = .next (moved (i.w.setS sd.toNat 0xFFFFFFFD))) ∧
      (i.w.member = none → (64 ≤ k ∨ Tab.get? s.cgs k = none) →
        exec (.cjoin h sd n) s = .next (moved (i.w.setS sd.toNat 0xFFFFFFFE))) ∧
      (∀ c, i.w.member = none → k < 64 → Tab.get? s.cgs k = some c →
        ((c.deleted = true ∨ c.owner ≠ vd ∨ c.lost = true) →
          exec (.cjoin h sd n) s = .next (moved (i.w.setS sd.toNat 0xFFFFFFFE))) ∧
        (c.deleted = false → c.owner = vd → c.lost = false →
          ((∀ p, p < c.lpos → p ∈ c.joined) → exec (.cjoin h sd n) s = .next (moved (i.w.setS sd.toNat 0xFFFFFFFF))) ∧
          (∀ p, p < c.lpos → p ∉ c.joined → (∀ q, q < p → q ∈ c.joined) →
            ∃ u w' c', Leaves (exec (.cjoin h sd n) s) s i u w' ∧ w'.getS sd.toNat = BitVec.ofNat 32 p ∧
              w'.member = some ⟨k, p, some (nextRound c.round)⟩ ∧ w'.last = 3 ∧ w'.sent = false ∧
              (∀ l, w'.pcOf l = if i.act.has l then i.next else i.w.pcOf l) ∧
              Tab.get? u.cgs k = some c' ∧ c'.joined = c.joined ++ [p]))) ∧
      (regFits (.s dd) 2 = true → ∃ u w', Leaves (exec (.cstat h dd n) s) s i u w' ∧
        (∀ l, w'.pcOf l = if i.act.has l then i.next else i.w.pcOf l) ∧
        ((64 ≤ k ∨ Tab.get? s.cgs k = none) → w'.getSw dd.toNat = 0) ∧
        (∀ c, k < 64 → Tab.get? s.cgs k = some c → c.owner = vd → c.deleted = false → c.scope < 16 →
          c.joined.length < 2 ^ 10 → c.lpos < 2 ^ 10 → c.total < 2 ^ 20 →
          let x := w'.getSw dd.toNat
          x.getLsbD 63 = true ∧ x.getLsbD 62 = c.lost ∧ (slice x 58 4 : BitVec 4).toNat = c.scope ∧
          (c.st = .collect → slice x 56 2 = (1 : BitVec 2)) ∧ (c.st = .reduce → slice x 56 2 = (2 : BitVec 2)) ∧
          slice x 40 16 = c.round ∧ (slice x 30 10 : BitVec 10).toNat = c.joined.length ∧
          (slice x 20 10 : BitVec 10).toNat = c.lpos ∧ (slice x 0 20 : BitVec 20).toNat = c.total))) ∧
    (IssueReady s h 8 i → i.part ≠ 0 →
      (i.w.member = none → exec (.cleave h) s = .next (moved i.w)) ∧
      (∀ m c, i.w.member = some m → i.w.sent = false → Tab.get? s.cgs m.grp = some c →
        ∃ u w' c', Leaves (exec (.cleave h) s) s i u w' ∧ w'.member = none ∧ w'.v = i.w.v ∧ w'.s = i.w.s ∧
          (∀ l, w'.pcOf l = if i.act.has l then i.next else i.w.pcOf l) ∧
          Tab.get? u.cgs m.grp = some c' ∧ c'.joined = c.joined.erase m.pos) ∧
      (i.w.sent = false → ∃ u w', Leaves (exec (.csync h (some sd)) s) s i u w' ∧
        w'.getS sd.toNat = (if i.w.member = none then 3 else if i.w.sm then 4 else i.w.last.setWidth 32) ∧
        (∀ l, w'.pcOf l = if i.act.has l then i.next else i.w.pcOf l))) ∧
    (IssueReady s h 16 i → i.w.blocked = false → i.act = i.w.alive →
      let lost : State := (s.takeTrap i.k ⟨0x0A, 1, i.act, i.pc, 0, [], []⟩).endRun i.k
      let vote : Bool := match mode with
        | .any => (i.part &&& i.pred ps pn) != 0
        | .all => (i.part &&& i.pred ps pn) == i.part
      let target := i.pc + 8 * off.signExtend 64
      (i.w.member = none → exec (.cbr h mode hint ps pn off site) s = .next lost ∧
        exec (.cbrw h mode ps pn off site) s = .next lost) ∧
      (∀ m, i.w.member = some m → i.w.sent = false → i.w.sited = false → (Tab.get? s.cgs m.grp).isSome = true →
        let r := m.first.getD (nextRound i.w.round)
        let voted (u : State) (w' : Wave) : Prop :=
          u.ballots = s.ballots ++ [⟨i.k, m.grp, m.pos, ⟨r, site, decide (mode = .all), vote⟩⟩] ∧
          w'.round = r ∧ w'.sent = true ∧ w'.v = i.w.v ∧ w'.s = i.w.s
        (∃ u w', Leaves (exec (.cbrw h mode ps pn off site) s) s i u w' ∧ voted u w' ∧
          w'.busy = .round (.branch i.pc target i.next) ∧ ∀ l, w'.pcOf l = i.w.pcOf l) ∧
        ∃ u w', Leaves (exec (.cbr h mode hint ps pn off site) s) s i u w' ∧ voted u w' ∧
          (s.journalOf i.w < 128 → w'.busy = .round (.branch i.pc target i.next)) ∧
          (128 ≤ s.journalOf i.w → ∃ sp, w'.spec = some sp ∧ sp.pc = i.pc ∧
            sp.taken = (match hint with | .pt => true | .pn => false | .pl => vote) ∧ sp.v = i.w.v ∧ sp.s = i.w.s ∧
            sp.p = i.w.p ∧ ∀ l, i.act.has l = true → w'.pcOf l = if sp.taken then target else i.next)))

/-- R362, R363, R369, R370, R377 to R384: a vote is counted, and the last one makes the value of a group of one device; a
value sent up is kept and one sent down resolves the round, or is kept while the round collects; a cut round starts again; a lost group abandons its round, and
so does one that stays open past its timeout; a resolved round commits or rolls back a speculation and frees a wave that
waits for it; a port whose link is lost is down.
Model choices in it: log entries 49 and 50. -/
def Obligations.CollectiveEvents : Prop :=
  ∀ (s : State),
    (∀ (k : Nat) (b : Ballot) (c : CGroup), s.ballots.find? (fun b => b.wave == k && s.ballotDue b) = some b →
      Tab.get? s.cgs b.grp = some c → c.lost = false → c.deleted = false → c.left = [] →
      let counts (c' : CGroup) : Prop := c'.st = .collect ∧ c'.round = b.vote.round ∧ Tab.get? c'.votes b.pos = some b.vote.val
      (c.st = .idle → b.vote.round = nextRound c.round → c.kept = [] → b.pos ∈ c.joined →
        ∃ u c', exec (.consensusVote k) s = .next u ∧ u.ballots = s.ballots.erase b ∧ u.waves = s.waves ∧
          Tab.get? u.cgs b.grp = some c' ∧
          ((∃ p ∈ c.joined, p ≠ b.pos) →
            counts c' ∧ c'.expected = c.joined ∧ c'.site = b.vote.site ∧ c'.mode = b.vote.mode) ∧
          ((∀ p ∈ c.joined, p = b.pos) → (∀ d ∈ c.devices, d = s.devid) →
            c'.st = .idle ∧ c'.round = b.vote.round ∧
            Tab.get? c'.results b.vote.round.toNat = some (if b.vote.val then 1 else 0, 1))) ∧
      (c.st = .collect → c.round = b.vote.round → b.vote.site = c.site → b.vote.mode = c.mode → b.pos ∈ c.expected →
        (∃ p ∈ c.expected, p ≠ b.pos ∧ Tab.get? c.votes p = none) →
        ∃ u c', exec (.consensusVote k) s = .next u ∧ u.ballots = s.ballots.erase b ∧ u.waves = s.waves ∧
          Tab.get? u.cgs b.grp = some c' ∧ counts c')) ∧
    (∀ (f : CFlit) (c : CGroup), s.flitOk f = true → Tab.get? s.cgs f.grp.toNat = some c → c.round = f.round →
      c.left = [] →
      let after (j : Instr) (p : CGroup → Prop) : Prop :=
        ∃ u c', exec j s = .next u ∧ Tab.get? u.cgs f.grp.toNat = some c' ∧ p c'
      (c.st = .reduce → c.lost = false → c.deleted = false → f.site = c.site → f.mode = c.mode →
        (f.kind = 0 → after (.consensusUp f) (fun c' => c'.st = .reduce ∧ (f.sdev.toNat, f.val == 1) ∈ c'.upgot)) ∧
        (f.kind = 1 → after (.consensusDown f) (fun c' => c'.st = .idle ∧
          Tab.get? c'.results c.round.toNat = some (f.val.toNat, c.votes.length)))) ∧
      (f.kind = 1 → c.st = .collect → c.lost = false → c.deleted = false → f.site = c.site → f.mode = c.mode →
        after (.consensusDown f) (fun c' => c' = { c with kept := c.kept ++ [f] })) ∧
      (f.kind = 2 → c.st = .reduce → c.lost = false → c.deleted = false → after (.consensusRestart f) (fun c' => c' = { c with step := none, upgot := [] })) ∧
      (f.kind = 3 → c.lost = false → after (.consensusMemberLost f) (fun c' => c'.lost = true ∧ c'.st = .idle ∧
        (c.st ≠ .idle → Tab.get? c'.results c.round.toNat = some (2, c.votes.length))))) ∧
    (∀ (n : Nat) (c : CGroup), Tab.get? s.cgs n = some c → c.left = [] →
      (∀ ph : Nat, ∃ u, exec (.consensusPhase ph) s = .next u ∧ u.phase = ph % 256 ∧
        (c.st ≠ .reduce → Tab.get? u.cgs n = some c) ∧
        (c.st = .reduce → c.parent = none → c.step ≠ none → (∀ d ∈ c.children, ∃ b, (d, b) ∈ c.upgot) →
          ∃ c', Tab.get? u.cgs n = some c' ∧ c'.st = .idle ∧ Tab.get? c'.results c.round.toNat =
            some (if combineVotes c.mode (c.value :: c.upgot.map Prod.snd) then 1 else 0, c.votes.length))) ∧
      (c.st ≠ .idle → c.openAt + c.timeout * 1300000 ≤ s.clock →
        ∃ u c', exec (.consensusRoundTimeout n) s = .next u ∧ Tab.get? u.cgs n = some c' ∧ c'.st = .idle ∧ c'.lost = c.lost ∧
          Tab.get? c'.results c.round.toNat = some (2, c.votes.length))) ∧
    (∀ (k : Nat) (w : Wave) (r : Nat), Tab.get? s.waves k = some w → s.roundResult w = some r →
      (∀ sp g, w.spec = some sp → w.sent = true → s.wgOf w = some g →
        let predicted := if sp.taken then 1 else 0
        (r = predicted → sp.trap = none → s.recallPlaces true sp.places = none →
          ∃ u w', exec (.specCommit k) s = .next u ∧ Tab.get? u.waves k = some w' ∧ w'.spec = none ∧ w'.sent = false ∧
            w'.last = BitVec.ofNat 2 r ∧ w'.v = w.v ∧ w'.s = w.s ∧ w'.p = w.p ∧ w'.pc = w.pc ∧
            (sp.stores = [] → SameGlobal s u ∧ SameScratch s u) ∧
            (∀ x, sp.stores = [x] → x.space = 0 → ∀ j b, x.bytes[j]? = some b → cellGet u.scratch (x.addr + j) = b)) ∧
        (r < 2 → r ≠ predicted →
          ∃ u w', exec (.specRollback k) s = .next u ∧ Tab.get? u.waves k = some w' ∧ w'.spec = none ∧
            w'.last = BitVec.ofNat 2 r ∧ w'.v = sp.v ∧ w'.s = sp.s ∧ w'.p = sp.p ∧ w'.flags = sp.flags ∧ w'.seed = sp.seed ∧
            (∀ l, w.alive.has l = true → w'.pcOf l = if sp.taken then sp.fall else sp.target) ∧
            (sp.guard = none → SameGlobal s u ∧ SameScratch s u))) ∧
      (∀ pc t f, w.busy = .round (.branch pc t f) → r < 2 →
        ∃ u w', exec (.cbrwResolve k) s = .next u ∧ Tab.get? u.waves k = some w' ∧ w'.busy = .no ∧ w'.sent = false ∧
          (∀ l, w.alive.has l = true → w'.pcOf l = if r = 1 then t else f) ∧ w'.v = w.v ∧ w'.s = w.s) ∧
      (∀ n lanes nx, w.busy = .round (.sync (some n) lanes nx) →
        ∃ u w', exec (.cbrwResolve k) s = .next u ∧ Tab.get? u.waves k = some w' ∧ w'.busy = .no ∧
          (∀ l, w'.pcOf l = if lanes.has l then nx else w.pcOf l) ∧ w'.getS n = BitVec.ofNat 32 (if r = 3 then 4 else r)) ∧
      (∀ lanes nx, w.busy = .round (.leave lanes nx) →
        ∃ u w', exec (.cbrwResolve k) s = .next u ∧ Tab.get? u.waves k = some w' ∧ w'.busy = .no ∧ w'.member = none ∧
          ∀ l, w'.pcOf l = if lanes.has l then nx else w.pcOf l)) ∧
    (∀ p : Nat, p < 16 → ∃ u, exec (.portLinkLoss p) s = .next u ∧
      (∃ x, Tab.get? u.ports p = some x ∧ x.up = false) ∧
      ∀ n c, Tab.get? s.cgs n = some c → c.st ≠ .reduce → Tab.get? u.cgs n = some c)

/-! ## Key-value blocks (R397 to R409) -/

/-- R400 to R407: a key-value instruction hands its operation to the home engine of its pool and waits; the engine performs
the oldest operation whose pool is not busy and writes its result, raises KVERR with the structure's address and the code,
or starts a copy, at whose end the wave gets 0.
Model choices in it: log entries 46 and 130. -/
def Obligations.KeyValueBlocks : Prop :=
  ∀ (s : State),
    (∀ (h : Hdr) (sd : BitVec 6) (a b c : Src) (rel : Bool) (scope : Option Scope) (i : Iss),
      let rd := i.rd s true
      let g := s.agentOf i.k i.w 4
      let pair (x : Src) : Nat := (rd.val x .w64 i.lane).toNat
      let word (x : Src) : Nat := (rd.w32 x i.lane).toNat
      let asks (j : Instr) (len : Nat) (pool : Nat) (ask : KvAsk) : Prop :=
        IssueReady s h len i → i.part ≠ 0 → Settled s i →
        let die := s.kvDie g pool
        ∃ u w', Leaves (exec j s) s i u w' ∧ w'.busy = .kv ∧ w'.pc = i.w.pc ∧ w'.v = i.w.v ∧ w'.s = i.w.s ∧
          Tab.getD u.kvops die [] = Tab.getD s.kvops die [] ++ [⟨i.k, i.w.wg, sd.toNat, i.part, i.pc, i.next, pool, ask, none⟩] ∧
          SameGlobal s u ∧ SameScratch s u
      (word c % 16 = 0 → asks (.kvapp h sd a b c scope) (instrLen [a, b, c]) (s.tabPool g (pair a)) (.app (pair a) (word b) (word c))) ∧
      asks (.kvref h sd a b rel scope) (instrLen [a, b]) (pair a) (.ref (pair a) (rd.val b .w64 i.lane) rel) ∧
      asks (.kvdem h sd a b rel scope) (instrLen [a, b]) (s.tabPool g (pair a)) (.dem (pair a) (word b) rel) ∧
      asks (.kvlook h sd a b scope) (instrLen [a, b]) (s.tabPool g (pair a)) (.look (pair a) (word b)) ∧
      asks (.kvfork h sd a b scope) (instrLen [a, b]) (s.tabPool g (pair a)) (.fork (pair a) (pair b))) ∧
    (∀ (die : Nat) (op : KvOp) (rest : List KvOp) (wg : Workgroup) (t : State) (r : KvRes),
      let g : Agent := op.agent wg
      let aim : KvOp := s.kvAimed op
      let s₀ : State := { s with kvops := Tab.set [] s.kvops die rest }
      Tab.getD s.kvops die [] = op :: rest → s.kvHeld die op = false → s.kvHome op = some wg →
      (s₀.kvDie g aim.pool ≠ die → ∃ u, exec (.kvHomeOperation die) s = .next u ∧ u.waves = s.waves ∧
        Tab.getD u.kvops die [] = rest ∧
        Tab.getD u.kvops (s₀.kvDie g aim.pool) [] = Tab.getD s.kvops (s₀.kvDie g aim.pool) [] ++ [aim]) ∧
      (s₀.kvDie g aim.pool = die → s₀.kvRun g wg aim = (r, t) →
      (∀ x w, r = .done x → t.kvWave aim = some w →
        ∃ u w', exec (.kvHomeOperation die) s = .next u ∧ Tab.get? u.waves op.wave = some w' ∧ w'.busy = .no ∧
          (∀ l, w'.pcOf l = if w.runnable.has l = true ∧ w.pcOf l = op.pc then op.next else w.pcOf l) ∧
          (∀ a j, op.ask = .look a j → w'.getSw op.sd = BitVec.ofNat 64 x) ∧
          ((∀ a j, op.ask ≠ .look a j) → w'.getS op.sd = BitVec.ofNat 32 x)) ∧
      (∀ a code w, r = .err a code → t.kvWave aim = some w →
        exec (.kvHomeOperation die) s = .next ((t.setWave op.wave { w with busy := .no }).raise op.wave
          ⟨0x13, BitVec.ofNat 8 code, op.mask, op.pc, if op.mask = 0 then 0 else BitVec.ofNat 64 (a + code),
            op.mask.lanes.map (fun l => (l, BitVec.ofNat 64 (a + code))), []⟩)) ∧
      (∀ e b tier, r = .copy e b tier → ∃ u, exec (.kvHomeOperation die) s = .next u ∧
        Tab.getD u.kvcopies die [] = Tab.getD t.kvcopies die [] ++ [⟨aim, e, b, tier⟩]))) ∧
    (∀ (g : Agent) (a : Nat) (ent : BitVec 64) (t u : State),
      let p := t.poolAt g a
      let e := KvEntry.of ent.toNat
      let n := u.kvCountAt g p e.tier e.block
      poolAddr a 128 = true → s.kvNeed g a [(a, 128, false)] = (none, t) → p.ok = true → e.v = true → e.block < p.nblk e.tier →
      t.kvNeed g a [(p.countAt e.tier e.block, 2, true)] = (none, u) →
      (n < 65535 → s.kvRef g a ent false = (.done (n + 1), u.kvSetCount g p e.tier e.block (n + 1))) ∧
      (n = 65535 → s.kvRef g a ent false = (.err a 4, u))) ∧
    (∀ (die : Nat) (c : KvCopy) (rest : List KvCopy) (wg : Workgroup) (w : Wave),
      Tab.getD s.kvcopies die [] = c :: rest → Tab.get? s.wgs c.op.wg = some wg → s.kvWave c.op = some w →
      (∀ a j, c.op.ask ≠ .look a j) → (s.kvCopyNeed (c.op.agent wg) c).1 = none →
      ∃ u w', exec (.kvdemCopyDone die) s = .next u ∧ Tab.getD u.kvcopies die [] = rest ∧
        Tab.get? u.waves c.op.wave = some w' ∧ w'.busy = .no ∧ w'.getS c.op.sd = 0)

/-! ## The fabric (R333 to R359) -/

/-- R350 to R353: RSIG adds to the 64-bit counter of each lane; RFLUSH writes back the lines of peers that its range holds,
or drops them, and RFLUSH.all does so for every line that is homed on one device.
Model choices in it: log entry 31. -/
def Obligations.RemoteSignalsAndFlushes : Prop :=
  ∀ (s : State) (h : Hdr) (m : MemRef) (a : Src) (w inv : Bool) (scope : Option Scope) (i : Iss),
    i.part ≠ 0 → Settled s i → (∀ e ∈ s.vds, e.2.dlog = false) →
    (IssueReady s h (instrLen [m.base, a, m.off]) i →
      let sc := scalarFields [m.base, a, m.off]
      let rd := i.rd s sc
      let add (l : Nat) : Nat := if w then (rd.val a .w64 l).toNat else (rd.w32 a l).toNat
      i.w.rejected = [] → ∀ ok t, Reached s i sc (rd.gaddr m) 8 8 true ok t → (∀ e ∈ ok, e.2.length = 1) →
      ∃ u w', Leaves (exec (.rsig h m a w scope) s) s i u w' ∧ RunDone i none 0 none w' ∧
        (∀ l : Loc, l.space ≠ .fab → u.readLoc l =
          (turnsOf (fun l old => leBytes (leNat old + add l) 8) 8 t.readLoc
            (ok.map (fun e => (e.1, (e.2.headD ⟨⟨.dev, 0⟩, 0, 0⟩).loc)))).2 l) ∧ SameScratch s u) ∧
    ((∀ e ∈ s.llc, e.1 / 2 ^ 60 = 3 → e.2.dirty = false) → s.reqs = [] →
      (IssueReady s h (instrLen [m.base, a, m.off]) i →
        let rd := i.rd s true
        let g := s.agentOf i.k i.w 0
        let x := rd.gaddr m i.lane
        let n := (rd.w32 a i.lane).toNat
        canonical x = true → x.toNat + n ≤ 2 ^ 57 →
        ∃ u w', Leaves (exec (.rflush h m a inv scope) s) s i u w' ∧ RunDone i none 0 none w' ∧
          (inv = true → ∀ e ∈ s.rangeLines g.vd g.ctx x.toNat n, e.2.space = .fab → ifaDev e.2.addr ≠ s.devid →
            ∀ ln, Tab.get? u.llc (lineKey .fab e.2.addr) = some ln → ln.vd ≠ g.vd) ∧
          SameGlobal s u ∧ SameScratch s u) ∧
      (IssueReady s h (instrLen [a]) i →
        let g := s.agentOf i.k i.w 0
        let d := ((i.rd s true).w32 a i.lane).toNat
        ∃ u w', Leaves (exec (.rflushAll h a inv scope) s) s i u w' ∧ RunDone i none 0 none w' ∧
          (∀ v, Tab.get? s.vds g.vd = some v → (Tab.getD v.pmap d ⟨false, 0, 0⟩).v = true → d < 256 → d ≠ s.devid → inv = true →
            ∀ e ∈ u.llc, e.1 / 2 ^ 60 = 3 → ifaDev (e.1 % 2 ^ 60 * 64) = d → e.2.vd ≠ g.vd) ∧
          SameGlobal s u ∧ SameScratch s u)) ∧
    -- a dirty line of a peer: its write-back is sent and the wave waits for it at the instruction
    (∀ (key : Nat) (ln : Line),
      let g := s.agentOf i.k i.w 0
      let rd := i.rd s true
      let at' := key % 2 ^ 60 * 64
      let sends (r : Res) : Prop :=
        ∃ u w', Leaves r s i u w' ∧ w'.busy = .remote ∧ w'.pc = i.w.pc ∧ w'.v = i.w.v ∧ w'.s = i.w.s ∧
          (∃ q ∈ u.reqs, q.who = .flush i.k ∧ q.op = 2 ∧ q.dev = ifaDev at' ∧ q.ifa = at' ∧ q.vd = g.vd ∧
            q.data = cellsGet s.peer at' 64) ∧
          (∀ l', Tab.get? u.llc key = some l' → inv = false ∧ l'.dirty = false ∧ l'.hold = .shared) ∧
          SameGlobal s u ∧ SameScratch s u
      key / 2 ^ 60 = 3 → Tab.get? s.llc key = some ln → ln.dirty = true → ln.vd = g.vd →
      (IssueReady s h (instrLen [m.base, a, m.off]) i →
        let x := rd.gaddr m i.lane
        let n := (rd.w32 a i.lane).toNat
        canonical x = true → x.toNat + n ≤ 2 ^ 57 →
        ∀ e ∈ s.rangeLines g.vd g.ctx x.toNat n, e.2.space = .fab → ifaDev e.2.addr ≠ s.devid → lineKey .fab e.2.addr = key →
        sends (exec (.rflush h m a inv scope) s)) ∧
      (IssueReady s h (instrLen [a]) i →
        let d := (rd.w32 a i.lane).toNat
        (∃ v, Tab.get? s.vds g.vd = some v ∧ (Tab.getD v.pmap d ⟨false, 0, 0⟩).v = true) → d < 256 → d ≠ s.devid →
        ifaDev at' = d →
        sends (exec (.rflushAll h a inv scope) s)))

/-- R337, R344 to R348, R354: a request that its endpoint, its partition and its window permit is performed at its home: the
reads answer with the bytes, the writes store (a write-back under its byte mask), the atomics leave the new value, a line's directory entry records who holds
it; a source outside the partition is refused as UNREACHABLE; an INV for a clean line drops it and is acknowledged.
Model choices in it: log entries 29, 33, 86 and 114. -/
def Obligations.EndpointRequests : Prop :=
  ∀ (s : State) (p : Packet) (v : VDev),
    let vd := p.tvd.toNat
    let op := p.op.toNat
    let n := Packet.size p
    let m := Tab.getD v.pmap p.sdev.toNat ⟨false, 0, 0⟩
    let who := (p.sdev.toNat, p.svd.toNat)
    let but := if op = 0 ∨ op = 1 then p.sdev.toNat else 256
    let answers (u : State) (o : Nat) (data : List Byte) : Prop :=
      ∃ q, u.out.getLast? = some q ∧ q.op.toNat = o ∧ q.data = data ∧ q.tdev = p.sdev ∧ q.tvd = p.svd ∧ q.tinc = p.sinc ∧
        q.ifa = p.ifa
    p.tdev.toNat = s.devid → Packet.reserved p = false → Tab.get? s.vds vd = some v → v.answers p.tinc = true →
    s.tagOk v p = true → (v.stream p.sdev.toNat).fault = false → (v.stream p.sdev.toNat).ctr < 2 ^ 48 →
    s.llc.length + 8 ≤ 32768 → (∀ e ∈ s.vds, e.2.dlog = false) → s.unsent = [] →
    (p.oclass = 0 → s.roomFor p 0 = true →
      (∀ ma, m.v = true → m.pvd = p.svd → s.window vd p.ifa.toNat n (windowNeed op (!p.opnd.getLsbD 64)) = .inr ma →
        let l : Loc := ⟨.dev, ma⟩
        let old := bytesIn s.readLoc l n
        let wrote (u : State) (bs : List Byte) : Prop :=
          ∀ a : Loc, a.space ≠ .fab → u.readLoc a = withBytes s.readLoc l bs a
        ((∀ x ∈ (linesOf ma n).map (· / 64),
            (s.dirAt x).pending = none ∧ s.mustYield (fotOwner (s.fotOf (x / 1024))) x (Packet.writes p) but = []) →
          (op = 0 → ∃ u, exec (.rds p) s = .next u ∧ answers u 9 old ∧ SameGlobal s u ∧
            (who ∈ (u.dirAt (ma / 64)).sharers ∨ (u.dirAt (ma / 64)).tenant ≠ none)) ∧
          (op = 1 → ∃ u, exec (.rdo p) s = .next u ∧ answers u 9 old ∧ SameGlobal s u ∧
            (u.dirAt (ma / 64)).owner = some who ∧ (u.dirAt (ma / 64)).sharers = []) ∧
          (op = 3 → ∃ u, exec (.rdu p) s = .next u ∧ answers u 9 old ∧ SameGlobal s u) ∧
          (op = 4 → (slice p.opnd 24 8 : Byte) = 0 → ∃ u, exec (.wru p) s = .next u ∧ answers u 10 [] ∧ wrote u (p.data.take n)) ∧
          (op = 5 → p.opnd.getLsbD 64 = false → ∃ u, exec (.atm p) s = .next u ∧ answers u 9 old ∧
            wrote u (leBytes (atomNew (slice p.opnd 24 8 : Byte).toNat (slice p.opnd 16 8 : Byte).toNat n (leNat old) p.data) n)) ∧
          (op = 6 → ∃ u, exec (.sig p) s = .next u ∧ answers u 10 [] ∧
            wrote u (leBytes (atomNew 0 0 8 (leNat old) (p.data.take 8)) 8))) ∧
        (op = 2 → (s.dirAt (ma / 64)).owner = some who →
          ∃ u, exec (.wb p) s = .next u ∧ answers u 10 [] ∧ wrote u (maskLine (Packet.wbMask p) old (p.data.take 64)) ∧
            (u.dirAt (ma / 64)).owner = none)) ∧
      (m.v = false ∨ m.pvd ≠ p.svd → op = 3 →
        ∃ u, exec (.rdu p) s = .next u ∧ answers u 11 [] ∧
          (∀ q, u.out.getLast? = some q → (slice q.opnd 0 8 : Byte) = 4) ∧ SameGlobal s u)) ∧
    (op = 7 → p.oclass = 2 → s.roomFor p 2 = true → (∀ r ∈ s.reqs, r.op ≠ 2) →
      (∀ ln, Tab.get? s.llc (lineKey .fab p.ifa.toNat) = some ln → ln.dirty = false ∧ ln.vd = vd) →
      ∃ u, exec (.inv p) s = .next u ∧ answers u 8 [] ∧ Tab.get? u.llc (lineKey .fab p.ifa.toNat) = none)

/-- R346 to R348, R354 to R356: an acknowledgement of an invalidation is one fewer to wait for; data go to the register
that waits for them and free the wave; an acknowledged store is done and a refused one is noted for the wave's next release;
a retired member is no longer valid, its answer is no longer awaited, and an announcement makes it valid with its new
incarnation.
Model choices in it: log entries 31 and 34. -/
def Obligations.EndpointAnswers : Prop :=
  ∀ (s : State) (p : Packet) (v : VDev),
    let vd := p.tvd.toNat
    let op := p.op.toNat
    p.tdev.toNat = s.devid → Packet.reserved p = false → Tab.get? s.vds vd = some v → s.tagOk v p = true →
    (v.retired = false → v.inc = p.tinc → p.oclass = 1 →
      (∀ ma q l, op = 8 → s.window vd p.ifa.toNat 1 0 = .inr ma → (s.dirAt (ma / 64)).pending = some (q, l) →
        l.erase p.sdev.toNat ≠ [] →
        ∃ u, exec (.iack p) s = .next u ∧ (u.dirAt (ma / 64)).pending = some (q, l.erase p.sdev.toNat)) ∧
      (∀ r w, s.reqs = [r] → r.sent = true → r.vd = vd → r.dev = p.sdev.toNat → r.ifa = p.ifa.toNat →
        (∀ k lane d n sx low, r.who = .load k lane d n sx low → r.op = 3 → op = 9 → r.off = 0 → r.len = n → n = 1 ∨ n = 2 ∨ n = 4 → d.toNat < 64 →
          lane < 32 → n ≤ p.data.length → Tab.get? s.waves k = some w → w.busy = .remote → w.rejected = [] → w.inbuf = [] →
          ∃ u w', exec (.data p) s = .next u ∧ u.reqs = [] ∧ Tab.get? u.waves k = some w' ∧ w'.busy = .no ∧
            loadWords sx (p.data.take n) = [w'.getV d.toNat lane] ∧ w'.pcOf lane = r.next) ∧
        (∀ k lane t a, r.who = .store k lane t a → r.op = 4 → Tab.get? s.waves k = some w → w.rejected = [] →
          (op = 10 → ∃ u w', exec (.ack p) s = .next u ∧ u.reqs = [] ∧ Tab.get? u.waves k = some w' ∧
            w'.refused = w.refused) ∧
          (op = 11 → ∃ u w', exec (.nack p) s = .next u ∧ u.reqs = [] ∧ Tab.get? u.waves k = some w' ∧
            w'.refused = (w.noteRefused t lane (canonOf a) (slice p.opnd 0 8 : Byte).toNat).refused)))) ∧
    (op = 12 → p.oclass = 6 → ∀ e, Tab.get? v.pmap p.sdev.toNat = some e → e.v = true → e.pvd = p.svd → e.inc = p.sinc →
      ∃ u v', exec (.retire p) s = .next u ∧ Tab.get? u.vds vd = some v' ∧
        ∃ e', Tab.get? v'.pmap p.sdev.toNat = some e' ∧ e'.v = false) ∧
    (op = 13 → p.oclass = 6 → ∃ u v', exec (.rack p) s = .next u ∧ Tab.get? u.vds vd = some v' ∧
      v'.racks = v.racks.filter (· != p.sdev.toNat)) ∧
    (op = 14 → p.oclass = 6 → p.sdev.toNat ∈ v.members → (Tab.getD v.pmap p.sdev.toNat ⟨false, 0, 0⟩).pvd = p.svd →
      ∃ u v', exec (.announce p) s = .next u ∧ Tab.get? u.vds vd = some v' ∧
        Tab.get? v'.pmap p.sdev.toNat = some ⟨true, p.svd, p.sinc⟩)

/-- R336 to R341, R354, R358, R359, R419 to R422, R427, R497: what the fabric does around packets: dropped flits, relays,
replays, allowances, dwells, levels; the time limits of members, keys and streams; and the packets and time limits of
rotations.
Model choices in it: log entries 34, 35, 47, 91, 113 and 126. -/
def Obligations.FabricUpkeep : Prop :=
  ∀ (s : State),
    (∀ n, n < 16 →
      (∀ p, Packet.reserved p = true → ∃ u, exec (.flitDrop n p) s = .next u ∧ (u.port n).err = (s.port n).err + 1) ∧
      (∃ u, exec (.dwellStart n) s = .next u ∧ (u.port n).dwell = (s.port n).dwell + 1 ∧ (u.port n).sent = 0 ∧
        (u.port n).mgmt = 0 ∧ (u.port n).rot = 0 ∧ (u.port n).cons = 0 ∧ (u.port n).since = s.clock) ∧
      (∀ k, ∃ u, exec (.linkReplay n k) s = .next u ∧ (u.port n).replay = k)) ∧
    (∀ p : Packet, p.tdev.toNat ≠ s.devid → p.hop = true → Packet.reserved p = false →
      s.haloRoom p = true → ∃ u, exec (.relayHop p) s = .next u ∧ u.halo = s.halo ++ [p] ∧ u.out = s.out) ∧
    (∀ n p q x, s.portPick n = some (p, q, x) → p.sdev.toNat ≠ s.devid →
      q = { p with cls := p.oclass, hop := false } ∧ (State.portSend n 1 s).halo = s.halo.erase p ∧
      (State.portSend n 1 s).wire = s.wire ++ [(n, q)]) ∧
    (∀ src vd cls, cls < 7 →
      let k := (src * 512 + vd) * 8 + cls
      (Tab.getD s.allow k 0 = 0 → 16 ≤ s.poolFree →
        exec (.allowanceRequest src vd cls) s = .next { s with allow := Tab.set 0 s.allow k 16 }) ∧
      (Tab.getD s.allow k 0 ≠ 0 → exec (.allowanceRequest src vd cls) s = .next { s with allow := Tab.set 0 s.allow k 0 })) ∧
    (∀ die level x, die < 2 → Tab.get? s.lcus (160 + die) = some x →
      exec (.queueLevelSample die level) s = .next (s.sample (160 + die) x.owner 2 level 0)) ∧
    (∀ line, ∃ u, exec (.hostCoherenceRecall line) s = .next u ∧ Tab.get? u.llc (lineKey .host (line * 64)) = none ∧
      SameGlobal s u) ∧
    (∀ vd dev v, Tab.get? s.vds vd = some v →
      let st := v.stream dev
      (v.rackAt + 130000000 ≤ s.clock → ∃ u, exec (.reincarnationTimeout vd dev) s = .next u ∧
        Tab.get? u.vds vd = some { v with racks := v.racks.filter (· != dev) }) ∧
      (∀ t, st.oldTill = some t → t ≠ 0 → t ≤ s.clock → ∃ u v', exec (.oldKeyDrop vd dev) s = .next u ∧
        Tab.get? u.vds vd = some v' ∧ (v'.stream dev) = { st with oldTill := some 0 }) ∧
      (∀ t, st.stallAt = some t → t + 13000000 ≤ s.clock → st.fault = false → s.reqs = [] →
        ∃ u v', exec (.streamFault vd dev) s = .next u ∧ Tab.get? u.vds vd = some v' ∧ (v'.stream dev).fault = true ∧
          ∀ q ∈ u.out, Packet.onStream q s.devid vd dev = false)) ∧
    (∀ (p : Packet) (v : VDev), p.tdev.toNat = s.devid → Packet.reserved p = false → p.oclass = 4 →
      Tab.get? s.vds p.tvd.toNat = some v → s.roomFor p 4 = true → v.answers p.tinc = true → s.tagOk v p = true →
      let key := p.tvd.toNat * 64 + rotGrp p
      let run := s.rotOf p.tvd.toNat (rotGrp p) (rotRid p)
      (∀ f, p.op.toNat = 10 → p.opnd.getLsbD 0 = true → run = none → Tab.get? s.fgs key = some f → f.held.length < 8 →
        ∃ u f', exec (.rotGrant p) s = .next u ∧ Tab.get? u.fgs key = some f' ∧
          f'.held = f.held ++ [(rotRid p, rotBlock p, rotSlot p, (slice p.opnd 80 8 : BitVec 8).toNat,
            (slice p.opnd 69 11 : BitVec 11).toNat, s.clock)]) ∧
      (∀ r g c x, run = some (r, g, c, x) →
        let d := RotDesc.of c.bytes
        let now (u : State) : Option (CardRef × Workgroup × Card × RotRun) := u.rotOf p.tvd.toNat (rotGrp p) (rotRid p)
        let i := (slice p.opnd 25 11 : BitVec 11).toNat
        (∀ t, p.op.toNat = 4 → x.slots[rotSlot p]? = some t → rotSlot p < d.slots → rotBlock p ≠ 0 →
          (t.st = .granted (rotBlock p) ∨ t.st = .landing (rotBlock p)) → i < d.pieces → i ∉ t.landed →
          ∃ u y t', exec (.rotPiece p) s = .next u ∧ (now u).map (fun z => z.2.2.2) = some y ∧
            y.slots[rotSlot p]? = some t' ∧ t'.landed = i :: t.landed ∧
            t'.st = (if t.landed.length + 1 = d.pieces then .held (rotBlock p) else .landing (rotBlock p))) ∧
        (p.op.toNat = 10 → p.opnd.getLsbD 0 = false →
          ∃ u y, exec (.rotAck p) s = .next u ∧ (now u).map (fun z => z.2.2.2) = some y ∧
            y.grants = x.grants.filter (fun q => q.1 != rotBlock p) ∧ y.since = s.clock) ∧
        (p.op.toNat = 11 → (slice p.opnd 0 8 : BitVec 8) = 6 ∨ (slice p.opnd 0 8 : BitVec 8) = 3 → c.kind = 0x20 →
          c.st = .running → (∀ e ∈ s.waves, e.2.parked = 0) →
            ∃ u c', exec (.rotAbort p) s = .next u ∧ (u.card? r).map Prod.snd = some c' ∧ c'.st = .failed ∧ c'.code = cardPeer))) ∧
    (∀ n q x g c f, (s.engine (.rot n)).run = some q → q.rot = some x → s.card? q.card = some (g, c) → c.final = false →
      Tab.get? s.fgs (g.vd * 64 + (RotDesc.of c.bytes).fgrp) = some f → x.since + f.cycles ≤ s.clock →
      s.rotCount g (RotDesc.of c.bytes) = x.seen → (∀ e ∈ s.waves, e.2.parked = 0) →
      ∃ u c', exec (.rotTimeout n) s = .next u ∧ (u.card? q.card).map Prod.snd = some c' ∧ c'.st = .failed) ∧
    (∀ vd fg f, Tab.get? s.fgs (vd * 64 + fg) = some f →
      ∃ u, exec (.rotHeldGrantExpire vd fg) s = .next u ∧ Tab.get? u.fgs (vd * 64 + fg) =
        some { f with held := f.held.filter (fun h => decide (s.clock < h.2.2.2.2.2 + f.cycles)) })

/-! ## Events of waves, launches and contexts (R30 to R68, R197, R437, R443 to R447, R468 to R473) -/

/-- R45 to R47, R51, R57, R59, R62 to R68, R90, R197, R380, R437, R438: the events of a wave. A fairness event takes the next
frontier group, and waits inside a latch chain; a sleep ends; a parked thread whose condition has come is runnable at its
PC; a waiting wave takes the highest eligible stage, with s0 to s7 kept and all other register state, latches and fairness
state cleared, or exits once every stage is closed; a wave to be pre-empted halts at a reconverged point, or is stopped in
the end with its speculation rolled back; a deferred trap is taken and a return that waited goes on; a wave whose threads
have exited gives its slot back, and a workgroup whose waves have all gone its resources.
Model choices in it: log entries 36 and 38. -/
def Obligations.WaveEvents : Prop :=
  ∀ (s : State) (k : Nat) (w : Wave) (g : Workgroup), Tab.get? s.waves k = some w → Tab.get? s.wgs w.wg = some g →
    let after (j : Instr) (p : State → Wave → Prop) : Prop :=
      ∃ u w', exec j s = .next u ∧ Tab.get? u.waves k = some w' ∧ w'.v = w.v ∧ w'.s = w.s ∧ w'.p = w.p ∧ p u w'
    (w.diverged = true → slice w.fair 0 16 ≠ (0 : BitVec 16) →
      (∀ q, w.chain = 0 → w.fairGroup = some q →
        after (.fairnessEvent k) (fun _ w' => w'.fairCnt = 0 ∧ w'.rover = q ∧ w'.pick = some q ∧ w'.pc = w.pc)) ∧
      (w.chain ≠ 0 → after (.fairnessEvent k) (fun _ w' => w' = w))) ∧
    (∀ t, w.busy = .sleep t → t ≤ s.clock → after (.sleepExpire k) (fun _ w' => w' = { w with busy := .no })) ∧
    (∀ lane, w.parked.has lane = true → w.settled = true → s.resolved w g lane = true →
      after (.threadResume k lane) (fun _ w' => w'.parked.has lane = false ∧ w'.pc = w.pc)) ∧
    (∀ r, w.busy = .stage → s.rcdOf g = some r →
      (∀ st, st ≤ r.nstage → s.eligible w.wg g r st = true →
        (∀ q, st < q → q ≤ r.nstage → s.eligible w.wg g r q = false) →
        ∃ u w', exec (.stageReassign k) s = .next u ∧ Tab.get? u.waves k = some w' ∧ w'.stage = st ∧ w'.inStage = true ∧
          w'.busy = .no ∧ (∀ l, w.alive.has l = true → w'.pcOf l = r.stageEntry st) ∧
          (∀ n, w'.getS n = if n < 8 then w.getS n else 0) ∧ (∀ n l, w'.getV n l = 0) ∧
          (∀ n, n ≠ 7 → w'.getP n = 0) ∧ (∀ n l, w'.latchVal n l = some 0) ∧ w'.fairCnt = 0 ∧ w'.rover = 0) ∧
      ((∀ q, q ≤ r.nstage → s.eligible w.wg g r q = false ∧ g.closed.contains q = true) →
        (∀ e ∈ g.queues, e.2.copies = []) → w.arith w.alive = 0 → g.failedCard = none → w.refused = [] →
        ∃ u w', exec (.stageReassign k) s = .next u ∧ Tab.get? u.waves k = some w' ∧ w'.alive = 0)) ∧
    (∀ t, w.preempt = some t → w.halted = false → s.midway k w = false →
      (w.reconverged = true →
        after (.waveHalt k) (fun _ w' => w'.halted = true ∧ w'.forced = false ∧ w'.pc = w.pc ∧ w'.parked = w.parked)) ∧
      (t ≤ s.clock → w.chain = 0 →
        (w.spec = none →
          after (.preemptTimeout k) (fun _ w' => w'.halted = true ∧ w'.forced = true ∧ w'.pc = w.pc ∧ w'.parked = w.parked)) ∧
        (∀ sp, w.spec = some sp → sp.guard = none →
          ∃ u w', exec (.preemptTimeout k) s = .next u ∧ Tab.get? u.waves k = some w' ∧ w'.halted = true ∧ w'.forced = true ∧
            w'.spec = none ∧ ∀ l, w.alive.has l = true → w'.pcOf l = sp.pc))) ∧
    (s.outstanding k = false → (∀ va, w.busy = .frame va → s.pageReady g.vd g.ctx va w.trap.isSome = true) →
      (∀ b, w.busy ≠ .away b) →
      (∀ t, w.trap = some t →
        exec (.trapEntry k) s = .next ((s.setWave k { w with trap := none, busy := .no }).takeTrap k t)) ∧
      (w.trap = none → w.rft = true →
        exec (.trapEntry k) s =
          .next ((s.setWave k { w with rft := false, busy := .no }).returnFromTrap k (w.issuePc.getD 0)))) ∧
    (w.alive = 0 → w.trap = none → (w.tail = true ∨ s.outstanding k = false) → g.frozen = false →
      (1 < g.live ∨ (s.core g.core).tracker.length < 16) →
      ∃ u g', exec (.waveRetire k) s = .next u ∧ Tab.get? u.waves k = none ∧ Tab.get? u.wgs w.wg = some g' ∧
        g'.live = g.live - 1) ∧
    (g.live = 0 → s.canRetire w.wg g = true → g.frozen = false →
      (∀ c ∈ g.cards, c.st = .failed → c.reported = true) →
      ∃ u, exec (.workgroupRetire w.wg) s = .next u ∧ Tab.get? u.wgs w.wg = none ∧
        ∀ la, Tab.get? s.launches g.launch = some la →
          Tab.get? u.launches g.launch = some { la with retired := la.retired + 1 })

/-- R34, R39, R42, R62, R65, R443, R447, R468 to R473: the VCC takes the head record of the next queue, or halts a queue whose
record is bad; the next gang that fits is placed; a launch that is over adds to its counter and is gone; pre-emption marks
the workgroups of a sub-partition; a context that stands still is saved as one image, and a grant tries its restore; the
choices of sub-partitions that fall due are made in one pass: each takes the ready virtual device of least virtual time below
its MINSP, else below its MAXSP, and charges it; a grant to another makes a world switch, or pre-empts first, and one that no
waiting workgroup could use is withdrawn.
Model choices in it: log entries 54, 55, 56, 57 and 80. -/
def Obligations.LaunchEvents : Prop :=
  ∀ (s : State) (vd ctx : Nat),
    (∀ k q ps t, s.takes vd ctx = true → s.nextQueue vd ctx = some (k, q) → Tab.get? s.queues k = some q → q.auth = false →
      canonical (BitVec.ofNat 64 q.base) = true → s.vccSpan vd ctx q.headAt 128 false = (.ok ps, t) →
      (∀ p ∈ ps, p.isFab = false) →
      let r := leNat (t.readPieces ps)
      let x := LaunchRec.of r 0
      Tab.get? t.queues k = some q →
      (recFieldsOk r = true → t.gangFits x.gangsz = true → x.nstage = 0 → recTableOk r 0 = true →
        ∃ u q', exec (.launchRecordRead vd ctx) s = .next u ∧ u.nextId = t.nextId + 1 ∧
          Tab.get? u.launches t.nextId = some ⟨vd, ctx, x, 0, 0, false, false⟩ ∧
          Tab.get? u.queues k = some q' ∧ q'.head = q.head + 1) ∧
      (recFieldsOk r = false →
        ∃ u q', exec (.launchRecordRead vd ctx) s = .next u ∧ Tab.get? u.queues k = some q' ∧ q'.halt = .recbad ∧
          q'.head = q.head)) ∧
    (∀ v c e pl, Tab.get? s.vds vd = some v → v.st = .running →
      (s.placementRound vd).nextPlace vd v.lastCtx = some (c, e, pl) →
      ∃ u v', exec (.gangPlacement vd) s = .next u ∧ Tab.get? u.vds vd = some v' ∧ v'.lastCtx = c ∧
        u.gangTag = (s.nextTag + 1) % 65536 ∧
        (∀ la, Tab.get? s.launches e.1 = some la → Tab.get? u.launches e.1 = some { la with placed := la.placed + 1 }) ∧
        (pl.2 ≠ [] → ∃ g, Tab.get? u.wgs s.nextId = some g ∧ g.launch = e.1 ∧ g.gang = e.2.placed ∧ g.wgid = 0 ∧ g.core = (pl.2.headD (0, [], [])).1)) ∧
    (∀ l la, Tab.get? s.launches l = some la → la.over' = true →
      (la.spoiled = true ∨ la.rcd.cntaddr = 0 →
        ∃ u, exec (.launchCompletionAdd l) s = .next u ∧ Tab.get? u.launches l = none ∧ SameGlobal s u) ∧
      (la.spoiled = false → la.rcd.cntaddr ≠ 0 → la.waiting = false →
        canonical (BitVec.ofNat 64 la.rcd.cntaddr) = true →
        ∀ p ps t, s.vccSpan la.vd la.ctx (vaOf (BitVec.ofNat 64 la.rcd.cntaddr)) 8 true = (.ok (p :: ps), t) →
          p.isFab = false → t.recallPlaces true [(p.loc, 8)] = none → (∀ e ∈ t.vds, e.2.dlog = false) →
          ∃ u, exec (.launchCompletionAdd l) s = .next u ∧ Tab.get? u.launches l = none ∧
            ∀ a : Loc, a.space ≠ .fab → u.readLoc a =
              withBytes t.readLoc p.loc (leBytes (leNat (bytesIn t.readLoc p.loc 8) + la.rcd.incr) 8) a)) ∧
    (∀ sp, ∃ u, exec (.preemptRequest sp) s = .next u ∧
      ∀ gid g, Tab.get? s.wgs gid = some g → s.occupies gid g sp = true →
        ∃ g', Tab.get? u.wgs gid = some g' ∧ g'.preempt.isSome = true) ∧
    (∀ c, s.ctx? vd ctx = some c → s.contextWgs vd ctx ≠ [] →
      (∀ e ∈ s.contextWgs vd ctx, s.wgStill e.1 e.2 = true) →
      ∃ u c', exec (.contextSave vd ctx) s = .next u ∧ (∀ e ∈ s.contextWgs vd ctx, Tab.get? u.wgs e.1 = none) ∧
        u.ctx? vd ctx = some c' ∧ c'.savectr = c.savectr + 1 ∧ c'.used = false ∧
        (∃ i ∈ u.images, i.vd = vd ∧ i.ctx = ctx ∧ i.savectr = c.savectr + 1 ∧
          i.wgs.map SavedWg.id = (s.contextWgs vd ctx).map Prod.fst)) ∧
    (∀ v c b, Tab.get? s.vds vd = some v → s.ctx? vd ctx = some c → c.saved = .retry b → v.st = .running → c.running = true →
      c.stopping = false →
      (∀ t, s.tryRestore vd ctx = (.accepted, t) → exec (.contextRestore vd ctx) s = .next t) ∧
      (∀ t, s.tryRestore vd ctx = (.stale, t) → ∃ u c', exec (.contextRestore vd ctx) s = .next u ∧
        u.ctx? vd ctx = some c' ∧ c'.saved = .hold ∧ c'.report = some (2, 0, 0))) ∧
    (∀ sp, sp ∈ s.dueSps → exec (.sliceEnd sp) s = .next s.schedule) ∧
    -- R470: the choice for one sub-partition, in a pass
    (∀ (due : List Nat) (p : Pass) (sp : Nat), Tab.sorted p.st.vds = true →
      let held (d : Nat) : Nat := p.st.kept due d + (p.got.filter (fun e => e.2 == d)).length
      let may (d : Nat) (v : VDev) : Prop := (d, v) ∈ p.st.vds ∧ p.st.readyVd d v = true ∧ (sp, d) ∉ p.no
      let least (in' : Nat → VDev → Prop) (d : Nat) (v : VDev) : Prop :=
        may d v ∧ in' d v ∧ ∀ e x, may e x → in' e x → v.vtime < x.vtime ∨ (v.vtime = x.vtime ∧ d ≤ e)
      let takes (d : Nat) : Prop :=
        (Pass.choose due p sp).got = Tab.put p.got sp d ∧ (Pass.choose due p sp).st =
          p.st.modVd d (fun v => { v with vtime := v.vtime + (v.slice : Rat) / (v.weight : Rat) })
      (∀ d v, least (fun d v => held d < v.minsp) d v → takes d) ∧
      ((∀ d v, may d v → v.minsp ≤ held d) → ∀ d v, least (fun d v => held d < v.maxsp) d v → takes d) ∧
      ((∀ d v, may d v → v.minsp ≤ held d ∧ v.maxsp ≤ held d) →
        (Pass.choose due p sp).got = Tab.put p.got sp 0 ∧ (Pass.choose due p sp).st = p.st)) ∧
    -- R470, R210, R199: the grant of one sub-partition to the virtual device that is chosen
    (∀ (sp d : Nat) (v : VDev), s.dueSps = [sp] → d ≠ 0 → Tab.get? s.noteReady.vds d = some v →
      let p := Pass.choose [sp] ⟨s.noteReady, [], []⟩ sp
      let c := sp / 4
      let ks := (List.range 4).filter (fun k => 4 * c + k == sp || ((s.sp (4 * c + k)).holder == d && (s.sp (4 * c + k)).next.isNone))
      let fits := (p.st.waitingShapes d).any (fun sh => (p.st.fitOn c ks [sp % 4] sh).isSome)
      let charged (u : State) : Prop := ∃ v', Tab.get? u.vds d = some v' ∧ v'.vtime = v.vtime + (v.slice : Rat) / (v.weight : Rat)
      let till := s.clock + 130000 * v.slice
      p.got = [(sp, d)] →
      ((s.sp sp).holder = d →
        ∃ u, exec (.sliceEnd sp) s = .next u ∧ u.sp sp = { s.sp sp with till := till } ∧ u.scratch = s.scratch ∧ charged u) ∧
      ((s.sp sp).holder ≠ d → fits = true → s.occupants sp = [] →
        ∃ u, exec (.sliceEnd sp) s = .next u ∧ (u.sp sp).holder = d ∧ (u.sp sp).till = till ∧ (u.sp sp).loop = none ∧
          (∀ a, a / 131072 = sp → cellGet u.scratch a = 0) ∧ (∀ a, a / 131072 ≠ sp → cellGet u.scratch a = cellGet s.scratch a) ∧
          charged u) ∧
      ((s.sp sp).holder ≠ d → fits = true → s.occupants sp ≠ [] →
        ∃ u, exec (.sliceEnd sp) s = .next u ∧ (u.sp sp).holder = (s.sp sp).holder ∧ (u.sp sp).next = some d ∧ charged u ∧
          ∀ gid g, Tab.get? s.wgs gid = some g → s.occupies gid g sp = true →
            ∃ g', Tab.get? u.wgs gid = some g' ∧ g'.preempt.isSome = true) ∧
      ((s.sp sp).holder ≠ d → fits = false → (∀ e ∈ s.noteReady.vds, e.1 ≠ d → s.noteReady.readyVd e.1 e.2 = false) →
        s.occupants sp = [] →
        ∃ u v', exec (.sliceEnd sp) s = .next u ∧ (u.sp sp).holder = 0 ∧ Tab.get? u.vds d = some v' ∧ v'.vtime = v.vtime))

/-! ## Events of cards, engines and queues (R272 to R276, R288 to R307, R331) -/

/-- R274, R275, R288, R292, R293, R303, R305 to R307, R331, R478: the oldest published card of a ring is admitted, a card whose
earlier cards are final goes to an engine with room, the head of an engine's queue starts, an engine that has work does it,
and a card parks on a missing page, fails, is cancelled, or is done; an engine that does not drain is reset; a pushed
element commits and a popped one frees its slot.
Model choices in it: log entries 40, 41, 43 and 81. -/
def Obligations.CardEvents : Prop :=
  ∀ (s : State),
    let cardIs (u : State) (r : CardRef) (p : Card → Prop) : Prop := ∃ c, (u.card? r).map Prod.snd = some c ∧ p c
    (∀ core gid g rest c, s.ringsFrom core (s.core core).nextRing = (gid, g) :: rest → Tab.get? s.wgs gid = some g →
      g.cards.find? (fun c => c.st == .published) = some c → g.frozen = false → (g.cards.filter Card.admitted).length < 32 →
      ∃ u, exec (.cardAdmit core) s = .next u ∧ (u.core core).nextRing = gid + 1 ∧
        cardIs u ⟨gid, c.seq⟩ (fun c' => c'.st = .admitted)) ∧
    (∀ core gid c l t, (s.ringsFrom core (s.core core).nextRel).findSome?
        (fun e => (s.releasable e.1 e.2).map (fun r => (e.1, r))) = some (gid, c, .to l t) →
      (t.card? ⟨gid, c.seq⟩).isSome = true →
      ∃ u, exec (.cardRelease core) s = .next u ∧ cardIs u ⟨gid, c.seq⟩ (fun c' => c'.st = .queued ∧ c'.eng = l.head?) ∧
        ∀ e ∈ l, ⟨gid, c.seq⟩ ∈ (u.engine e).queue) ∧
    (∀ e r g c, (∀ n, e ≠ .ismv n) → s.nextCard e = some r → s.card? r = some (g, c) → s.canStart g c r (g.enginesOf c e) = true →
      ∃ u, exec (.cardStart e) s = .next u ∧ cardIs u r (fun c' => c'.st = .running) ∧
        ∀ x ∈ g.enginesOf c e, ((u.engine x).run.map Run.card) = some r) ∧
    (∀ e r g c q, s.running e = some (r, g, c, q) →
      (∀ t, s.engineNext e = .go t →
        (∀ a b, e = .copy a b → exec (.engineGranuleWrite e) s = .next (s.countCopied t e)) ∧
        (∀ a b, e = .half a b → exec (.engineGranuleWrite e) s = .next t) ∧
        (∀ a, e = .rot a → exec (.engineGranuleWrite e) s = .next t) ∧
        (∀ a, e = .attn a → exec (.attnStep a) s = .next t) ∧
        (∀ n, e = .ismv n → ∃ u, exec (.ismvChunk n) s = .next u ∧ (u.engine e).last = g.core ∧ u.wgs = t.wgs ∧
          u.scratch = t.scratch)) ∧
      (∀ va w t, s.engineNext e = .park va w t → (t.card? r).isSome = true →
        ∃ u, exec (.cardPark e) s = .next u ∧ cardIs u r (fun c' => c'.st = .parked ∧ c'.page = some (va, w))) ∧
      (∀ k t, s.engineNext e = .fail k t → cardIs t r (fun c' => c'.final = false) → (∀ x ∈ t.waves, x.2.parked = 0) →
        ∃ u, exec (.cardFail e) s = .next u ∧ cardIs u r (fun c' => c'.st = .failed ∧ c'.code = k)) ∧
      (c.stopping q = true → s.cardBusy r = false → c.final = false →
        ∃ u, exec (.cardCancelStop e) s = .next u ∧ cardIs u r (fun c' => c'.st = .cancelled)) ∧
      (c.cancel = false → c.final = false → s.cardBusy r = false → c.code = 0 → c.atAdd = true → cCnt c.bytes = 0 →
        (∀ n, e = .ismv n → mvDone c = true) → ((∀ n, e ≠ .ismv n) → q.done = true) →
        ∃ u, exec (.cardFinish e) s = .next u ∧ cardIs u r (fun c' => c'.st = .done))) ∧
    (∀ e t, (s.engine e).stopAt = some t → t + 130000 ≤ s.clock →
      (∀ r ∈ s.heldBy e, ∀ x, s.card? r = some x → x.2.adding = false) →
      ∃ u, exec (.engineDrainTimeout e) s = .next u ∧ (u.engine e).stopAt = none ∧ (u.engine e).run = none ∧
        (u.engine e).queue = [] ∧ (∀ core h, e = .half core h → ∀ x ∈ u.acc, x.1 / 20480 ≠ core * 4 + h)) ∧
    (∀ gid g n x, Tab.get? s.wgs gid = some g → Tab.get? g.queues n = some x →
      (∀ r bs rest, x.copies = (r, bs) :: rest →
        ∃ u g', exec (.qpushCommit gid n) s = .next u ∧ Tab.get? u.wgs gid = some g' ∧
          Tab.get? g'.queues n = some { x with committed := r + 1, copies := rest } ∧
          ∀ a, cellGet u.scratch a = scratchWith (cellGet s.scratch) g (qSlot x.ctl r) bs a) ∧
      (x.popping ≠ 0 →
        ∃ u g', exec (.qpopCopyDone gid n) s = .next u ∧ Tab.get? u.wgs gid = some g' ∧
          Tab.get? g'.queues n = some { x with head := x.head + 1, popping := x.popping - 1 }))

/-! ## The management interface (R458 to R488) -/

/-- R458, R464, R465, R475, R477, R483, R493: the commands that configure a virtual device: each is refused before its own checks or
completes with status OK, its RESULT and the configuration that its arguments name; an unassigned code completes with
BADOP.
Model choices in it: log entries 58 and 59. -/
def Obligations.ConfigurationCommands : Prop :=
  ∀ (s : State) (c : BitVec 512) (v : VDev),
    let vd := cmdVd c
    let f := cmdField c
    let ctx := cmdCtx c
    let open_ := v.tdi ≠ .locked ∧ v.tdi ≠ .run
    let live := v.st = .creating ∨ v.st = .ready ∨ v.st = .running
    let tells (u : State) (status result : Nat) : Prop := u.answer = leBytes result 4 ++ leBytes status 4
    let gives (j : Instr) (result : Nat) (p : State → Prop) : Prop := ∃ u, exec j s = .next u ∧ tells u 0 result ∧ p u
    let vdIs (p : VDev → Prop) (u : State) : Prop := ∃ v', Tab.get? u.vds vd = some v' ∧ p v'
    let ctxIs (p : Context → Prop) (u : State) : Prop := ∃ k, u.ctx? vd ctx = some k ∧ p k
    (∃ u, exec (.badop c) s = .next u ∧ tells u 1 0 ∧ u.vds = s.vds) ∧
    (vd = 0 → ∃ u, exec (.vdStop c) s = .next u ∧ tells u 2 0 ∧ u.vds = s.vds) ∧
    (vd ≠ 0 → Tab.get? s.vds vd = some v → v.st ≠ .free →
      (open_ →
        (zeroOk c (cfgBits ++ pbBits) = true → ∀ v', v.withParams c = some v' → (s.framesOf vd).length ≤ v'.quota →
          (v.st = .running → s.minspOthers vd + v'.minsp ≤ s.populatedSps) →
          v'.weight = f 16 1 ∧ v'.minsp = f 18 2 ∧ v'.maxsp = f 20 2 ∧ v'.quota = f 24 4 ∧ v'.st = v.st ∧
          gives (.vdConfigParams c) 0 (vdIs (fun x => x = if v.wdog = 0 then { v' with progress := s.clock } else v'))) ∧
        (zeroOk c (cfgBits ++ [(128, 32), (160, 11), (192, 160)]) = true → ctx < 64 → f 16 4 < 2 ^ 20 → 1 ≤ f 20 1 → f 20 1 ≤ 15 →
          pow2In (f 40 4) 16 65536 = true → s.ctxRuns vd ctx = false →
          gives (.vdConfigContext c) 0 (ctxIs (fun k => k.pasid = f 16 4 ∧ k.weight = f 20 1 ∧ k.save = f 24 8 ∧
            k.fqBase = f 32 8 ∧ k.fqSize = f 40 4 ∧ k.prot = (cmdBits c 168 1 == 1) ∧ k.hlock = (cmdBits c 169 1 == 1) ∧
            k.enable = (cmdBits c 170 1 == 1)))) ∧
        (zeroOk c (cfgBits ++ [(128, 128)]) = true → ctx < 64 → s.ctxRuns vd ctx = false →
          gives (.vdConfigFormat c) 0 (ctxIs (fun k => k.format = BitVec.ofNat 128 (f 16 16)))) ∧
        (zeroOk c (cfgBits ++ [(128, 96), (224, 2)]) = true → ctx < 64 → f 10 1 < 64 → f 16 8 % 64 = 0 →
          pow2In (f 24 4) 2 4096 = true →
          gives (.vdConfigQueue c) 0 (fun u => ∃ q, Tab.get? u.queues (queueKey vd ctx (f 10 1)) = some q ∧ q.base = f 16 8 ∧
            q.size = f 24 4 ∧ q.auth = (cmdBits c 224 1 == 1) ∧ q.enable = (cmdBits c 225 1 == 1) ∧ q.on = q.enable ∧
            (q.enable = true → q.halt = .none))) ∧
        (zeroOk c (cfgBits ++ [(128, 320)]) = true → ctx < 64 → f 10 1 < 64 → ∀ k, s.unwrapped c = .inr k →
          gives (.vdConfigQueueKey c) 0 (fun u => ∃ q, Tab.get? u.queues (queueKey vd ctx (f 10 1)) = some q ∧
            q.key = some k ∧ q.last = 0)) ∧
        (zeroOk c (cfgBits ++ [(128, 33)]) = true → f 18 2 ≤ 511 → f 17 1 = 0 →
          gives (.vdConfigPartition c) 0 (vdIs (fun x => Tab.get? x.pmap (f 16 1) =
            if cmdBits c 160 1 = 1 then none else some ⟨false, BitVec.ofNat 9 (f 18 2), 0⟩))) ∧
        (zeroOk c (cfgBits ++ [(128, 80)]) = true →
          let l := [f 16 2, f 18 2, f 20 2, f 22 2, f 24 2]
          (∀ x ∈ l, x ≤ 1024) → (s.modVd vd (fun _ => { v with resv := l })).buffersFit = true →
          gives (.vdConfigFabricRes c) 0 (vdIs (fun x => x.resv = l))) ∧
        (zeroOk c (cfgBits ++ [(128, 16), (192, 128)]) = true →
          let e := BitVec.ofNat 128 (f 24 16)
          f 16 2 < 1024 → slice e 5 51 = (0 : BitVec 51) →
          (e.getLsbD 0 = true → (slice e 56 24 : BitVec 24) ≠ 0 ∧
            s.framesIn (slice e 80 48 : BitVec 48).toNat (slice e 56 24 : BitVec 24).toNat (fun x => fotOwner x == vd) =
              (slice e 56 24 : BitVec 24).toNat) →
          gives (.vdConfigWindow c) 0 (vdIs (fun x => Tab.get? x.windows (f 16 2) = some e)))) ∧
      (live → open_ → zeroOk c [(128, 96)] = true → 1 ≤ f 24 4 → f 24 4 ≤ 2 ^ 24 →
        let n := f 24 4
        let used := (s.framesOf vd).length
        (s.framesThere (f 16 8) n = true → s.framesIn (f 16 8) n (fun e => fotOwner e != 0 || e.getLsbD 28) = 0 → used + n ≤ v.quota →
          gives (.vdGrantMem c) (used + n) (fun u => ∀ x, f 16 8 ≤ x → x < f 16 8 + n →
            fotOwner (u.fotOf x) = vd ∧ (u.fotOf x).getLsbD 31 = true)) ∧
        (s.framesIn (f 16 8) n (fun e => fotOwner e == vd) = n →
          gives (.vdRevokeMem c) (used - n) (fun u => ∀ x, f 16 8 ≤ x → x < f 16 8 + n → fotOwner (u.fotOf x) = 0))) ∧
      (live → open_ → zeroOk c keyBits = true → ∀ k i, s.unwrapped c = .inr k → i < 1023 → Tab.get? s.keys (i + 1) = none →
        (∀ j, j < i → (Tab.get? s.keys (j + 1)).isSome = true) →
        (v.st = .creating ∨ (v.st = .ready ∧ s.framesOf vd = []) →
          gives (.vdBindKeyMemory c) (i + 1) (fun u => (v.mkey ≠ i + 1 → Tab.get? u.keys (i + 1) = some k) ∧
            vdIs (fun x => x.mkey = i + 1 ∧ x.st = .ready) u ∧
            ∀ x y, x < 64 → u.ctx? vd x = some y → y.savectr = 0 ∧ y.used = false)) ∧
        gives (.vdBindKeyPartition c) (i + 1) (fun u => (v.fkey ≠ i + 1 → v.fkeyn ≠ i + 1 → Tab.get? u.keys (i + 1) = some k) ∧
          vdIs (fun x => x.fkey = i + 1 ∧ x.fkeyn = 0 ∧ x.st = v.st ∧ ∀ e ∈ x.streams, e.2.fault = false ∧ e.2.ctr = 0) u) ∧
        gives (.vdBindKeyPending c) (i + 1) (fun u => (v.fkey ≠ i + 1 → Tab.get? u.keys (i + 1) = some k) ∧
          vdIs (fun x => x.fkeyn = i + 1 ∧ x.fkey = (if v.fkeyn = 0 then v.fkey else v.fkeyn) ∧ x.epoch = (!v.epoch) ∧
            x.gen = v.gen + 1 ∧ ∀ e ∈ x.streams, e.2.fault = false) u)) ∧
      (live → open_ →
        let g := f 17 1
        let key := vd * 64 + g
        let share := if f 19 1 = 0xFF then 25 else f 19 1
        let time := if f 20 2 = 0 then 100 else f 20 2
        (zeroOk c fgBits = true → g < 64 →
          (share ≤ 50 → time ≤ 1000 → f 22 2 ≤ 1024 → Tab.get? s.fgs key = none →
            ({ s with fgs := Tab.put s.fgs key ⟨[], share, time, f 22 2, []⟩ } : State).buffersFit = true →
            gives (.fgCreateFabric c) 0 (fun u => Tab.get? u.fgs key = some ⟨[], share, time, f 22 2, []⟩)) ∧
          (Tab.get? s.fgs key ≠ none → gives (.fgDeleteFabric c) 0 (fun u => Tab.get? u.fgs key = none))) ∧
        (zeroOk c cgBits = true → g < 64 →
          ((f 19 1 = 5 ∨ f 19 1 = 7 ∨ f 19 1 = 8) → 1 ≤ f 20 2 → f 20 2 ≤ 1023 → f 20 2 ≤ f 22 2 → f 24 4 ≤ 10000 → f 28 1 < 64 →
            Tab.get? s.cgs g = none →
            gives (.fgCreateConsensus c) 0 (fun u => ∃ x, Tab.get? u.cgs g = some x ∧ x.owner = vd ∧ x.scope = f 19 1 ∧
              x.lpos = f 20 2 ∧ x.total = f 22 2 ∧ x.joined = [] ∧ x.devices = [s.devid] ∧ x.round = 0 ∧ x.lost = false)) ∧
          (∀ x, Tab.get? s.cgs g = some x → x.owner = vd → x.deleted = false →
            gives (.fgDeleteConsensus c) 0 (fun u => Tab.get? u.cgs g = none))) ∧
        (zeroOk c [(128, 48)] = true → g < 64 → (f 19 1 = s.devid ∨ f 19 1 ∈ v.members) → f 20 2 ≤ 511 →
          (∀ x, f 16 1 = 0 → Tab.get? s.fgs key = some x → (∀ e ∈ x.members, e.1 ≠ f 18 1 ∧ e.2.1 ≠ f 19 1) →
            gives (.fgAdd c) 0 (fun u => Tab.get? u.fgs key =
              some { x with members := Tab.put x.members (f 18 1) (f 19 1, f 20 2) })) ∧
          (∀ x, f 16 1 = 1 → Tab.get? s.cgs g = some x → x.owner = vd → x.deleted = false →
            gives (.fgAdd c) 0 (fun u => ∃ y, Tab.get? u.cgs g = some y ∧ f 19 1 ∈ y.devices)))) ∧
      (open_ → zeroOk c [(128, 42)] = true → f 16 1 ≤ 6 → f 17 1 ≤ 63 → f 18 2 ≤ 511 → f 20 1 ≤ 63 →
        gives (.irqMap c) 0 (fun u =>
          let e : BitVec 32 := Tab.getD u.remap ((vd * 8 + f 16 1) * 64 + f 17 1) 0
          e.getLsbD 31 = (cmdBits c 168 1 == 1) ∧ e.getLsbD 30 = (cmdBits c 169 1 == 1) ∧
            (slice e 6 9 : BitVec 9).toNat = f 18 2 ∧ (slice e 0 6 : BitVec 6).toNat = f 20 1)) ∧
      (zeroOk c [(128, 17)] = true →
        gives (.ctrGrant c) 0 (vdIs (fun x => x.ports = v.ports ||| BitVec.ofNat 16 (f 16 2))) ∧
        gives (.ctrRevoke c) 0 (vdIs (fun x => x.ports = v.ports &&& ~~~(BitVec.ofNat 16 (f 16 2))))) ∧
      (zeroOk c [(128, 64)] = true → (∀ r ∈ s.mgmt.runs, r.cmd ≠ c) →
        gives (.status c) v.drops (fun u =>
          let e := leNat (cellsGet u.host (f 16 8) 64)
          e % 2 ^ 9 = vd ∧ e / 2 ^ 9 % 2 ^ 3 = v.st.num)))

/-- R459, R462, R464, R466, R478 to R482, R485 to R488, R512: what becomes of a virtual device: created, started, stopped, killed by a
command, the watchdog, a function reset or a memory error, and brought back with a new incarnation; and its live
migration.
Model choices in it: log entries 58, 59, 60, 62 and 117. -/
def Obligations.LifeOfAVirtualDevice : Prop :=
  ∀ (s : State) (c : BitVec 512),
    let f := cmdField c
    let tells (u : State) (result : Nat) : Prop := u.answer = leBytes result 4 ++ leBytes 0 4
    let dies (j : Instr) (vd : Nat) (why : KillFor) : Prop :=
      ∃ u v', exec j s = .next u ∧ Tab.get? u.vds vd = some v' ∧ v'.st = .killing ∧ v'.killFor = some why ∧ v'.dlog = false ∧
        v'.tdi = .error ∧ ∀ x, x < 64 → ∃ k, u.ctx? vd x = some k ∧ k.running = false ∧ k.faulted = true ∧ k.used = true
    let stopped (u : State) (vd x : Nat) : Prop := ∀ k, s.ctx? vd x = some k →
      ∃ k', u.ctx? vd x = some k' ∧ (s.contextWgs vd x = [] → k'.running = false) ∧ (s.contextWgs vd x ≠ [] → k'.stopping = true)
    (∀ v', cmdVd c ≠ 0 → zeroOk c pbBits = true → (Tab.getD s.vds (cmdVd c) VDev.free).st = .free →
      VDev.withParams { VDev.free with
        st := .creating, inc := (Tab.getD s.vds (cmdVd c) VDev.free).inc, tdi := (Tab.getD s.vds (cmdVd c) VDev.free).tdi } c = some v' →
      ({ s with vds := Tab.put s.vds (cmdVd c) v' } : State).buffersFit = true →
      s.minspOthers (cmdVd c) + v'.minsp ≤ s.populatedSps →
      v'.st = .creating ∧ ∃ u, exec (.vdCreate c) s = .next u ∧ tells u v'.inc.toNat ∧ Tab.get? u.vds (cmdVd c) = some v') ∧
    (∀ v, cmdVd c ≠ 0 → Tab.get? s.vds (cmdVd c) = some v →
      let vd := cmdVd c
      let lives := v.st = .ready ∨ v.st = .running
      let open_ := v.tdi ≠ .locked ∧ v.tdi ≠ .run
      (lives → zeroOk c [(128, 64)] = true → v.mkey ≠ 0 → v.fpart = 0 → v.fstep = 0 → s.minspOthers vd + v.minsp ≤ s.populatedSps →
        (∀ x k, s.ctx? vd x = some k → k.saved = .no) →
        ∃ u v', exec (.vdStart c) s = .next u ∧ tells u 5 ∧ Tab.get? u.vds vd = some v' ∧ v'.st = .running ∧
          ∀ x k, x < 64 → inMask c x = true → s.ctx? vd x = some k →
            (∃ k', u.ctx? vd x = some k' ∧ k'.running = k.enable ∧ k'.faulted = false) ∧
            ∀ q y, q < 64 → k.enable = true → Tab.get? s.queues (queueKey vd x q) = some y → y.enable = true →
              ∃ y', Tab.get? u.queues (queueKey vd x q) = some y' ∧ y'.on = true ∧
                (y.halt = .ctxfault ∨ y.halt = .killed ∨ y.halt = .stopped → y'.halt = .none)) ∧
      (v.st = .running → zeroOk c [(128, 64)] = true →
        ∃ u, exec (.vdStop c) s = .next u ∧ ∀ x, x < 64 → inMask c x = true → stopped u vd x) ∧
      (lives → zeroOk c [] = true → dies (.vdKill c) vd .kill ∧ dies (.vdReset c) vd .reset ∧ dies (.vdDestroy c) vd .destroy) ∧
      (v.st = .creating → zeroOk c [] = true →
        ∃ u v', exec (.vdDestroy c) s = .next u ∧ tells u v.inc.toNat ∧ Tab.get? u.vds vd = some v' ∧ v'.st = .free ∧
          v'.inc = v.inc) ∧
      (lives → open_ → zeroOk c migBits = true → (f 25 1 = 0 ∧ 6 ≤ f 24 1 ∧ f 24 1 ≤ 24) ∨ f 25 1 = 1 →
        ∃ u v', exec (.vdMigBegin c) s = .next u ∧ Tab.get? u.vds vd = some v' ∧ v'.dlog = true ∧ v'.mlog = f 16 8 ∧
          v'.bmap = (decide (f 25 1 = 1) || v.logovf) ∧ v'.logovf = false) ∧
      (v.st ≠ .free → v.dlog = true → open_ → zeroOk c [(128, 32)] = true →
        ∃ u v', exec (.vdMigRound c) s = .next u ∧ tells u v.logtail.toNat ∧ Tab.get? u.vds vd = some v' ∧
          v'.loghead = BitVec.ofNat 32 (f 16 4)) ∧
      (lives → v.dlog = true → open_ → zeroOk c [(128, 64)] = true →
        ∃ u, exec (.vdMigFinal c) s = .next u ∧ ∀ x, x < 64 → stopped u vd x) ∧
      (v.st = .ready → open_ → zeroOk c commitBits = true →
        dies (.vdMigCommitSource c) vd .destroy ∧
        (∃ u v', exec (.vdMigCommitAbort c) s = .next u ∧ tells u 0 ∧ Tab.get? u.vds vd = some v' ∧ v'.dlog = false) ∧
        (let r := cellsGet s.host (f 16 8) 544
         s.recordTag vd (r.take 528) = BitVec.ofNat 128 (leNat (r.drop 528)) →
         ∃ u, exec (.vdMigCommitImport c) s = .next u ∧ tells u 0 ∧ ∀ x k, x < 64 → s.ctx? vd x = some k →
           ∃ k', u.ctx? vd x = some k' ∧ k'.savectr = BitVec.ofNat 64 (leNat ((r.drop (8 * x)).take 8)) ∧ k'.used = false))) ∧
    (∀ vd v, Tab.get? s.vds vd = some v →
      (v.st = .ready ∨ v.st = .running →
        dies (.vfFlr vd) vd .reset ∧
        (v.st = .running → v.wdog ≠ 0 → s.hasWork vd = true → v.progress + 1300000 * v.wdog ≤ s.clock →
          dies (.watchdogExpire vd) vd .watchdog) ∧
        (∀ a, a / 65536 < 0x1400000 → fotOwner (s.fotOf (a / 65536)) = vd → dies (.uncorrectableMemoryError a) vd .kill)) ∧
      (let stage (st : VdState) : Prop :=
        ∃ u v', exec (.killDrainComplete vd) s = .next u ∧ Tab.get? u.vds vd = some v' ∧ v'.st = st
       let due := v.scrubk = true ∨ v.killFor = some .destroy
       (v.st = .killing → stage .draining) ∧ (v.st = .draining → due → stage .scrubbing) ∧
       (v.st = .draining → ¬due → stage .resetting) ∧ (v.st = .scrubbing → stage .resetting)) ∧
      (v.st = .resetting → v.racks = [] →
        ∃ u v', exec (.reincarnationComplete vd) s = .next u ∧ Tab.get? u.vds vd = some v' ∧ v'.inc = v.inc + 1 ∧
          v'.st = if v.killFor = some .destroy then .free else .ready)) ∧
    (∀ a, a / 65536 < 0x1400000 → ∃ u, exec (.uncorrectableMemoryError a) s = .next u ∧ (u.fotOf (a / 65536)).getLsbD 28 = true)

/-! ## The world around the device (R26, R451 to R455, R460, R467, R468, R473, R476, R505 to R515) -/

/-- R454, R455, R473, R476, R515: invalidations from the host, the migration lock, the sweep of a pending-zero page, and what
slows or stops the package.
Model choices in it: log entries 52, 104, 119, 121 and 129. -/
def Obligations.PlatformEvents : Prop :=
  ∀ (s : State),
    (∀ vd ctx c va n, s.ctx? vd ctx = some c →
      let lo := vaOf va / 4096 * 4096
      ∃ u, exec (.atsInvalidation vd ctx va n) s = .next u ∧
        (∀ e ∈ u.tlb, e.die = false → e.vd = vd → e.pasid = c.pasid → ¬(e.base < lo + 4096 * n ∧ lo < e.base + e.size)) ∧
        (s.contextBusy vd ctx lo (4096 * n) = false → (vd, ctx, lo, 4096 * n) ∉ u.atsWait) ∧
        (s.contextBusy vd ctx lo (4096 * n) = true → (vd, ctx, lo, 4096 * n) ∈ u.atsWait) ∧
        SameGlobal s u) ∧
    (∀ frame,
      let e := s.fotOf frame
      let ask (host : Bool) (code : Byte) (p : State → Prop) : Prop :=
        ∃ u, exec (.migrationLockRequest frame host (!host)) s = .next u ∧ u.answer = [code] ∧ p u
      (∀ host, (e.getLsbD 30 = false → s.heldOff frame host = false → ask host 0 (fun u => (u.fotOf frame).getLsbD 30 = true ∧
            (host = true → (u.fotOf frame).getLsbD 29 = true))) ∧
          (e.getLsbD 30 = false → s.heldOff frame host = true → ask host 2 (fun u => u.fotOf frame = e)) ∧
          (e.getLsbD 30 = true → e.getLsbD 29 = host → ask host 3 (fun u => u.fotOf frame = e)) ∧
          (e.getLsbD 30 = true → e.getLsbD 29 = !host → ask host 1 (fun u => u.heldOff frame host = true))) ∧
      (∃ u, exec (.migrationDone frame) s = .next u ∧ (u.fotOf frame).getLsbD 30 = false ∧ (u.fotOf frame).getLsbD 29 = false ∧
        fotOwner (u.fotOf frame) = fotOwner e) ∧
      (∀ host, s.heldOff frame host = false →
        ∃ u, exec (.migrationHoldoffExpire frame host) s = .next u ∧ Tab.get? u.holdoff (2 * frame + if host then 1 else 0) = none) ∧
      (∀ page, s.sweepNext (sweepRegion frame) = some (frame, page) →
        ∃ u, exec (.scrubSweepPage frame page) s = .next u ∧ u.pendingAt (frame * 65536 + page * 4096) = false ∧
          fotOwner (u.fotOf frame) = fotOwner e ∧ ((∀ e ∈ s.vds, e.2.dlog = false) → SameGlobal s u))) ∧
    (∀ vd v, Tab.get? s.vds vd = some v → v.pcap ≠ 0 → v.pcap < v.power →
      ∃ u, exec (.pcapExceeded vd) s = .next u ∧ Tab.get? u.vds vd = some { v with capped := true }) ∧
    (∃ u, exec .plimitExceeded s = .next u ∧ u.boot.throttle = (s.boot.throttle || decide (s.boot.limit < s.boot.pnow)) ∧
      { u with boot := s.boot } = s) ∧
    (∀ on, exec (.thermalThrottle on) s = .next { s with boot := { s.boot with hot := on } }) ∧
    (∀ j, j = .undervoltageStop ∨ j = .overtempStop →
      ∃ u, exec j s = .next u ∧ u.boot.up = false ∧ u.boot.supplied = false ∧ u.boot.session = none ∧ u.boot.copyA = s.boot.copyA ∧
        u.boot.copyB = s.boot.copyB ∧ u.vds = [] ∧ u.waves = [] ∧ u.mem = [] ∧ u.host = s.host)

/-- R451, R452, R460, R467, R468, R505 to R515: what the host does: kicks and fault answers, register writes, accesses through its
apertures, resets and starts, and the security protocols.
Model choices in it: log entries 30, 59, 65, 66, 120 and 122. -/
def Obligations.HostEvents : Prop :=
  ∀ (s : State),
    (∀ vd v, Tab.get? s.vds vd = some v → s.vfTakes vd = true →
      (∀ (q : Nat) (val : BitVec 64) x,
        let ctx := (slice val 58 6 : BitVec 6).toNat
        let tail : BitVec 32 := slice val 0 32
        v.st.dying = false → q < 64 → Tab.get? s.queues (queueKey vd ctx q) = some x → x.on = true →
        (x.halt ≠ .none → (tail - x.head).toNat ≤ x.size → ∃ u, exec (.kick vd q val) s = .next u ∧
          Tab.get? u.queues (queueKey vd ctx q) = some { x with tail := tail }) ∧
        (x.halt = .none → (tail - x.head).toNat ≤ x.size → ∃ u y, exec (.kick vd q val) s = .next u ∧
          Tab.get? u.queues (queueKey vd ctx q) = some y ∧ y.tail = tail ∧ y.head = x.head ∧ y.halt = .none ∧
          y.active = (tail != x.head)) ∧
        (x.size < (tail - x.head).toNat → ∃ u y, exec (.kick vd q val) s = .next u ∧
          Tab.get? u.queues (queueKey vd ctx q) = some y ∧ y.halt = .recbad)) ∧
      (∀ ctx (val : BitVec 64) c, s.ctx? vd ctx = some c →
        (∃ u c', exec (.faultHead vd ctx val) s = .next u ∧ u.ctx? vd ctx = some c' ∧
          c'.fqHead = c.fqTail - (BitVec.ofNat 32 c.fqTail - slice val 0 32).toNat) ∧
        (let page := (slice val 12 45 : BitVec 45).toNat
         let r := (slice val 0 2 : BitVec 2).toNat
         r ≤ 1 → (∃ f ∈ c.faults, f.va / 4096 = page ∧ f.src ≠ 7 ∧ f.posted = true) →
         ∃ u c', exec (.faultAnswer vd ctx val) s = .next u ∧ u.ctx? vd ctx = some c' ∧
           (∀ f ∈ c'.faults, f.src ≠ 7 → f.va / 4096 ≠ page) ∧ (c'.refused.any (fun e => e.page == page) = true ↔ r = 1))) ∧
      (s.dir = [] → ∀ off n, 1 ≤ n → n ≤ 8 → off + n ≤ 2 ^ s.bar4Log vd →
        let at_ (i : Nat) : Option Nat :=
          ((s.framesOf vd)[(off + i) / 65536]?).map (fun f => f * 65536 + (off + i) % 65536)
        (∃ u, exec (.bar4Access vd off n none) s = .next u ∧ SameGlobal s u ∧
          u.answer = (List.range n).map (fun i => match at_ i with | some a => s.readLoc ⟨.dev, a⟩ | none => 0xFF)) ∧
        (∀ val a, at_ 0 = some a → ∃ u, exec (.bar4Access vd off 1 (some val)) s = .next u ∧
          u.readLoc ⟨.dev, a⟩ = slice val 0 8))) ∧
    (s.boot.up = true → s.dir = [] → ∀ addr n, n ≤ 8 →
      ∃ u, exec (.cxlMemAccess addr n none) s = .next u ∧ SameGlobal s u ∧
        u.answer.length = n ∧ ∀ i b, u.answer[i]? = some b → fotOwner (s.fotOf ((addr + i) / 65536)) ≠ 0 → b = 0xFF) ∧
    (s.boot.up = true → ∀ val : BitVec 64,
      exec (.registerWrite 0 0 0x010 val) s = .next { s with mgmt := { s.mgmt with tail := slice val 0 32 } } ∧
      exec (.registerWrite 0 0 0x1100 val) s = .next { s with boot := { s.boot with plimit := (slice val 0 12 : BitVec 12).toNat } } ∧
      (s.mgmt.head = s.mgmt.tail →
        exec (.registerWrite 0 0 0x000 val) s = .next { s with mgmt := { s.mgmt with base := val.toNat / 64 * 64 } })) ∧
    (∀ (t : BootTests) (j : Instr) (cold : Bool),
      (j = .coldStart t ∧ cold = true) ∨ (j = .perst t ∧ cold = false ∧ s.boot.supplied = true) →
      let x := runStart (BootRec.of s.boot.record) cold s.boot t
      ∃ u, exec j s = .next u ∧ u.boot.up = !x.ended ∧ u.boot.recovery = x.fatal ∧ (x.ended = false → u.boot.rcd = x.r.bits) ∧
        (u.boot.copyA = x.r.bits ∨ u.boot.copyB = x.r.bits) ∧ u.boot.session = none ∧ u.vds = [] ∧ u.waves = [] ∧ u.mem = [] ∧
        u.host = s.host ∧ u.devid = s.devid) ∧
    (∀ t, s.boot.supplied = true →
      let alive := s.vds.any (fun e => e.2.st == .ready || e.2.st == .running || e.2.st.dying)
      (alive = false → ∃ u, exec (.pfFlr t) s = .next u ∧ (∀ e ∈ u.vds, e.2.st = .free) ∧ u.waves = [] ∧ u.mem = [] ∧
        u.boot.session = none) ∧
      (alive = true → ∃ u, exec (.pfFlr t) s = .next u ∧ u.boot.flr = some t ∧
        ∀ vd v, Tab.get? s.vds vd = some v → v.st = .ready ∨ v.st = .running →
          ∃ v', Tab.get? u.vds vd = some v' ∧ v'.st = .killing)) ∧
    (∃ u bs, exec .getMeasurements s = .next u ∧ u.answer = bs ++ Config.sign bs ∧
      bs = Config.measurement 1 ++ Config.measurement (if (BootRec.of s.boot.rcd).fwSlot.getLsbD 0 then 5 else 2) ++
        Config.measurement 3 ++ Config.sha256 s.capBytes) ∧
    (∀ secret, exec (.keyExchange secret) s = .next { s with boot := { s.boot with session := some secret } }) ∧
    (∀ n key, (s.boot.session ≠ none → ∃ u, exec (.ideKm n key) s = .next u ∧ Tab.get? u.boot.ide n = some key) ∧
      (s.boot.session = none → exec (.ideKm n key) s = .next s)) ∧
    (∀ vd v, Tab.get? s.vds vd = some v →
      let moves (j : Instr) (t : Tdi) : Prop := ∃ u, exec j s = .next u ∧ Tab.get? u.vds vd = some { v with tdi := t }
      (v.st ≠ .free → v.tdi = .unlocked → moves (.lockInterface vd) .locked) ∧
      (v.tdi = .locked → moves (.startInterface vd) .run) ∧ moves (.stopInterface vd) .unlocked ∧
      (vd < 512 → ∃ u, exec (.getDeviceInterfaceReport vd) s = .next u ∧ u.answer.length = 16448 ∧
        leNat (u.answer.take 64) % 512 = vd ∧
        ∀ w, w < 1024 → (u.answer.drop (64 + 16 * w)).take 16 = leBytes (Tab.getD v.windows w 0).toNat 16))

/-! ## The machine as a whole -/

/-- R33, R460, R474, R514: what reset leaves: the clock at 0, the command-ring registers at 0, every frame pending-zero, not
locked, not retired and unowned, PLIMIT at 3,000 and the power and temperature readings at 0; no virtual device and no
wave. The memories are in their canonical form, the invariant of `StepKeepsMemoryCanonical`. That a byte nothing has
written reads as 0 is the model's choice (log entry 2). -/
def Obligations.ResetState : Prop :=
  let s := State.reset
  s.clock = 0 ∧
  (s.mgmt.base = 0 ∧ s.mgmt.size = 0 ∧ s.mgmt.tail = 0 ∧ s.mgmt.head = 0 ∧ s.mgmt.vec = 0) ∧
  (∀ f, (s.fotOf f).getLsbD 31 = true ∧ (s.fotOf f).getLsbD 30 = false ∧ (s.fotOf f).getLsbD 29 = false ∧
    (s.fotOf f).getLsbD 28 = false ∧ (slice (s.fotOf f) 10 16 : BitVec 16) = 0 ∧ fotOwner (s.fotOf f) = 0) ∧
  (s.boot.plimit = 3000 ∧ s.boot.pnow = 0 ∧ s.boot.penergy = 0 ∧ s.boot.temp = 0) ∧
  s.vds = [] ∧ s.waves = [] ∧ s.wgs = [] ∧
  s.MemOk ∧ (∀ l : Loc, s.readLoc l = 0) ∧ (∀ a, cellGet s.scratch a = 0)

/-- Every step keeps the memories (device, host, peer lines, scratchpads) in canonical form, so that equal memories are
equal data. -/
def Obligations.StepKeepsMemoryCanonical : Prop := ∀ s t : State, s.MemOk → Steps s t → t.MemOk

/-- Every well-formed instruction of the core has words: one, or two where the first carries the tag of an X word; and the
decoder gives the instruction back from them, with every operand at every value that the encoding admits. An event or a
command has no words. -/
def Obligations.DecodeOfEncode : Prop :=
  (∀ i : Instr, hasWords i = true → i.wellFormed = true →
    ∃ (w : BitVec 64) (r : List (BitVec 64)),
      encode i = w :: r ∧ 8 * (r.length + 1) = wordLen w ∧ decode w r.head? = some i) ∧
  (∀ i : Instr, hasWords i = false → encode i = [])

/-- The words that spec/ writes out with their instructions (R83 and the worked encodings after R94, R108, R170, R188,
R213, R250, R261, R294, R350, R401, R433, R499). -/
def Obligations.DecodeSampleWords : Prop :=
  let h : Hdr := ⟨⟨false, 7⟩, false⟩
  decode 0x28000A0688000001 none = some (.iadd ⟨⟨true, 2⟩, true⟩ (.v 5) (.v 3) (.s 4) false false) ∧
  decode 0x9C00929310000000 (some 0xC000000012345678) = some (.iadd h (.s 9) (.s 9) (.lit 0x12345678) false false) ∧
  decode 0x5C00283C83880102 none =
    some (.pairWord ⟨false, 7⟩ .iadd 1 (.s 1) (.iconst 36) .fmul 8 (.v 1) (.v 2)) ∧
  decode 0x1C1C0007D4004020 none = some (.icmp h 1 (.v 3) (.iconst 42) .lt false .set) ∧
  decode 0x1CC60602048E0482 none =
    some (.ffma h (.v 3) (.v 1) (.v 2) (.s 7) ⟨false, true⟩ ⟨false, false⟩ ⟨false, false⟩ ⟨some .rz, false, false⟩) ∧
  decode 0x058000000001FFEC none = some (.bra ⟨⟨false, 1⟩, false⟩ (.off 0x3FFD) false true) ∧
  decode 0x1E000C8800040080 none = some (.ld h (.v 6) ⟨.s 4, .v 2⟩ .b32 false false none) ∧
  decode 0x1E800E89C3C00096 none = some (.atom h (.v 7) ⟨.s 4, .iconst 32⟩ (.iconst 33) .add .b32 .none (some .dev)) ∧
  decode 0x1ECA008899C1C016 none = some (.cntwt h ⟨.s 4, .iconst 32⟩ (.s 12) false none (some .dev)) ∧
  decode 0x1F008C8491C2104A none = some (.jcopy h (.s 2) ⟨some 6, some 8, .iconst 33, .scratch, 0, some .wg⟩) ∧
  decode 0x1F62009093C00062 none = some (.rflush h ⟨.s 8, .iconst 32⟩ (.s 9) true (some .ten)) ∧
  decode 0x1F208A91E0980000 none = some (.kvapp h 5 (.s 8) (.iconst 48) (.s 12) none) ∧
  decode 0x1F900089E1C00016 none = some (.tlbinv h ⟨.s 4, .iconst 32⟩ (.iconst 48) (some .dev)) ∧
  decode 0x1FC0A5C200000000 none = some (.pmrd h 18 (.iconst 33))

/-- R54, R69 to R71: A STEP RUNS THE DECODED INSTRUCTION. On a device that is up, with nothing from outside to come first and
the turn with the waves, a step issues the instruction whose words the next wave has fetched: it is executed for that wave,
its issue is counted (before it, but after PMRD, R500), and the bookkeeping of the issue and of the cycle follows; an
instruction that a speculation only makes stall (R376) counts one stalled cycle and no issue; words that decode to nothing
raise ILLENC. With no queue, loop buffer or cache in between, the words of an F or P word are the
eight bytes, little-endian, at the place of the wave's PC. What comes from outside comes first.
Model choices in it: log entries 5 and 13. -/
def Obligations.StepRunsDecodedInstruction : Prop :=
  ∀ (s : State), s.boot.up = true →
    (∀ i r, s.agenda = i :: r → step s = Res.andThen (exec i { s with agenda := r, cur := none }) (fun u => u.tick s)) ∧
    (s.agenda = [] → (s.clock % 2 = 1 ∨ s.nextEvent = none) →
      ∀ (k : Nat) (f : Fetch) (t : State) (w : Wave), s.nextIssue = .issue k f t → Tab.get? t.waves k = some w →
        (∀ i, decode f.w f.w2 = some i → t.onlyStalls k w i = true →
          step s = Res.andThen (exec i { t with cur := some k })
            (fun u => State.tick { u.countSp (spOf k) 3 1 with cur := none } s)) ∧
        (∀ i, decode f.w f.w2 = some i → t.onlyStalls k w i = false →
          let at_ : State := { (if isPmrd i then t else t.countIssued k f) with cur := some k }
          let after (u : State) : State := (if isPmrd i then u.countIssued k f else u).afterIssue k w f (isYield i)
          step s = Res.andThen (exec i at_) (fun u => (after u).tick s)) ∧
        (decode f.w f.w2 = none →
          step s = .next ((((t.countIssued k f).raise k (mkTrap .illenc w.active f.pc)).afterIssue k w f false).tick s))) ∧
    (∀ (k : Nat) (w : Wave) (pc : BitVec 64) (l : Loc) (t : State),
      let g := s.agentOf k w 5
      let x : DWord := BitVec.ofNat 64 (leNat (t.readBytes l 8))
      w.ahead = [] → canonical pc = true → s.loopWord (spOf k) g pc.toNat = none → s.xlate g (vaOf pc) false = (.at l, t) →
      l.space ≠ .fab → Tab.get? t.icache (icKey (coreOf k) l) = none → wordTag x ≠ 2 →
      s.fetchFor k w pc = .got ⟨pc, x, none⟩
        (State.fillWords { t with icache := Tab.put t.icache (icKey (coreOf k) l) ⟨g.vd, x⟩ } (coreOf k) g.vd l))
end

