-- ==== Sys2Proof/Laws/Tab.lean ====
section
/-! SUPPORT. Laws/Tab.lean: what reading, writing and removing an entry of a table do, and that they keep the canonical
form. -/

namespace Sys2Proof.Machine

variable {α : Type}

@[simp] theorem Tab.get?_nil (k : Nat) : Tab.get? ([] : Tab α) k = none := rfl

theorem Tab.get?_cons (j : Nat) (v : α) (r : Tab α) (k : Nat) :
    Tab.get? ((j, v) :: r) k = if j = k then some v else Tab.get? r k := rfl

/-- Removing a key leaves every other entry. -/
theorem Tab.get?_del (t : Tab α) (k j : Nat) : Tab.get? (Tab.del t k) j = if j = k then none else Tab.get? t j := by
  induction t with
  | nil => simp [Tab.del]
  | cons e r ih =>
    obtain ⟨i, v⟩ := e
    simp only [Tab.del] at ih ⊢
    rw [List.filter_cons]
    by_cases hi : i = k
    · subst hi
      simp only [bne_self_eq_false, Bool.false_eq_true, if_false, ih, Tab.get?_cons]
      split <;> rename_i h
      · rfl
      · rw [if_neg (fun e => h e.symm)]
    · have : (i != k) = true := by simpa using hi
      simp only [this, if_true, Tab.get?_cons, ih]
      split <;> split <;> simp_all

theorem Tab.get?_insertSorted (t : Tab α) (k j : Nat) (v : α) (h : Tab.get? t k = none) :
    Tab.get? (Tab.insertSorted t k v) j = if j = k then some v else Tab.get? t j := by
  induction t with
  | nil => simp [Tab.insertSorted, Tab.get?_cons, eq_comm]
  | cons e r ih =>
    obtain ⟨i, w⟩ := e
    rw [Tab.get?_cons] at h
    have hik : i ≠ k := fun e => by simp [e] at h
    rw [if_neg hik] at h
    simp only [Tab.insertSorted]
    split
    · simp only [Tab.get?_cons, eq_comm (a := k)]
    · simp only [Tab.get?_cons, ih h]
      split <;> rename_i hj
      · rw [if_neg (fun e => hik (hj.trans e))]
      · rfl

/-- A write is read back, and leaves every other entry. -/
theorem Tab.get?_put (t : Tab α) (k j : Nat) (v : α) :
    Tab.get? (Tab.put t k v) j = if j = k then some v else Tab.get? t j := by
  have h : Tab.get? (Tab.del t k) k = none := by simp [Tab.get?_del]
  rw [Tab.put, Tab.get?_insertSorted _ _ _ _ h, Tab.get?_del]
  split <;> simp_all

@[simp] theorem Tab.get?_put_self (t : Tab α) (k : Nat) (v : α) : Tab.get? (Tab.put t k v) k = some v := by
  simp [Tab.get?_put]

theorem Tab.get?_put_ne (t : Tab α) {k j : Nat} (v : α) (h : j ≠ k) : Tab.get? (Tab.put t k v) j = Tab.get? t j := by
  simp [Tab.get?_put, h]

theorem Tab.getD_put (t : Tab α) (k j : Nat) (v d : α) :
    Tab.getD (Tab.put t k v) j d = if j = k then v else Tab.getD t j d := by
  simp only [Tab.getD, Tab.get?_put]
  split <;> simp

/-- The same for a table that lists no default. -/
theorem Tab.getD_set [DecidableEq α] (t : Tab α) (k j : Nat) (v d : α) :
    Tab.getD (Tab.set d t k v) j d = if j = k then v else Tab.getD t j d := by
  unfold Tab.set
  split
  · rename_i h
    subst h
    simp only [Tab.getD, Tab.get?_del]
    split <;> simp
  · exact Tab.getD_put t k j v d

/-- The same where the default depends on the key. -/
theorem Tab.getD_setD [DecidableEq α] (t : Tab α) (k j : Nat) (v : α) (d : Nat → α) :
    Tab.getD (if v = d k then Tab.del t k else Tab.put t k v) j (d j) = if j = k then v else Tab.getD t j (d j) := by
  split
  · rename_i h
    simp only [Tab.getD, Tab.get?_del]
    split
    · rename_i hj; simp [hj, h]
    · rfl
  · exact Tab.getD_put t k j v (d j)

theorem Tab.get?_modify (t : Tab α) (k j : Nat) (f : α → α) :
    Tab.get? (Tab.modify t k f) j = if j = k then (Tab.get? t k).map f else Tab.get? t j := by
  unfold Tab.modify
  split
  · rename_i v h
    rw [Tab.get?_put, h]
    rfl
  · rename_i h
    split
    · simp_all
    · rfl

/-! ## The canonical form -/

theorem Tab.sorted_iff (t : Tab α) : Tab.sorted t = true ↔ t.Pairwise (fun a b => a.1 < b.1) := by simp [Tab.sorted]

theorem Tab.pairwise_del {t : Tab α} (h : t.Pairwise (fun a b => a.1 < b.1)) (k : Nat) :
    (Tab.del t k).Pairwise (fun a b => a.1 < b.1) := h.filter _

theorem Tab.mem_insertSorted {t : Tab α} {k : Nat} {v : α} {e : Nat × α} (h : e ∈ Tab.insertSorted t k v) :
    e = (k, v) ∨ e ∈ t := by
  induction t with
  | nil => simp_all [Tab.insertSorted]
  | cons x r ih =>
    obtain ⟨j, w⟩ := x
    simp only [Tab.insertSorted] at h
    split at h
    · simpa using h
    · rcases List.mem_cons.1 h with h | h
      · exact .inr (by simp [h])
      · rcases ih h with h | h
        · exact .inl h
        · exact .inr (List.mem_cons_of_mem _ h)

theorem Tab.pairwise_insertSorted {t : Tab α} (h : t.Pairwise (fun a b => a.1 < b.1)) (k : Nat) (v : α)
    (hk : ∀ e ∈ t, e.1 ≠ k) : (Tab.insertSorted t k v).Pairwise (fun a b => a.1 < b.1) := by
  induction t with
  | nil => simp [Tab.insertSorted]
  | cons x r ih =>
    obtain ⟨j, w⟩ := x
    obtain ⟨hj, hr⟩ := List.pairwise_cons.1 h
    simp only [Tab.insertSorted]
    split
    · rename_i hkj
      refine List.pairwise_cons.2 ⟨fun e he => ?_, h⟩
      rcases List.mem_cons.1 he with he | he
      · simpa [he] using hkj
      · exact lt_trans hkj (hj e he)
    · rename_i hkj
      have hjk : j < k := lt_of_le_of_ne (not_lt.1 hkj) (hk (j, w) (by simp))
      refine List.pairwise_cons.2 ⟨fun e he => ?_, ih hr (fun e he => hk e (List.mem_cons_of_mem _ he))⟩
      rcases Tab.mem_insertSorted he with he | he
      · simpa [he] using hjk
      · exact hj e he

theorem Tab.pairwise_put {t : Tab α} (h : t.Pairwise (fun a b => a.1 < b.1)) (k : Nat) (v : α) :
    (Tab.put t k v).Pairwise (fun a b => a.1 < b.1) :=
  Tab.pairwise_insertSorted (Tab.pairwise_del h k) k v (fun e he => by
    have := (List.mem_filter.1 he).2
    simpa using this)

/-- A write of an entry keeps the canonical form. -/
theorem Tab.wf_set [DecidableEq α] {d : α} {t : Tab α} (h : Tab.wf d t = true) (k : Nat) (v : α) :
    Tab.wf d (Tab.set d t k v) = true := by
  simp only [Tab.wf, Bool.and_eq_true, decide_eq_true_eq, List.all_eq_true] at h ⊢
  unfold Tab.set
  split
  · exact ⟨Tab.pairwise_del h.1 k, fun e he => h.2 e (List.mem_filter.1 he).1⟩
  · rename_i hv
    refine ⟨Tab.pairwise_put h.1 k v, fun e he => ?_⟩
    rcases Tab.mem_insertSorted he with he | he
    · simpa [he] using hv
    · exact h.2 e (List.mem_filter.1 he).1

/-- Taking entries away keeps the canonical form. -/
theorem Tab.wf_filter [DecidableEq α] {d : α} {t : Tab α} (h : Tab.wf d t = true) (p : Nat × α → Bool) :
    Tab.wf d (t.filter p) = true := by
  simp only [Tab.wf, Bool.and_eq_true, decide_eq_true_eq, List.all_eq_true] at h ⊢
  exact ⟨h.1.filter _, fun e he => h.2 e (List.mem_filter.1 he).1⟩

end Sys2Proof.Machine
end

