-- ==== Sys2Proof/Laws/Wave.lean ====
section
/-! SUPPORT. Laws/Wave.lean: lane masks, and what the registers, predicates, flags, generators and PCs of a wave read after
each write. -/

namespace Sys2Proof

/-! ## Lane masks -/

theorem Mask.has_lt {m : Mask} {l : Nat} (h : m.has l = true) : l < 32 := by
  by_contra hl
  simp [Mask.has, BitVec.getLsbD_of_ge m l (by omega)] at h

theorem Mask.mem_lanes {m : Mask} {l : Nat} : l ∈ m.lanes ↔ m.has l = true := by
  simp only [Mask.lanes, List.mem_filter, List.mem_range]
  exact ⟨fun h => h.2, fun h => ⟨Mask.has_lt h, h⟩⟩

theorem Mask.nodup_lanes (m : Mask) : m.lanes.Nodup := List.Nodup.filter _ List.nodup_range

theorem Mask.lowest_has {m : Mask} {l : Nat} (h : m.lowest = some l) : m.has l = true := List.find?_some h

theorem Mask.has_one (j l : Nat) (hl : l < 32) : (Mask.one j).has l = decide (l = j) := by
  simp only [Mask.one, Mask.has, BitVec.getLsbD_shiftLeft]
  by_cases h : l < j
  · simp [h, Nat.ne_of_lt h]
  · simp only [h, hl, decide_true, decide_false, Bool.not_false, Bool.true_and]
    by_cases h2 : l = j
    · simp [h2]
    · have : l - j ≠ 0 := by omega
      simp [h2, BitVec.getLsbD_one, this]

theorem Mask.has_foldl_one (f : Nat → Bool) (L : List Nat) (hL : ∀ x ∈ L, x < 32) (m : Mask) (l : Nat) (hl : l < 32) :
    (L.foldl (fun m j => if f j then m ||| Mask.one j else m) m).has l = (m.has l || (decide (l ∈ L) && f l)) := by
  induction L generalizing m with
  | nil => simp
  | cons a r ih =>
    rw [List.foldl_cons, ih (fun x hx => hL x (List.mem_cons_of_mem _ hx))]
    by_cases hf : f a = true
    · simp only [hf, if_true, Mask.has, BitVec.getLsbD_or]
      have h1 : (Mask.one a).getLsbD l = decide (l = a) := Mask.has_one a l hl
      rw [h1]
      by_cases hla : l = a
      · subst hla; simp [hf]
      · simp [hla, List.mem_cons]
    · simp only [hf, List.mem_cons]
      by_cases hla : l = a
      · subst hla; simp [hf]
      · simp [hla]

@[simp] theorem Mask.has_ofFn (f : Nat → Bool) (l : Nat) : (Mask.ofFn f).has l = (decide (l < 32) && f l) := by
  by_cases hl : l < 32
  · rw [Mask.ofFn, Mask.has_foldl_one f _ (fun x hx => List.mem_range.1 hx) _ l hl]
    simp [Mask.has, hl]
  · simp [Mask.has, BitVec.getLsbD_of_ge _ l (by omega : 32 ≤ l), hl]

theorem Mask.lowest_none {m : Mask} : m.lowest = none ↔ m = 0 := by
  constructor
  · intro h
    have h2 := List.find?_eq_none.1 h
    apply BitVec.eq_of_getLsbD_eq
    intro i hi
    simpa [Mask.has] using h2 i (List.mem_range.2 hi)
  · rintro rfl
    apply List.find?_eq_none.2
    intro x _
    simp [Mask.has]

end Sys2Proof

namespace Sys2Proof.Machine

open Sys2Proof

/-! ## Registers -/

theorem Wave.getV_setV (w : Wave) (n l r j : Nat) (x : Word) (hl : l < 32) (hj : j < 32) :
    (w.setV n l x).getV r j = if r = n ∧ j = l then x else w.getV r j := by
  simp only [Wave.setV, Wave.getV, Tab.getD_set]
  have : (32 * r + j = 32 * n + l) ↔ (r = n ∧ j = l) := by omega
  simp only [this]

theorem Wave.getS_setS (w : Wave) (n r : Nat) (x : Word) : (w.setS n x).getS r = if r = n then x else w.getS r := by
  simp only [Wave.setS, Wave.getS, Tab.getD_set]

theorem Wave.getP_setP (w : Wave) (n q : Nat) (m : Mask) :
    (w.setP n m).getP q = if q = n ∧ n ≠ 7 then m else w.getP q := by
  simp only [Wave.setP]
  by_cases h : n = 7
  · simp [h]
  · simp only [h, if_false, Wave.getP, Tab.getD_set, ne_eq, not_false_eq_true, and_true]
    by_cases hq : q = n
    · subst hq; simp [h]
    · simp [hq]

/-- A vector destination set in one lane. -/
theorem Wave.getV_putV (w : Wave) (n l r j : Nat) (wide : Bool) (x : DWord) (hl : l < 32) (hj : j < 32) :
    (w.putV n l wide x).getV r j =
      if r = n ∧ j = l then slice x 0 32 else if wide = true ∧ r = n + 1 ∧ j = l then slice x 32 32 else w.getV r j := by
  cases wide
  · simp [Wave.putV, Wave.getV_setV _ _ _ _ _ _ hl hj]
  · simp only [Wave.putV, if_true, Wave.setVw, Wave.getV_setV _ _ _ _ _ _ hl hj]
    by_cases h1 : r = n ∧ j = l
    · have : ¬ (r = n + 1 ∧ j = l) := by omega
      simp [h1]
    · by_cases h2 : r = n + 1 ∧ j = l <;> simp [h1, h2]

theorem Wave.getS_putS (w : Wave) (n r : Nat) (wide : Bool) (x : DWord) :
    (w.putS n wide x).getS r =
      if r = n then slice x 0 32 else if wide = true ∧ r = n + 1 then slice x 32 32 else w.getS r := by
  cases wide
  · simp [Wave.putS, Wave.getS_setS]
  · simp only [Wave.putS, if_true, Wave.setSw, Wave.getS_setS]
    by_cases h1 : r = n
    · subst h1; simp
    · by_cases h2 : r = n + 1 <;> simp [h1, h2]

/-- The lanes of a list written, each with its own result. -/
theorem Wave.getV_foldl_putV (L : List Nat) (hL : ∀ x ∈ L, x < 32) (w : Wave) (n r j : Nat) (wide : Bool)
    (val : Nat → DWord) (hj : j < 32) :
    ((L.map (fun l => (l, val l))).foldl (fun (w : Wave) (e : Nat × DWord) => w.putV n e.1 wide e.2) w).getV r j =
      if j ∈ L then
        (if r = n then slice (val j) 0 32 else if wide = true ∧ r = n + 1 then slice (val j) 32 32 else w.getV r j)
      else w.getV r j := by
  induction L generalizing w with
  | nil => simp
  | cons a t ih =>
    rw [List.map_cons, List.foldl_cons, ih (fun x hx => hL x (List.mem_cons_of_mem _ hx))]
    rw [Wave.getV_putV _ _ _ _ _ _ _ (hL a List.mem_cons_self) hj]
    by_cases hja : j = a
    · subst hja
      by_cases hr : r = n
      · by_cases hm : j ∈ t <;> simp [hr, hm]
      · by_cases hw : wide = true ∧ r = n + 1 <;> by_cases hm : j ∈ t <;> simp [hr, hm, hw]
    · by_cases hm : j ∈ t <;> simp [hja, hm]

theorem Wave.putV_others (w : Wave) (n l : Nat) (wide : Bool) (x : DWord) :
    w.putV n l wide x = { w with v := (w.putV n l wide x).v } := by
  cases wide <;> simp only [Wave.putV, Wave.setVw, Wave.setV, if_true, Bool.false_eq_true, if_false]

/-- Writes of vector registers touch nothing else of the wave. -/
theorem Wave.foldl_putV_others (L : List (Nat × DWord)) (w : Wave) (n : Nat) (wide : Bool) :
    L.foldl (fun (w : Wave) (e : Nat × DWord) => w.putV n e.1 wide e.2) w =
      { w with v := (L.foldl (fun (w : Wave) (e : Nat × DWord) => w.putV n e.1 wide e.2) w).v } := by
  induction L generalizing w with
  | nil => rfl
  | cons a t ih =>
    rw [List.foldl_cons, ih]
    generalize (List.foldl (fun (w : Wave) (e : Nat × DWord) => w.putV n e.1 wide e.2) (w.putV n a.1 wide a.2) t).v = x
    rw [Wave.putV_others]

theorem Wave.putS_others (w : Wave) (n : Nat) (wide : Bool) (x : DWord) :
    w.putS n wide x = { w with s := (w.putS n wide x).s } := by
  cases wide <;> simp only [Wave.putS, Wave.setSw, Wave.setS, if_true, Bool.false_eq_true, if_false]

/-! ## Flags and generators -/

theorem Wave.flagsOf_addFlags (w : Wave) (l j : Nat) (f : BitVec 7) :
    (w.addFlags l f).flagsOf j = if j = l then w.flagsOf l ||| f else w.flagsOf j := by
  simp only [Wave.addFlags, Wave.flagsOf, Tab.getD_set]

theorem Wave.seedOf_setSeed (w : Wave) (l j : Nat) (z : Word) :
    (w.setSeed l z).seedOf j = if j = l then z else w.seedOf j :=
  Tab.getD_setD w.seed l j z (laneSeed 0)

/-! ## Program counters -/

theorem Wave.getD_foldl_put (L : List Nat) (f : Nat → BitVec 64) (t : Tab (BitVec 64)) (l : Nat) :
    Tab.getD (L.foldl (fun t l => Tab.put t l (f l)) t) l 0 = if l ∈ L then f l else Tab.getD t l 0 := by
  induction L generalizing t with
  | nil => simp
  | cons a r ih =>
    rw [List.foldl_cons, ih, Tab.getD_put]
    by_cases h : l = a
    · subst h; simp
    · simp [h]

@[simp] theorem Wave.pcOf_goto (w : Wave) (m : Mask) (p : BitVec 64) (l : Nat) :
    (w.goto m p).pcOf l = if m.has l then p else w.pcOf l := by
  have h := Wave.getD_foldl_put m.lanes (fun _ => p) w.pc l
  simp only [Mask.mem_lanes] at h
  exact h

@[simp] theorem Iss.pcOf_step (i : Iss) (w : Wave) (l : Nat) :
    (i.step w).pcOf l = if i.act.has l then i.next else w.pcOf l := Wave.pcOf_goto w i.act i.next l

end Sys2Proof.Machine
end

