-- ==== Sys2Proof/Laws/Alu.lean ====
section
/-! SUPPORT. Laws/Alu.lean: what the shared drivers of the ALU-class instructions do, said once: a ready instruction executes,
and its wave is changed as `AluDone` says. -/

namespace Sys2Proof.Machine

open Sys2Proof

/-! ## Latches -/

theorem getD_latchList (f : Nat → DWord) (L : List Nat) (l : Nat) :
    Tab.getD (L.filterMap (fun j => if f j = 0 then none else some (j, f j))) l 0 = if l ∈ L then f l else 0 := by
  induction L with
  | nil => simp [Tab.getD]
  | cons a r ih =>
    rw [List.filterMap_cons]
    by_cases ha : f a = 0
    · simp only [ha, if_true, ih, List.mem_cons]
      by_cases hl : l = a
      · subst hl; simp [ha]
      · simp [hl]
    · simp only [ha, if_false, List.mem_cons]
      by_cases hl : a = l
      · subst hl; simp [Tab.getD, Tab.get?_cons]
      · have : l ≠ a := fun e => hl e.symm
        simp only [Tab.getD, Tab.get?_cons, hl, if_false, this, false_or] at ih ⊢
        exact ih

theorem getD_latchOf (f : Nat → DWord) (l : Nat) : Tab.getD (latchOf f) l 0 = if l < 32 then f l else 0 := by
  rw [latchOf, getD_latchList]; simp

theorem get?_results (L : List Nat) (val : Nat → DWord) (l : Nat) :
    Tab.get? (L.map (fun j => (j, val j))) l = if l ∈ L then some (val l) else none := by
  induction L with
  | nil => simp
  | cons a r ih =>
    simp only [List.map_cons, Tab.get?_cons, ih, List.mem_cons]
    by_cases h : a = l
    · subst h; simp
    · have : l ≠ a := fun e => h e.symm
      simp [h, this]

/-! ## The result taken -/

/-- The results that an instruction hands over: one per lane written, or the one of a scalar form. -/
def resultsOf (i : Iss) (d : Dst) (wr : Mask) (val : Nat → DWord) : Tab DWord :=
  if d.scalar then (match i.part.lowest with | some l => [(0, val l)] | none => [])
  else wr.lanes.map (fun l => (l, val l))

theorem atWidth_slices (wide : Bool) (x : DWord) :
    (if wide then (slice x 32 32 ++ slice x 0 32 : BitVec 64) else (slice x 0 32).setWidth 64) = atWidth wide x := by
  cases wide
  · simp [atWidth]
  · simp only [atWidth, if_true]
    apply BitVec.eq_of_getLsbD_eq
    intro k hk
    simp only [slice, BitVec.getLsbD_append, BitVec.getLsbD_extractLsb']
    by_cases h : k < 32
    · simp [h]
    · have h1 : k - 32 < 32 := by omega
      have h2 : 32 + (k - 32) = k := by omega
      simp [h, h1, h2]

theorem Wave.writeDst_others (w : Wave) (d : Dst) (wide : Bool) (rs : Tab DWord) :
    w.writeDst d wide rs = { w with v := (w.writeDst d wide rs).v, s := (w.writeDst d wide rs).s } := by
  cases d with
  | v n =>
    simp only [Wave.writeDst]
    rw [Wave.foldl_putV_others]
  | s n =>
    cases rs with
    | nil => rfl
    | cons e r =>
      simp only [Wave.writeDst]
      rw [Wave.putS_others]
  | latchV => rfl
  | latchS => rfl

/-- The wave after a result: what each register, latch, flag and PC reads. -/
theorem takeResult_done (i : Iss) (d : Dst) (wide : Bool) (wr : Mask) (val : Nat → DWord) (fl : Nat → BitVec 7)
    (w2 : Wave) (ho : w2 = { i.w with flags := w2.flags, seed := w2.seed })
    (hfl : ∀ l, w2.flagsOf l = if i.raisesIn d l then i.w.flagsOf l ||| fl l else i.w.flagsOf l) :
    AluDone i d wide wr val fl (i.step (w2.takeResult d wide (resultsOf i d wr val))) := by
  have hs : ∀ n, w2.getS n = i.w.getS n := fun n => by rw [ho]; rfl
  have hv : ∀ n l, w2.getV n l = i.w.getV n l := fun n l => by rw [ho]; rfl
  have hlat : ∀ j, w2.latch j = i.w.latch j := fun j => by rw [ho]; rfl
  have hch : w2.chain = i.w.chain := by rw [ho]
  have hpc : ∀ l, w2.pcOf l = i.w.pcOf l := fun l => by rw [ho]; rfl
  have hV : ∀ n l, (i.step (w2.takeResult d wide (resultsOf i d wr val))).getV n l =
      (w2.writeDst d wide (resultsOf i d wr val)).getV n l := fun _ _ => rfl
  have hS : ∀ n, (i.step (w2.takeResult d wide (resultsOf i d wr val))).getS n =
      (w2.writeDst d wide (resultsOf i d wr val)).getS n := fun _ => rfl
  have hL0 : ∀ l, l < 32 → (i.step (w2.takeResult d wide (resultsOf i d wr val))).latchVal 0 l =
      some ((w2.writeDst d wide (resultsOf i d wr val)).newB0 d wide (resultsOf i d wr val) l) := by
    intro l hl
    have : (i.step (w2.takeResult d wide (resultsOf i d wr val))).latchVal 0 l =
      some (Tab.getD (latchOf ((w2.writeDst d wide (resultsOf i d wr val)).newB0 d wide (resultsOf i d wr val))) l 0) := rfl
    rw [this, getD_latchOf, if_pos hl]
  constructor
  · rintro n rfl l hl
    have hl' := Mask.has_lt hl
    simp only [Wave.dstV, Wave.getVw, hV]
    simp only [Wave.writeDst, resultsOf, Dst.scalar, Bool.false_eq_true, if_false,
      Wave.getV_foldl_putV _ (fun x hx => Mask.has_lt (Mask.mem_lanes.1 hx)) _ _ _ _ _ _ hl', Mask.mem_lanes, hl, if_true]
    rw [← atWidth_slices]
    cases wide <;> simp
  · rintro n rfl l hl
    simp only [Wave.dstS, Wave.getSw, hS]
    simp only [Wave.writeDst, resultsOf, Dst.scalar, if_true, hl, Wave.getS_putS]
    rw [← atWidth_slices]
    cases wide <;> simp
  · rintro rfl l hl
    rw [hL0 l (Mask.has_lt hl)]
    simp [Wave.newB0, resultsOf, Dst.scalar, get?_results, Mask.mem_lanes, hl]
  · rintro rfl l hl j hj
    rw [hL0 j hj]
    simp [Wave.newB0, resultsOf, Dst.scalar, hl]
  · intro r l hl hn
    rw [hV, ← hv]
    cases d with
    | v n =>
      simp only [Wave.writeDst, resultsOf, Dst.scalar, Bool.false_eq_true, if_false,
        Wave.getV_foldl_putV _ (fun x hx => Mask.has_lt (Mask.mem_lanes.1 hx)) _ _ _ _ _ _ hl, Mask.mem_lanes]
      simp only [dstNamesV, Bool.and_eq_false_iff, Bool.or_eq_false_iff, beq_eq_false_iff_ne, ne_eq] at hn
      by_cases hwr : wr.has l = true
      · rw [if_pos hwr]
        rcases hn with ⟨h1, h2⟩ | hn
        · rw [if_neg h1, if_neg]
          rintro ⟨hw, hr⟩
          simp [hw, hr] at h2
        · simp [hwr] at hn
      · rw [if_neg hwr]
    | s n =>
      simp only [Wave.writeDst]
      split
      · rw [Wave.putS_others]; rfl
      · rfl
    | latchV => rfl
    | latchS => rfl
  · intro r hn
    rw [hS, ← hs]
    cases d with
    | v n => simp only [Wave.writeDst]; rw [Wave.foldl_putV_others]; rfl
    | s n =>
      simp only [Wave.writeDst, resultsOf, Dst.scalar, if_true]
      cases hp : i.part.lowest with
      | none => rfl
      | some p =>
        have hne : i.part ≠ 0 := fun e => by
          rw [Mask.lowest_none.2 e] at hp; cases hp
        have hne' : (i.part != 0) = true := by simpa using hne
        simp only [dstNamesS, hne', Bool.and_true, Bool.or_eq_false_iff, beq_eq_false_iff_ne, ne_eq,
          Bool.and_eq_false_iff] at hn
        simp only [Wave.getS_putS, if_neg hn.1]
        rw [if_neg]
        rintro ⟨hw, hr⟩
        simp [hw, hr] at hn
    | latchV => rfl
    | latchS => rfl
  · have h0 : ∀ j, (w2.writeDst d wide (resultsOf i d wr val)).latch j = i.w.latch j := fun j => by
      rw [Wave.writeDst_others, ← hlat]; rfl
    exact ⟨h0 0, h0 1, h0 2⟩
  · have hc : (w2.writeDst d wide (resultsOf i d wr val)).chain = i.w.chain := by rw [Wave.writeDst_others, ← hch]
    have : (i.step (w2.takeResult d wide (resultsOf i d wr val))).chain =
      if d.nwb then (w2.writeDst d wide (resultsOf i d wr val)).chain + 1 else 0 := rfl
    rw [this, hc]
  · intro l
    rw [← hfl]
    have : (i.step (w2.takeResult d wide (resultsOf i d wr val))).flagsOf l =
      (w2.writeDst d wide (resultsOf i d wr val)).flagsOf l := rfl
    rw [this, Wave.writeDst_others]; rfl
  · intro l
    rw [Iss.pcOf_step, ← hpc]
    have : (w2.takeResult d wide (resultsOf i d wr val)).pcOf l = (w2.writeDst d wide (resultsOf i d wr val)).pcOf l := rfl
    rw [this, Wave.writeDst_others]; rfl
  · generalize hx : resultsOf i d wr val = rs
    simp only [Wave.takeResult, Iss.step, Wave.goto, Wave.shiftLatches]
    rw [Wave.writeDst_others]
    generalize (w2.writeDst d wide rs).v = a
    generalize (w2.writeDst d wide rs).s = b
    rw [ho]

/-- A ready ALU-class instruction with no bad format word executes. -/
theorem aluChecked_done {s : State} {h : Hdr} {d : Dst} {l : List Src} {i : Iss} (hr : AluReady s h d l i) (wide : Bool)
    (gen : Iss → Rd → Bool) (bad : Iss → Rd → Mask) (f : Iss → Rd → Tab DWord × Wave) (wr : Mask) (val : Nat → DWord)
    (fl : Nat → BitVec 7) (hb : bad i (i.rd s d.scalar) = 0)
    (hf : (f i (i.rd s d.scalar)).1 = resultsOf i d wr val)
    (ho : (f i (i.rd s d.scalar)).2 =
      { i.w with flags := (f i (i.rd s d.scalar)).2.flags, seed := (f i (i.rd s d.scalar)).2.seed })
    (hfl : ∀ l, (f i (i.rd s d.scalar)).2.flagsOf l = if i.raisesIn d l then i.w.flagsOf l ||| fl l else i.w.flagsOf l) :
    ∃ w', aluChecked h d wide l gen s bad f = .next (s.setWave i.k w') ∧ AluDone i d wide wr val fl w' ∧
      w'.seed = (f i (i.rd s d.scalar)).2.seed := by
  have hc : (d.nwb && i.w.chain == 4) = false := by
    cases hd : d.nwb
    · rfl
    · have := hr.chain hd
      simp [this]
  have hl : l.any (i.rd s d.scalar).latchTrap = false := by
    rw [List.any_eq_false]
    intro x hx
    simp [hr.latch x hx]
  refine ⟨_, ?_, takeResult_done i d wide wr val fl _ ho hfl, ?_⟩
  · rw [← hf]
    simp only [aluChecked, hr.iss, hc, hl, hr.runs, hb, State.permit, hr.calm, Bool.false_eq_true, if_false, ne_eq,
      not_true_eq_false, Bool.false_and]
  · simp only [Iss.step, Wave.goto, Wave.takeResult, Wave.shiftLatches]
    rw [Wave.writeDst_others]

/-! ## One lane at a time -/

/-- Flags added and generators set in the lanes of a list, each lane once. -/
theorem foldl_laneOut (f : Nat → LaneOut) (L : List Nat) (rs : Tab DWord) (w : Wave) :
    L.foldl (fun (r : Tab DWord × Wave) l => (r.1 ++ [(l, (f l).val)], (r.2.addFlags l (f l).flags).setSeed l (f l).seed))
      (rs, w) =
      (rs ++ L.map (fun l => (l, (f l).val)),
        L.foldl (fun w l => (w.addFlags l (f l).flags).setSeed l (f l).seed) w) := by
  induction L generalizing rs w with
  | nil => simp
  | cons a r ih => simp [ih]

theorem foldl_intOut (f : Nat → DWord × BitVec 7) (L : List Nat) (rs : Tab DWord) (w : Wave) :
    L.foldl (fun (r : Tab DWord × Wave) l => (r.1 ++ [(l, (f l).1)], r.2.addFlags l (f l).2)) (rs, w) =
      (rs ++ L.map (fun l => (l, (f l).1)), L.foldl (fun w l => w.addFlags l (f l).2) w) := by
  induction L generalizing rs w with
  | nil => simp
  | cons a r ih => simp [ih]

theorem Wave.flagsOf_foldl_addFlags (f : Nat → BitVec 7) (L : List Nat) (hL : L.Nodup) (w : Wave) (j : Nat) :
    (L.foldl (fun w l => w.addFlags l (f l)) w).flagsOf j = if j ∈ L then w.flagsOf j ||| f j else w.flagsOf j := by
  induction L generalizing w with
  | nil => simp
  | cons a r ih =>
    obtain ⟨ha, hr⟩ := List.nodup_cons.1 hL
    rw [List.foldl_cons, ih hr, Wave.flagsOf_addFlags]
    by_cases h : j = a
    · subst h; simp [ha]
    · simp [h]

theorem Wave.foldl_addFlags_others (f : Nat → BitVec 7) (L : List Nat) (w : Wave) :
    L.foldl (fun w l => w.addFlags l (f l)) w = { w with flags := (L.foldl (fun w l => w.addFlags l (f l)) w).flags } := by
  induction L generalizing w with
  | nil => rfl
  | cons a r ih => rw [List.foldl_cons, ih]; rfl

theorem Wave.setSeed_others (w : Wave) (l : Nat) (z : Word) :
    w.setSeed l z = { w with seed := (w.setSeed l z).seed } := by
  unfold Wave.setSeed
  generalize laneSeed 0 l = x
  rfl

theorem Wave.foldl_laneOut_others (f : Nat → LaneOut) (L : List Nat) (w : Wave) :
    L.foldl (fun w l => (w.addFlags l (f l).flags).setSeed l (f l).seed) w =
      { w with
        flags := (L.foldl (fun w l => (w.addFlags l (f l).flags).setSeed l (f l).seed) w).flags
        seed := (L.foldl (fun w l => (w.addFlags l (f l).flags).setSeed l (f l).seed) w).seed } := by
  induction L generalizing w with
  | nil => rfl
  | cons a r ih =>
    rw [List.foldl_cons, ih]
    generalize (List.foldl (fun w l => (w.addFlags l (f l).flags).setSeed l (f l).seed)
      ((w.addFlags a (f a).flags).setSeed a (f a).seed) r) = x
    rw [Wave.setSeed_others]
    rfl

theorem Wave.flagsOf_setSeed (w : Wave) (l j : Nat) (z : Word) : (w.setSeed l z).flagsOf j = w.flagsOf j := rfl
theorem Wave.seedOf_addFlags (w : Wave) (l j : Nat) (f : BitVec 7) : (w.addFlags l f).seedOf j = w.seedOf j := rfl

theorem Wave.foldl_laneOut_reads (f : Nat → LaneOut) (L : List Nat) (hL : L.Nodup) (w : Wave) (j : Nat) :
    (L.foldl (fun w l => (w.addFlags l (f l).flags).setSeed l (f l).seed) w).flagsOf j =
      (if j ∈ L then w.flagsOf j ||| (f j).flags else w.flagsOf j) ∧
    (L.foldl (fun w l => (w.addFlags l (f l).flags).setSeed l (f l).seed) w).seedOf j =
      (if j ∈ L then (f j).seed else w.seedOf j) := by
  induction L generalizing w with
  | nil => simp
  | cons a r ih =>
    obtain ⟨ha, hr⟩ := List.nodup_cons.1 hL
    rw [List.foldl_cons, (ih hr _).1, (ih hr _).2, Wave.flagsOf_setSeed, Wave.flagsOf_addFlags, Wave.seedOf_setSeed,
      Wave.seedOf_addFlags]
    by_cases h : j = a
    · subst h; simp [ha]
    · simp [h]

/-- What an integer instruction of one lane at a time does. -/
theorem intIssue_effect {s : State} {h : Hdr} {d : Dst} {l : List Src} {i : Iss} (hr : AluReady s h d l i) (wide : Bool)
    (f : Rd → Nat → DWord × BitVec 7) :
    AluEffect (intIssue h d wide l s f) s i d wide i.part (fun l => (f (i.rd s d.scalar) l).1)
      (fun l => (f (i.rd s d.scalar) l).2) := by
  have key : (perLaneInt d f i (i.rd s d.scalar)).1 = resultsOf i d i.part (fun l => (f (i.rd s d.scalar) l).1) ∧
      ((perLaneInt d f i (i.rd s d.scalar)).2 = { i.w with flags := (perLaneInt d f i (i.rd s d.scalar)).2.flags }) ∧
      ∀ l, (perLaneInt d f i (i.rd s d.scalar)).2.flagsOf l =
        if i.raisesIn d l then i.w.flagsOf l ||| (f (i.rd s d.scalar) l).2 else i.w.flagsOf l := by
    simp only [perLaneInt, resultsOf, Iss.raisesIn]
    rcases Bool.eq_false_or_eq_true d.scalar with hd | hd
    rotate_left
    · simp only [hd, Bool.false_eq_true, if_false]
      rw [foldl_intOut (f (i.rd s false))]
      refine ⟨by simp, Wave.foldl_addFlags_others _ _ _, fun l => ?_⟩
      rw [Wave.flagsOf_foldl_addFlags _ _ (Mask.nodup_lanes _)]
      simp only [Mask.mem_lanes]
    · simp only [hd, if_true]
      cases hp : i.part.lowest with
      | none => exact ⟨rfl, rfl, fun l => by simp⟩
      | some p =>
        refine ⟨rfl, rfl, fun l => ?_⟩
        simp only [Wave.flagsOf_addFlags, beq_iff_eq, Option.some.injEq]
        by_cases hl : l = p
        · subst hl; simp
        · have : ¬ p = l := fun e => hl e.symm
          simp [hl, this]
  obtain ⟨h1, h2, h3⟩ := key
  obtain ⟨w', e, hd, hs⟩ := aluChecked_done hr wide (fun i _ => noGen i.w) noBad (perLaneInt d f) i.part _ _ rfl h1
    (by rw [h2]) h3
  exact ⟨w', e, hd, by rw [hs, h2]⟩

/-- What an instruction of one lane at a time that may draw does. -/
theorem floatIssue_effect {s : State} {h : Hdr} {d : Dst} {l : List Src} {i : Iss} (hr : AluReady s h d l i) (wide : Bool)
    (gen : Wave → Bool) (f : Rd → Nat → Word → LaneOut) :
    LaneEffect (floatIssue h d wide l gen s f) s i d wide (f (i.rd s d.scalar)) := by
  simp only [LaneEffect]
  rcases Bool.eq_false_or_eq_true d.scalar with hd | hd
  rotate_left
  · simp only [hd, Bool.false_eq_true, if_false]
    have e : perLane d f i (i.rd s d.scalar) =
        (i.part.lanes.map (fun l => (l, (f (i.rd s d.scalar) l (i.w.seedOf l)).val)),
          i.part.lanes.foldl (fun w l => (w.addFlags l (f (i.rd s d.scalar) l (i.w.seedOf l)).flags).setSeed l
            (f (i.rd s d.scalar) l (i.w.seedOf l)).seed) i.w) := by
      simp only [perLane, hd, Bool.false_eq_true, if_false]
      rw [foldl_laneOut (fun l => f (i.rd s false) l (i.w.seedOf l))]; simp
    have hrd := Wave.foldl_laneOut_reads (fun l => f (i.rd s d.scalar) l (i.w.seedOf l)) i.part.lanes (Mask.nodup_lanes _) i.w
    obtain ⟨w', he, hdn, hs⟩ := aluChecked_done hr wide (fun i _ => gen i.w) noBad (perLane d f) i.part
      (fun l => (f (i.rd s d.scalar) l (i.w.seedOf l)).val) (fun l => (f (i.rd s d.scalar) l (i.w.seedOf l)).flags) rfl
      (by rw [e]; simp [resultsOf, hd])
      (by rw [e]; exact Wave.foldl_laneOut_others _ _ _)
      (fun l => by rw [e]; simpa [Iss.raisesIn, hd, Mask.mem_lanes] using (hrd l).1)
    rw [hd] at hdn
    refine ⟨w', he, hdn, fun l => ?_⟩
    have h2 := (hrd l).2
    simp only [Mask.mem_lanes, hd] at h2
    have h3 : w'.seedOf l = (perLane d f i (i.rd s d.scalar)).2.seedOf l := by simp only [Wave.seedOf, hs]
    rw [h3, e, hd]
    exact h2
  · simp only [hd, if_true]
    cases hp : i.part.lowest with
    | none =>
      have e : perLane d f i (i.rd s d.scalar) = ([], i.w) := by simp [perLane, hd, hp]
      obtain ⟨w', he, hdn, hs⟩ := aluChecked_done hr wide (fun i _ => gen i.w) noBad (perLane d f) i.part
        (fun l => (f (i.rd s true) l (i.w.seedOf (i.act.lowest.getD 0))).val)
        (fun l => (f (i.rd s true) l (i.w.seedOf (i.act.lowest.getD 0))).flags) rfl
        (by rw [e]; simp [resultsOf, hd, hp]) (by rw [e]) (fun l => by rw [e]; simp [Iss.raisesIn, hd, hp])
      refine ⟨w', he, hdn, fun l => ?_⟩
      simp only [Wave.seedOf, hs, e]
    | some p =>
      have e : perLane d f i (i.rd s d.scalar) =
          ([(0, (f (i.rd s true) p (i.w.seedOf (i.act.lowest.getD 0))).val)],
            (i.w.addFlags p (f (i.rd s true) p (i.w.seedOf (i.act.lowest.getD 0))).flags).setSeed (i.act.lowest.getD 0)
              (f (i.rd s true) p (i.w.seedOf (i.act.lowest.getD 0))).seed) := by simp [perLane, hd, hp]
      obtain ⟨w', he, hdn, hs⟩ := aluChecked_done hr wide (fun i _ => gen i.w) noBad (perLane d f) i.part
        (fun l => (f (i.rd s true) l (i.w.seedOf (i.act.lowest.getD 0))).val)
        (fun l => (f (i.rd s true) l (i.w.seedOf (i.act.lowest.getD 0))).flags) rfl
        (by rw [e]; simp [resultsOf, hd, hp]) (by rw [e]; rfl)
        (fun l => by
          rw [e]
          simp only [Wave.flagsOf_setSeed, Wave.flagsOf_addFlags, Iss.raisesIn, hd, hp, if_true, beq_iff_eq,
            Option.some.injEq]
          by_cases hl : l = p
          · subst hl; simp
          · have : ¬ p = l := fun e => hl e.symm
            simp [hl, this])
      refine ⟨w', he, hdn, fun l => ?_⟩
      have h3 : w'.seedOf l = (perLane d f i (i.rd s d.scalar)).2.seedOf l := by simp only [Wave.seedOf, hs]
      rw [h3, e]
      simp only [Wave.seedOf_setSeed, Wave.seedOf_addFlags]

/-- The effect is the same for results that agree at the width of the destination. -/
theorem AluEffect.congr {r : Res} {s : State} {i : Iss} {d : Dst} {wide : Bool} {wr : Mask} {v v' : Nat → DWord}
    {f f' : Nat → BitVec 7} (h : AluEffect r s i d wide wr v f) (hv : ∀ l, atWidth wide (v l) = atWidth wide (v' l))
    (hf : ∀ l, f l = f' l) : AluEffect r s i d wide wr v' f' := by
  obtain ⟨w', e, hd, hs⟩ := h
  refine ⟨w', e, ⟨?_, ?_, ?_, ?_, hd.restV, hd.restS, hd.latches, hd.chain, ?_, hd.pcs, hd.others⟩, hs⟩
  · intro n hn l hl; rw [hd.toV n hn l hl, hv]
  · intro n hn l hl; rw [hd.toS n hn l hl, hv]
  · intro hn l hl; rw [hd.toLV hn l hl, hv]
  · intro hn l hl j hj; rw [hd.toLS hn l hl j hj, hv]
  · intro l; rw [hd.flags l, hf]

theorem Wave.writeP_others (w : Wave) (pd : BitVec 3) (a b : Mask) :
    w.writeP pd a b = { w with p := (w.writeP pd a b).p } := by
  unfold Wave.writeP Wave.setP
  split <;> rfl

/-- What an instruction that writes only a predicate does. -/
theorem predIssue_effect {s : State} {h : Hdr} {l : List Src} {i : Iss} (hr : PredReady s h l i) (pd : BitVec 3)
    (f : Iss → Rd → Mask × Wave) (hf : (f i (i.rd s false)).2 = i.w) :
    PredEffect (predIssue h pd l s f) s i pd (f i (i.rd s false)).1 := by
  have hl : l.any (i.rd s false).latchTrap = false := by
    rw [List.any_eq_false]
    intro x hx
    simp [hr.latch x hx]
  refine ⟨i.step { (f i (i.rd s false)).2.writeP pd i.part (f i (i.rd s false)).1 with chain := 0 },
    by simp only [predIssue, hr.iss, hl, hr.runs, Bool.false_eq_true, if_false], fun q => ?_, fun l => ?_, ?_⟩
  · rw [hf]
    have : ∀ x : Wave, (i.step { x with chain := 0 }).getP q.toNat = x.getP q.toNat := fun _ => rfl
    rw [this, Wave.writeP, Wave.getP_setP]
    have h1 : (q.toNat = pd.toNat ∧ pd.toNat ≠ 7) ↔ (q = pd ∧ pd ≠ 7) := by
      constructor
      · rintro ⟨a, b⟩
        exact ⟨BitVec.eq_of_toNat_eq a, fun e => b (by rw [e]; rfl)⟩
      · rintro ⟨a, b⟩
        exact ⟨by rw [a], fun e => b (BitVec.eq_of_toNat_eq e)⟩
    simp only [h1]
    by_cases hq : q = pd ∧ pd ≠ 7
    · rw [if_pos hq, if_pos hq, hq.1]
    · rw [if_neg hq, if_neg hq]
  · rw [hf, Iss.pcOf_step]
    have : ∀ x : Wave, ({ x with chain := 0 } : Wave).pcOf l = x.pcOf l := fun _ => rfl
    rw [this, Wave.writeP_others]; rfl
  · rw [hf]
    rw [Wave.writeP_others]; rfl

end Sys2Proof.Machine
end

