-- ==== Sys2Proof/Laws/State.lean ====
section
/-! SUPPORT. Laws/State.lean: what each named update of the state does to each field, and what the tables read after it. -/

namespace Sys2Proof.Machine

/-! ## setWave -/

@[simp] theorem State.setWave_cur (s : State) (k : Nat) (w : Wave) : (s.setWave k w).cur = s.cur := rfl
@[simp] theorem State.setWave_clock (s : State) (k : Nat) (w : Wave) : (s.setWave k w).clock = s.clock := rfl
@[simp] theorem State.setWave_free (s : State) (k : Nat) (w : Wave) : (s.setWave k w).free = s.free := rfl
@[simp] theorem State.setWave_turn (s : State) (k : Nat) (w : Wave) : (s.setWave k w).turn = s.turn := rfl
@[simp] theorem State.setWave_nextId (s : State) (k : Nat) (w : Wave) : (s.setWave k w).nextId = s.nextId := rfl
@[simp] theorem State.setWave_agenda (s : State) (k : Nat) (w : Wave) : (s.setWave k w).agenda = s.agenda := rfl
@[simp] theorem State.setWave_devid (s : State) (k : Nat) (w : Wave) : (s.setWave k w).devid = s.devid := rfl
@[simp] theorem State.setWave_wgs (s : State) (k : Nat) (w : Wave) : (s.setWave k w).wgs = s.wgs := rfl
@[simp] theorem State.setWave_launches (s : State) (k : Nat) (w : Wave) : (s.setWave k w).launches = s.launches := rfl
@[simp] theorem State.setWave_sps (s : State) (k : Nat) (w : Wave) : (s.setWave k w).sps = s.sps := rfl
@[simp] theorem State.setWave_cores (s : State) (k : Nat) (w : Wave) : (s.setWave k w).cores = s.cores := rfl
@[simp] theorem State.setWave_engines (s : State) (k : Nat) (w : Wave) : (s.setWave k w).engines = s.engines := rfl
@[simp] theorem State.setWave_ismvq (s : State) (k : Nat) (w : Wave) : (s.setWave k w).ismvq = s.ismvq := rfl
@[simp] theorem State.setWave_mem (s : State) (k : Nat) (w : Wave) : (s.setWave k w).mem = s.mem := rfl
@[simp] theorem State.setWave_host (s : State) (k : Nat) (w : Wave) : (s.setWave k w).host = s.host := rfl
@[simp] theorem State.setWave_peer (s : State) (k : Nat) (w : Wave) : (s.setWave k w).peer = s.peer := rfl
@[simp] theorem State.setWave_scratch (s : State) (k : Nat) (w : Wave) : (s.setWave k w).scratch = s.scratch := rfl
@[simp] theorem State.setWave_fe (s : State) (k : Nat) (w : Wave) : (s.setWave k w).fe = s.fe := rfl
@[simp] theorem State.setWave_acc (s : State) (k : Nat) (w : Wave) : (s.setWave k w).acc = s.acc := rfl
@[simp] theorem State.setWave_accInt (s : State) (k : Nat) (w : Wave) : (s.setWave k w).accInt = s.accInt := rfl
@[simp] theorem State.setWave_llc (s : State) (k : Nat) (w : Wave) : (s.setWave k w).llc = s.llc := rfl
@[simp] theorem State.setWave_l1 (s : State) (k : Nat) (w : Wave) : (s.setWave k w).l1 = s.l1 := rfl
@[simp] theorem State.setWave_icache (s : State) (k : Nat) (w : Wave) : (s.setWave k w).icache = s.icache := rfl
@[simp] theorem State.setWave_tlb (s : State) (k : Nat) (w : Wave) : (s.setWave k w).tlb = s.tlb := rfl
@[simp] theorem State.setWave_bounce (s : State) (k : Nat) (w : Wave) : (s.setWave k w).bounce = s.bounce := rfl
@[simp] theorem State.setWave_leaving (s : State) (k : Nat) (w : Wave) : (s.setWave k w).leaving = s.leaving := rfl
@[simp] theorem State.setWave_vds (s : State) (k : Nat) (w : Wave) : (s.setWave k w).vds = s.vds := rfl
@[simp] theorem State.setWave_ctxs (s : State) (k : Nat) (w : Wave) : (s.setWave k w).ctxs = s.ctxs := rfl
@[simp] theorem State.setWave_queues (s : State) (k : Nat) (w : Wave) : (s.setWave k w).queues = s.queues := rfl
@[simp] theorem State.setWave_fot (s : State) (k : Nat) (w : Wave) : (s.setWave k w).fot = s.fot := rfl
@[simp] theorem State.setWave_sweep (s : State) (k : Nat) (w : Wave) : (s.setWave k w).sweep = s.sweep := rfl
@[simp] theorem State.setWave_holdoff (s : State) (k : Nat) (w : Wave) : (s.setWave k w).holdoff = s.holdoff := rfl
@[simp] theorem State.setWave_keys (s : State) (k : Nat) (w : Wave) : (s.setWave k w).keys = s.keys := rfl
@[simp] theorem State.setWave_remap (s : State) (k : Nat) (w : Wave) : (s.setWave k w).remap = s.remap := rfl
@[simp] theorem State.setWave_msi (s : State) (k : Nat) (w : Wave) : (s.setWave k w).msi = s.msi := rfl
@[simp] theorem State.setWave_fgs (s : State) (k : Nat) (w : Wave) : (s.setWave k w).fgs = s.fgs := rfl
@[simp] theorem State.setWave_cgs (s : State) (k : Nat) (w : Wave) : (s.setWave k w).cgs = s.cgs := rfl
@[simp] theorem State.setWave_kvops (s : State) (k : Nat) (w : Wave) : (s.setWave k w).kvops = s.kvops := rfl
@[simp] theorem State.setWave_kvcopies (s : State) (k : Nat) (w : Wave) : (s.setWave k w).kvcopies = s.kvcopies := rfl
@[simp] theorem State.setWave_reqs (s : State) (k : Nat) (w : Wave) : (s.setWave k w).reqs = s.reqs := rfl
@[simp] theorem State.setWave_out (s : State) (k : Nat) (w : Wave) : (s.setWave k w).out = s.out := rfl
@[simp] theorem State.setWave_wire (s : State) (k : Nat) (w : Wave) : (s.setWave k w).wire = s.wire := rfl
@[simp] theorem State.setWave_unsent (s : State) (k : Nat) (w : Wave) : (s.setWave k w).unsent = s.unsent := rfl
@[simp] theorem State.setWave_cwait (s : State) (k : Nat) (w : Wave) : (s.setWave k w).cwait = s.cwait := rfl
@[simp] theorem State.setWave_cout (s : State) (k : Nat) (w : Wave) : (s.setWave k w).cout = s.cout := rfl
@[simp] theorem State.setWave_iacks (s : State) (k : Nat) (w : Wave) : (s.setWave k w).iacks = s.iacks := rfl
@[simp] theorem State.setWave_ballots (s : State) (k : Nat) (w : Wave) : (s.setWave k w).ballots = s.ballots := rfl
@[simp] theorem State.setWave_halo (s : State) (k : Nat) (w : Wave) : (s.setWave k w).halo = s.halo := rfl
@[simp] theorem State.setWave_dir (s : State) (k : Nat) (w : Wave) : (s.setWave k w).dir = s.dir := rfl
@[simp] theorem State.setWave_ports (s : State) (k : Nat) (w : Wave) : (s.setWave k w).ports = s.ports := rfl
@[simp] theorem State.setWave_slots (s : State) (k : Nat) (w : Wave) : (s.setWave k w).slots = s.slots := rfl
@[simp] theorem State.setWave_allow (s : State) (k : Nat) (w : Wave) : (s.setWave k w).allow = s.allow := rfl
@[simp] theorem State.setWave_pool (s : State) (k : Nat) (w : Wave) : (s.setWave k w).pool = s.pool := rfl
@[simp] theorem State.setWave_phase (s : State) (k : Nat) (w : Wave) : (s.setWave k w).phase = s.phase := rfl
@[simp] theorem State.setWave_gangTag (s : State) (k : Nat) (w : Wave) : (s.setWave k w).gangTag = s.gangTag := rfl
@[simp] theorem State.setWave_setOwner (s : State) (k : Nat) (w : Wave) : (s.setWave k w).setOwner = s.setOwner := rfl
@[simp] theorem State.setWave_llcCnt (s : State) (k : Nat) (w : Wave) : (s.setWave k w).llcCnt = s.llcCnt := rfl
@[simp] theorem State.setWave_hbmCnt (s : State) (k : Nat) (w : Wave) : (s.setWave k w).hbmCnt = s.hbmCnt := rfl
@[simp] theorem State.setWave_lcus (s : State) (k : Nat) (w : Wave) : (s.setWave k w).lcus = s.lcus := rfl
@[simp] theorem State.setWave_images (s : State) (k : Nat) (w : Wave) : (s.setWave k w).images = s.images := rfl
@[simp] theorem State.setWave_mgmt (s : State) (k : Nat) (w : Wave) : (s.setWave k w).mgmt = s.mgmt := rfl
@[simp] theorem State.setWave_boot (s : State) (k : Nat) (w : Wave) : (s.setWave k w).boot = s.boot := rfl
@[simp] theorem State.setWave_answer (s : State) (k : Nat) (w : Wave) : (s.setWave k w).answer = s.answer := rfl
@[simp] theorem State.setWave_atsWait (s : State) (k : Nat) (w : Wave) : (s.setWave k w).atsWait = s.atsWait := rfl
@[simp] theorem State.setWave_atsBad (s : State) (k : Nat) (w : Wave) : (s.setWave k w).atsBad = s.atsBad := rfl
@[simp] theorem State.setWave_msix (s : State) (k : Nat) (w : Wave) : (s.setWave k w).msix = s.msix := rfl
@[simp] theorem State.setWave_pba (s : State) (k : Nat) (w : Wave) : (s.setWave k w).pba = s.pba := rfl
@[simp] theorem State.setWave_bar4 (s : State) (k : Nat) (w : Wave) : (s.setWave k w).bar4 = s.bar4 := rfl

/-! ## modWave -/

@[simp] theorem State.modWave_cur (s : State) (k : Nat) (f : Wave → Wave) : (s.modWave k f).cur = s.cur := rfl
@[simp] theorem State.modWave_clock (s : State) (k : Nat) (f : Wave → Wave) : (s.modWave k f).clock = s.clock := rfl
@[simp] theorem State.modWave_free (s : State) (k : Nat) (f : Wave → Wave) : (s.modWave k f).free = s.free := rfl
@[simp] theorem State.modWave_turn (s : State) (k : Nat) (f : Wave → Wave) : (s.modWave k f).turn = s.turn := rfl
@[simp] theorem State.modWave_nextId (s : State) (k : Nat) (f : Wave → Wave) : (s.modWave k f).nextId = s.nextId := rfl
@[simp] theorem State.modWave_agenda (s : State) (k : Nat) (f : Wave → Wave) : (s.modWave k f).agenda = s.agenda := rfl
@[simp] theorem State.modWave_devid (s : State) (k : Nat) (f : Wave → Wave) : (s.modWave k f).devid = s.devid := rfl
@[simp] theorem State.modWave_wgs (s : State) (k : Nat) (f : Wave → Wave) : (s.modWave k f).wgs = s.wgs := rfl
@[simp] theorem State.modWave_launches (s : State) (k : Nat) (f : Wave → Wave) : (s.modWave k f).launches = s.launches := rfl
@[simp] theorem State.modWave_sps (s : State) (k : Nat) (f : Wave → Wave) : (s.modWave k f).sps = s.sps := rfl
@[simp] theorem State.modWave_cores (s : State) (k : Nat) (f : Wave → Wave) : (s.modWave k f).cores = s.cores := rfl
@[simp] theorem State.modWave_engines (s : State) (k : Nat) (f : Wave → Wave) : (s.modWave k f).engines = s.engines := rfl
@[simp] theorem State.modWave_ismvq (s : State) (k : Nat) (f : Wave → Wave) : (s.modWave k f).ismvq = s.ismvq := rfl
@[simp] theorem State.modWave_mem (s : State) (k : Nat) (f : Wave → Wave) : (s.modWave k f).mem = s.mem := rfl
@[simp] theorem State.modWave_host (s : State) (k : Nat) (f : Wave → Wave) : (s.modWave k f).host = s.host := rfl
@[simp] theorem State.modWave_peer (s : State) (k : Nat) (f : Wave → Wave) : (s.modWave k f).peer = s.peer := rfl
@[simp] theorem State.modWave_scratch (s : State) (k : Nat) (f : Wave → Wave) : (s.modWave k f).scratch = s.scratch := rfl
@[simp] theorem State.modWave_fe (s : State) (k : Nat) (f : Wave → Wave) : (s.modWave k f).fe = s.fe := rfl
@[simp] theorem State.modWave_acc (s : State) (k : Nat) (f : Wave → Wave) : (s.modWave k f).acc = s.acc := rfl
@[simp] theorem State.modWave_accInt (s : State) (k : Nat) (f : Wave → Wave) : (s.modWave k f).accInt = s.accInt := rfl
@[simp] theorem State.modWave_llc (s : State) (k : Nat) (f : Wave → Wave) : (s.modWave k f).llc = s.llc := rfl
@[simp] theorem State.modWave_l1 (s : State) (k : Nat) (f : Wave → Wave) : (s.modWave k f).l1 = s.l1 := rfl
@[simp] theorem State.modWave_icache (s : State) (k : Nat) (f : Wave → Wave) : (s.modWave k f).icache = s.icache := rfl
@[simp] theorem State.modWave_tlb (s : State) (k : Nat) (f : Wave → Wave) : (s.modWave k f).tlb = s.tlb := rfl
@[simp] theorem State.modWave_bounce (s : State) (k : Nat) (f : Wave → Wave) : (s.modWave k f).bounce = s.bounce := rfl
@[simp] theorem State.modWave_leaving (s : State) (k : Nat) (f : Wave → Wave) : (s.modWave k f).leaving = s.leaving := rfl
@[simp] theorem State.modWave_vds (s : State) (k : Nat) (f : Wave → Wave) : (s.modWave k f).vds = s.vds := rfl
@[simp] theorem State.modWave_ctxs (s : State) (k : Nat) (f : Wave → Wave) : (s.modWave k f).ctxs = s.ctxs := rfl
@[simp] theorem State.modWave_queues (s : State) (k : Nat) (f : Wave → Wave) : (s.modWave k f).queues = s.queues := rfl
@[simp] theorem State.modWave_fot (s : State) (k : Nat) (f : Wave → Wave) : (s.modWave k f).fot = s.fot := rfl
@[simp] theorem State.modWave_sweep (s : State) (k : Nat) (f : Wave → Wave) : (s.modWave k f).sweep = s.sweep := rfl
@[simp] theorem State.modWave_holdoff (s : State) (k : Nat) (f : Wave → Wave) : (s.modWave k f).holdoff = s.holdoff := rfl
@[simp] theorem State.modWave_keys (s : State) (k : Nat) (f : Wave → Wave) : (s.modWave k f).keys = s.keys := rfl
@[simp] theorem State.modWave_remap (s : State) (k : Nat) (f : Wave → Wave) : (s.modWave k f).remap = s.remap := rfl
@[simp] theorem State.modWave_msi (s : State) (k : Nat) (f : Wave → Wave) : (s.modWave k f).msi = s.msi := rfl
@[simp] theorem State.modWave_fgs (s : State) (k : Nat) (f : Wave → Wave) : (s.modWave k f).fgs = s.fgs := rfl
@[simp] theorem State.modWave_cgs (s : State) (k : Nat) (f : Wave → Wave) : (s.modWave k f).cgs = s.cgs := rfl
@[simp] theorem State.modWave_kvops (s : State) (k : Nat) (f : Wave → Wave) : (s.modWave k f).kvops = s.kvops := rfl
@[simp] theorem State.modWave_kvcopies (s : State) (k : Nat) (f : Wave → Wave) : (s.modWave k f).kvcopies = s.kvcopies := rfl
@[simp] theorem State.modWave_reqs (s : State) (k : Nat) (f : Wave → Wave) : (s.modWave k f).reqs = s.reqs := rfl
@[simp] theorem State.modWave_out (s : State) (k : Nat) (f : Wave → Wave) : (s.modWave k f).out = s.out := rfl
@[simp] theorem State.modWave_wire (s : State) (k : Nat) (f : Wave → Wave) : (s.modWave k f).wire = s.wire := rfl
@[simp] theorem State.modWave_unsent (s : State) (k : Nat) (f : Wave → Wave) : (s.modWave k f).unsent = s.unsent := rfl
@[simp] theorem State.modWave_cwait (s : State) (k : Nat) (f : Wave → Wave) : (s.modWave k f).cwait = s.cwait := rfl
@[simp] theorem State.modWave_cout (s : State) (k : Nat) (f : Wave → Wave) : (s.modWave k f).cout = s.cout := rfl
@[simp] theorem State.modWave_iacks (s : State) (k : Nat) (f : Wave → Wave) : (s.modWave k f).iacks = s.iacks := rfl
@[simp] theorem State.modWave_ballots (s : State) (k : Nat) (f : Wave → Wave) : (s.modWave k f).ballots = s.ballots := rfl
@[simp] theorem State.modWave_halo (s : State) (k : Nat) (f : Wave → Wave) : (s.modWave k f).halo = s.halo := rfl
@[simp] theorem State.modWave_dir (s : State) (k : Nat) (f : Wave → Wave) : (s.modWave k f).dir = s.dir := rfl
@[simp] theorem State.modWave_ports (s : State) (k : Nat) (f : Wave → Wave) : (s.modWave k f).ports = s.ports := rfl
@[simp] theorem State.modWave_slots (s : State) (k : Nat) (f : Wave → Wave) : (s.modWave k f).slots = s.slots := rfl
@[simp] theorem State.modWave_allow (s : State) (k : Nat) (f : Wave → Wave) : (s.modWave k f).allow = s.allow := rfl
@[simp] theorem State.modWave_pool (s : State) (k : Nat) (f : Wave → Wave) : (s.modWave k f).pool = s.pool := rfl
@[simp] theorem State.modWave_phase (s : State) (k : Nat) (f : Wave → Wave) : (s.modWave k f).phase = s.phase := rfl
@[simp] theorem State.modWave_gangTag (s : State) (k : Nat) (f : Wave → Wave) : (s.modWave k f).gangTag = s.gangTag := rfl
@[simp] theorem State.modWave_setOwner (s : State) (k : Nat) (f : Wave → Wave) : (s.modWave k f).setOwner = s.setOwner := rfl
@[simp] theorem State.modWave_llcCnt (s : State) (k : Nat) (f : Wave → Wave) : (s.modWave k f).llcCnt = s.llcCnt := rfl
@[simp] theorem State.modWave_hbmCnt (s : State) (k : Nat) (f : Wave → Wave) : (s.modWave k f).hbmCnt = s.hbmCnt := rfl
@[simp] theorem State.modWave_lcus (s : State) (k : Nat) (f : Wave → Wave) : (s.modWave k f).lcus = s.lcus := rfl
@[simp] theorem State.modWave_images (s : State) (k : Nat) (f : Wave → Wave) : (s.modWave k f).images = s.images := rfl
@[simp] theorem State.modWave_mgmt (s : State) (k : Nat) (f : Wave → Wave) : (s.modWave k f).mgmt = s.mgmt := rfl
@[simp] theorem State.modWave_boot (s : State) (k : Nat) (f : Wave → Wave) : (s.modWave k f).boot = s.boot := rfl
@[simp] theorem State.modWave_answer (s : State) (k : Nat) (f : Wave → Wave) : (s.modWave k f).answer = s.answer := rfl
@[simp] theorem State.modWave_atsWait (s : State) (k : Nat) (f : Wave → Wave) : (s.modWave k f).atsWait = s.atsWait := rfl
@[simp] theorem State.modWave_atsBad (s : State) (k : Nat) (f : Wave → Wave) : (s.modWave k f).atsBad = s.atsBad := rfl
@[simp] theorem State.modWave_msix (s : State) (k : Nat) (f : Wave → Wave) : (s.modWave k f).msix = s.msix := rfl
@[simp] theorem State.modWave_pba (s : State) (k : Nat) (f : Wave → Wave) : (s.modWave k f).pba = s.pba := rfl
@[simp] theorem State.modWave_bar4 (s : State) (k : Nat) (f : Wave → Wave) : (s.modWave k f).bar4 = s.bar4 := rfl

/-! ## modSp -/

@[simp] theorem State.modSp_cur (s : State) (n : Nat) (f : SubPart → SubPart) : (s.modSp n f).cur = s.cur := rfl
@[simp] theorem State.modSp_clock (s : State) (n : Nat) (f : SubPart → SubPart) : (s.modSp n f).clock = s.clock := rfl
@[simp] theorem State.modSp_free (s : State) (n : Nat) (f : SubPart → SubPart) : (s.modSp n f).free = s.free := rfl
@[simp] theorem State.modSp_turn (s : State) (n : Nat) (f : SubPart → SubPart) : (s.modSp n f).turn = s.turn := rfl
@[simp] theorem State.modSp_nextId (s : State) (n : Nat) (f : SubPart → SubPart) : (s.modSp n f).nextId = s.nextId := rfl
@[simp] theorem State.modSp_agenda (s : State) (n : Nat) (f : SubPart → SubPart) : (s.modSp n f).agenda = s.agenda := rfl
@[simp] theorem State.modSp_devid (s : State) (n : Nat) (f : SubPart → SubPart) : (s.modSp n f).devid = s.devid := rfl
@[simp] theorem State.modSp_waves (s : State) (n : Nat) (f : SubPart → SubPart) : (s.modSp n f).waves = s.waves := rfl
@[simp] theorem State.modSp_wgs (s : State) (n : Nat) (f : SubPart → SubPart) : (s.modSp n f).wgs = s.wgs := rfl
@[simp] theorem State.modSp_launches (s : State) (n : Nat) (f : SubPart → SubPart) : (s.modSp n f).launches = s.launches := rfl
@[simp] theorem State.modSp_cores (s : State) (n : Nat) (f : SubPart → SubPart) : (s.modSp n f).cores = s.cores := rfl
@[simp] theorem State.modSp_engines (s : State) (n : Nat) (f : SubPart → SubPart) : (s.modSp n f).engines = s.engines := rfl
@[simp] theorem State.modSp_ismvq (s : State) (n : Nat) (f : SubPart → SubPart) : (s.modSp n f).ismvq = s.ismvq := rfl
@[simp] theorem State.modSp_mem (s : State) (n : Nat) (f : SubPart → SubPart) : (s.modSp n f).mem = s.mem := rfl
@[simp] theorem State.modSp_host (s : State) (n : Nat) (f : SubPart → SubPart) : (s.modSp n f).host = s.host := rfl
@[simp] theorem State.modSp_peer (s : State) (n : Nat) (f : SubPart → SubPart) : (s.modSp n f).peer = s.peer := rfl
@[simp] theorem State.modSp_scratch (s : State) (n : Nat) (f : SubPart → SubPart) : (s.modSp n f).scratch = s.scratch := rfl
@[simp] theorem State.modSp_fe (s : State) (n : Nat) (f : SubPart → SubPart) : (s.modSp n f).fe = s.fe := rfl
@[simp] theorem State.modSp_acc (s : State) (n : Nat) (f : SubPart → SubPart) : (s.modSp n f).acc = s.acc := rfl
@[simp] theorem State.modSp_accInt (s : State) (n : Nat) (f : SubPart → SubPart) : (s.modSp n f).accInt = s.accInt := rfl
@[simp] theorem State.modSp_llc (s : State) (n : Nat) (f : SubPart → SubPart) : (s.modSp n f).llc = s.llc := rfl
@[simp] theorem State.modSp_l1 (s : State) (n : Nat) (f : SubPart → SubPart) : (s.modSp n f).l1 = s.l1 := rfl
@[simp] theorem State.modSp_icache (s : State) (n : Nat) (f : SubPart → SubPart) : (s.modSp n f).icache = s.icache := rfl
@[simp] theorem State.modSp_tlb (s : State) (n : Nat) (f : SubPart → SubPart) : (s.modSp n f).tlb = s.tlb := rfl
@[simp] theorem State.modSp_bounce (s : State) (n : Nat) (f : SubPart → SubPart) : (s.modSp n f).bounce = s.bounce := rfl
@[simp] theorem State.modSp_leaving (s : State) (n : Nat) (f : SubPart → SubPart) : (s.modSp n f).leaving = s.leaving := rfl
@[simp] theorem State.modSp_vds (s : State) (n : Nat) (f : SubPart → SubPart) : (s.modSp n f).vds = s.vds := rfl
@[simp] theorem State.modSp_ctxs (s : State) (n : Nat) (f : SubPart → SubPart) : (s.modSp n f).ctxs = s.ctxs := rfl
@[simp] theorem State.modSp_queues (s : State) (n : Nat) (f : SubPart → SubPart) : (s.modSp n f).queues = s.queues := rfl
@[simp] theorem State.modSp_fot (s : State) (n : Nat) (f : SubPart → SubPart) : (s.modSp n f).fot = s.fot := rfl
@[simp] theorem State.modSp_sweep (s : State) (n : Nat) (f : SubPart → SubPart) : (s.modSp n f).sweep = s.sweep := rfl
@[simp] theorem State.modSp_holdoff (s : State) (n : Nat) (f : SubPart → SubPart) : (s.modSp n f).holdoff = s.holdoff := rfl
@[simp] theorem State.modSp_keys (s : State) (n : Nat) (f : SubPart → SubPart) : (s.modSp n f).keys = s.keys := rfl
@[simp] theorem State.modSp_remap (s : State) (n : Nat) (f : SubPart → SubPart) : (s.modSp n f).remap = s.remap := rfl
@[simp] theorem State.modSp_msi (s : State) (n : Nat) (f : SubPart → SubPart) : (s.modSp n f).msi = s.msi := rfl
@[simp] theorem State.modSp_fgs (s : State) (n : Nat) (f : SubPart → SubPart) : (s.modSp n f).fgs = s.fgs := rfl
@[simp] theorem State.modSp_cgs (s : State) (n : Nat) (f : SubPart → SubPart) : (s.modSp n f).cgs = s.cgs := rfl
@[simp] theorem State.modSp_kvops (s : State) (n : Nat) (f : SubPart → SubPart) : (s.modSp n f).kvops = s.kvops := rfl
@[simp] theorem State.modSp_kvcopies (s : State) (n : Nat) (f : SubPart → SubPart) : (s.modSp n f).kvcopies = s.kvcopies := rfl
@[simp] theorem State.modSp_reqs (s : State) (n : Nat) (f : SubPart → SubPart) : (s.modSp n f).reqs = s.reqs := rfl
@[simp] theorem State.modSp_out (s : State) (n : Nat) (f : SubPart → SubPart) : (s.modSp n f).out = s.out := rfl
@[simp] theorem State.modSp_wire (s : State) (n : Nat) (f : SubPart → SubPart) : (s.modSp n f).wire = s.wire := rfl
@[simp] theorem State.modSp_unsent (s : State) (n : Nat) (f : SubPart → SubPart) : (s.modSp n f).unsent = s.unsent := rfl
@[simp] theorem State.modSp_cwait (s : State) (n : Nat) (f : SubPart → SubPart) : (s.modSp n f).cwait = s.cwait := rfl
@[simp] theorem State.modSp_cout (s : State) (n : Nat) (f : SubPart → SubPart) : (s.modSp n f).cout = s.cout := rfl
@[simp] theorem State.modSp_iacks (s : State) (n : Nat) (f : SubPart → SubPart) : (s.modSp n f).iacks = s.iacks := rfl
@[simp] theorem State.modSp_ballots (s : State) (n : Nat) (f : SubPart → SubPart) : (s.modSp n f).ballots = s.ballots := rfl
@[simp] theorem State.modSp_halo (s : State) (n : Nat) (f : SubPart → SubPart) : (s.modSp n f).halo = s.halo := rfl
@[simp] theorem State.modSp_dir (s : State) (n : Nat) (f : SubPart → SubPart) : (s.modSp n f).dir = s.dir := rfl
@[simp] theorem State.modSp_ports (s : State) (n : Nat) (f : SubPart → SubPart) : (s.modSp n f).ports = s.ports := rfl
@[simp] theorem State.modSp_slots (s : State) (n : Nat) (f : SubPart → SubPart) : (s.modSp n f).slots = s.slots := rfl
@[simp] theorem State.modSp_allow (s : State) (n : Nat) (f : SubPart → SubPart) : (s.modSp n f).allow = s.allow := rfl
@[simp] theorem State.modSp_pool (s : State) (n : Nat) (f : SubPart → SubPart) : (s.modSp n f).pool = s.pool := rfl
@[simp] theorem State.modSp_phase (s : State) (n : Nat) (f : SubPart → SubPart) : (s.modSp n f).phase = s.phase := rfl
@[simp] theorem State.modSp_gangTag (s : State) (n : Nat) (f : SubPart → SubPart) : (s.modSp n f).gangTag = s.gangTag := rfl
@[simp] theorem State.modSp_setOwner (s : State) (n : Nat) (f : SubPart → SubPart) : (s.modSp n f).setOwner = s.setOwner := rfl
@[simp] theorem State.modSp_llcCnt (s : State) (n : Nat) (f : SubPart → SubPart) : (s.modSp n f).llcCnt = s.llcCnt := rfl
@[simp] theorem State.modSp_hbmCnt (s : State) (n : Nat) (f : SubPart → SubPart) : (s.modSp n f).hbmCnt = s.hbmCnt := rfl
@[simp] theorem State.modSp_lcus (s : State) (n : Nat) (f : SubPart → SubPart) : (s.modSp n f).lcus = s.lcus := rfl
@[simp] theorem State.modSp_images (s : State) (n : Nat) (f : SubPart → SubPart) : (s.modSp n f).images = s.images := rfl
@[simp] theorem State.modSp_mgmt (s : State) (n : Nat) (f : SubPart → SubPart) : (s.modSp n f).mgmt = s.mgmt := rfl
@[simp] theorem State.modSp_boot (s : State) (n : Nat) (f : SubPart → SubPart) : (s.modSp n f).boot = s.boot := rfl
@[simp] theorem State.modSp_answer (s : State) (n : Nat) (f : SubPart → SubPart) : (s.modSp n f).answer = s.answer := rfl
@[simp] theorem State.modSp_atsWait (s : State) (n : Nat) (f : SubPart → SubPart) : (s.modSp n f).atsWait = s.atsWait := rfl
@[simp] theorem State.modSp_atsBad (s : State) (n : Nat) (f : SubPart → SubPart) : (s.modSp n f).atsBad = s.atsBad := rfl
@[simp] theorem State.modSp_msix (s : State) (n : Nat) (f : SubPart → SubPart) : (s.modSp n f).msix = s.msix := rfl
@[simp] theorem State.modSp_pba (s : State) (n : Nat) (f : SubPart → SubPart) : (s.modSp n f).pba = s.pba := rfl
@[simp] theorem State.modSp_bar4 (s : State) (n : Nat) (f : SubPart → SubPart) : (s.modSp n f).bar4 = s.bar4 := rfl

/-! ## modWg -/

@[simp] theorem State.modWg_cur (s : State) (g : Nat) (f : Workgroup → Workgroup) : (s.modWg g f).cur = s.cur := rfl
@[simp] theorem State.modWg_clock (s : State) (g : Nat) (f : Workgroup → Workgroup) : (s.modWg g f).clock = s.clock := rfl
@[simp] theorem State.modWg_free (s : State) (g : Nat) (f : Workgroup → Workgroup) : (s.modWg g f).free = s.free := rfl
@[simp] theorem State.modWg_turn (s : State) (g : Nat) (f : Workgroup → Workgroup) : (s.modWg g f).turn = s.turn := rfl
@[simp] theorem State.modWg_nextId (s : State) (g : Nat) (f : Workgroup → Workgroup) : (s.modWg g f).nextId = s.nextId := rfl
@[simp] theorem State.modWg_agenda (s : State) (g : Nat) (f : Workgroup → Workgroup) : (s.modWg g f).agenda = s.agenda := rfl
@[simp] theorem State.modWg_devid (s : State) (g : Nat) (f : Workgroup → Workgroup) : (s.modWg g f).devid = s.devid := rfl
@[simp] theorem State.modWg_waves (s : State) (g : Nat) (f : Workgroup → Workgroup) : (s.modWg g f).waves = s.waves := rfl
@[simp] theorem State.modWg_launches (s : State) (g : Nat) (f : Workgroup → Workgroup) : (s.modWg g f).launches = s.launches := rfl
@[simp] theorem State.modWg_sps (s : State) (g : Nat) (f : Workgroup → Workgroup) : (s.modWg g f).sps = s.sps := rfl
@[simp] theorem State.modWg_cores (s : State) (g : Nat) (f : Workgroup → Workgroup) : (s.modWg g f).cores = s.cores := rfl
@[simp] theorem State.modWg_engines (s : State) (g : Nat) (f : Workgroup → Workgroup) : (s.modWg g f).engines = s.engines := rfl
@[simp] theorem State.modWg_ismvq (s : State) (g : Nat) (f : Workgroup → Workgroup) : (s.modWg g f).ismvq = s.ismvq := rfl
@[simp] theorem State.modWg_mem (s : State) (g : Nat) (f : Workgroup → Workgroup) : (s.modWg g f).mem = s.mem := rfl
@[simp] theorem State.modWg_host (s : State) (g : Nat) (f : Workgroup → Workgroup) : (s.modWg g f).host = s.host := rfl
@[simp] theorem State.modWg_peer (s : State) (g : Nat) (f : Workgroup → Workgroup) : (s.modWg g f).peer = s.peer := rfl
@[simp] theorem State.modWg_scratch (s : State) (g : Nat) (f : Workgroup → Workgroup) : (s.modWg g f).scratch = s.scratch := rfl
@[simp] theorem State.modWg_fe (s : State) (g : Nat) (f : Workgroup → Workgroup) : (s.modWg g f).fe = s.fe := rfl
@[simp] theorem State.modWg_acc (s : State) (g : Nat) (f : Workgroup → Workgroup) : (s.modWg g f).acc = s.acc := rfl
@[simp] theorem State.modWg_accInt (s : State) (g : Nat) (f : Workgroup → Workgroup) : (s.modWg g f).accInt = s.accInt := rfl
@[simp] theorem State.modWg_llc (s : State) (g : Nat) (f : Workgroup → Workgroup) : (s.modWg g f).llc = s.llc := rfl
@[simp] theorem State.modWg_l1 (s : State) (g : Nat) (f : Workgroup → Workgroup) : (s.modWg g f).l1 = s.l1 := rfl
@[simp] theorem State.modWg_icache (s : State) (g : Nat) (f : Workgroup → Workgroup) : (s.modWg g f).icache = s.icache := rfl
@[simp] theorem State.modWg_tlb (s : State) (g : Nat) (f : Workgroup → Workgroup) : (s.modWg g f).tlb = s.tlb := rfl
@[simp] theorem State.modWg_bounce (s : State) (g : Nat) (f : Workgroup → Workgroup) : (s.modWg g f).bounce = s.bounce := rfl
@[simp] theorem State.modWg_leaving (s : State) (g : Nat) (f : Workgroup → Workgroup) : (s.modWg g f).leaving = s.leaving := rfl
@[simp] theorem State.modWg_vds (s : State) (g : Nat) (f : Workgroup → Workgroup) : (s.modWg g f).vds = s.vds := rfl
@[simp] theorem State.modWg_ctxs (s : State) (g : Nat) (f : Workgroup → Workgroup) : (s.modWg g f).ctxs = s.ctxs := rfl
@[simp] theorem State.modWg_queues (s : State) (g : Nat) (f : Workgroup → Workgroup) : (s.modWg g f).queues = s.queues := rfl
@[simp] theorem State.modWg_fot (s : State) (g : Nat) (f : Workgroup → Workgroup) : (s.modWg g f).fot = s.fot := rfl
@[simp] theorem State.modWg_sweep (s : State) (g : Nat) (f : Workgroup → Workgroup) : (s.modWg g f).sweep = s.sweep := rfl
@[simp] theorem State.modWg_holdoff (s : State) (g : Nat) (f : Workgroup → Workgroup) : (s.modWg g f).holdoff = s.holdoff := rfl
@[simp] theorem State.modWg_keys (s : State) (g : Nat) (f : Workgroup → Workgroup) : (s.modWg g f).keys = s.keys := rfl
@[simp] theorem State.modWg_remap (s : State) (g : Nat) (f : Workgroup → Workgroup) : (s.modWg g f).remap = s.remap := rfl
@[simp] theorem State.modWg_msi (s : State) (g : Nat) (f : Workgroup → Workgroup) : (s.modWg g f).msi = s.msi := rfl
@[simp] theorem State.modWg_fgs (s : State) (g : Nat) (f : Workgroup → Workgroup) : (s.modWg g f).fgs = s.fgs := rfl
@[simp] theorem State.modWg_cgs (s : State) (g : Nat) (f : Workgroup → Workgroup) : (s.modWg g f).cgs = s.cgs := rfl
@[simp] theorem State.modWg_kvops (s : State) (g : Nat) (f : Workgroup → Workgroup) : (s.modWg g f).kvops = s.kvops := rfl
@[simp] theorem State.modWg_kvcopies (s : State) (g : Nat) (f : Workgroup → Workgroup) : (s.modWg g f).kvcopies = s.kvcopies := rfl
@[simp] theorem State.modWg_reqs (s : State) (g : Nat) (f : Workgroup → Workgroup) : (s.modWg g f).reqs = s.reqs := rfl
@[simp] theorem State.modWg_out (s : State) (g : Nat) (f : Workgroup → Workgroup) : (s.modWg g f).out = s.out := rfl
@[simp] theorem State.modWg_wire (s : State) (g : Nat) (f : Workgroup → Workgroup) : (s.modWg g f).wire = s.wire := rfl
@[simp] theorem State.modWg_unsent (s : State) (g : Nat) (f : Workgroup → Workgroup) : (s.modWg g f).unsent = s.unsent := rfl
@[simp] theorem State.modWg_cwait (s : State) (g : Nat) (f : Workgroup → Workgroup) : (s.modWg g f).cwait = s.cwait := rfl
@[simp] theorem State.modWg_cout (s : State) (g : Nat) (f : Workgroup → Workgroup) : (s.modWg g f).cout = s.cout := rfl
@[simp] theorem State.modWg_iacks (s : State) (g : Nat) (f : Workgroup → Workgroup) : (s.modWg g f).iacks = s.iacks := rfl
@[simp] theorem State.modWg_ballots (s : State) (g : Nat) (f : Workgroup → Workgroup) : (s.modWg g f).ballots = s.ballots := rfl
@[simp] theorem State.modWg_halo (s : State) (g : Nat) (f : Workgroup → Workgroup) : (s.modWg g f).halo = s.halo := rfl
@[simp] theorem State.modWg_dir (s : State) (g : Nat) (f : Workgroup → Workgroup) : (s.modWg g f).dir = s.dir := rfl
@[simp] theorem State.modWg_ports (s : State) (g : Nat) (f : Workgroup → Workgroup) : (s.modWg g f).ports = s.ports := rfl
@[simp] theorem State.modWg_slots (s : State) (g : Nat) (f : Workgroup → Workgroup) : (s.modWg g f).slots = s.slots := rfl
@[simp] theorem State.modWg_allow (s : State) (g : Nat) (f : Workgroup → Workgroup) : (s.modWg g f).allow = s.allow := rfl
@[simp] theorem State.modWg_pool (s : State) (g : Nat) (f : Workgroup → Workgroup) : (s.modWg g f).pool = s.pool := rfl
@[simp] theorem State.modWg_phase (s : State) (g : Nat) (f : Workgroup → Workgroup) : (s.modWg g f).phase = s.phase := rfl
@[simp] theorem State.modWg_gangTag (s : State) (g : Nat) (f : Workgroup → Workgroup) : (s.modWg g f).gangTag = s.gangTag := rfl
@[simp] theorem State.modWg_setOwner (s : State) (g : Nat) (f : Workgroup → Workgroup) : (s.modWg g f).setOwner = s.setOwner := rfl
@[simp] theorem State.modWg_llcCnt (s : State) (g : Nat) (f : Workgroup → Workgroup) : (s.modWg g f).llcCnt = s.llcCnt := rfl
@[simp] theorem State.modWg_hbmCnt (s : State) (g : Nat) (f : Workgroup → Workgroup) : (s.modWg g f).hbmCnt = s.hbmCnt := rfl
@[simp] theorem State.modWg_lcus (s : State) (g : Nat) (f : Workgroup → Workgroup) : (s.modWg g f).lcus = s.lcus := rfl
@[simp] theorem State.modWg_images (s : State) (g : Nat) (f : Workgroup → Workgroup) : (s.modWg g f).images = s.images := rfl
@[simp] theorem State.modWg_mgmt (s : State) (g : Nat) (f : Workgroup → Workgroup) : (s.modWg g f).mgmt = s.mgmt := rfl
@[simp] theorem State.modWg_boot (s : State) (g : Nat) (f : Workgroup → Workgroup) : (s.modWg g f).boot = s.boot := rfl
@[simp] theorem State.modWg_answer (s : State) (g : Nat) (f : Workgroup → Workgroup) : (s.modWg g f).answer = s.answer := rfl
@[simp] theorem State.modWg_atsWait (s : State) (g : Nat) (f : Workgroup → Workgroup) : (s.modWg g f).atsWait = s.atsWait := rfl
@[simp] theorem State.modWg_atsBad (s : State) (g : Nat) (f : Workgroup → Workgroup) : (s.modWg g f).atsBad = s.atsBad := rfl
@[simp] theorem State.modWg_msix (s : State) (g : Nat) (f : Workgroup → Workgroup) : (s.modWg g f).msix = s.msix := rfl
@[simp] theorem State.modWg_pba (s : State) (g : Nat) (f : Workgroup → Workgroup) : (s.modWg g f).pba = s.pba := rfl
@[simp] theorem State.modWg_bar4 (s : State) (g : Nat) (f : Workgroup → Workgroup) : (s.modWg g f).bar4 = s.bar4 := rfl

/-! ## modVd -/

@[simp] theorem State.modVd_cur (s : State) (d : Nat) (f : VDev → VDev) : (s.modVd d f).cur = s.cur := rfl
@[simp] theorem State.modVd_clock (s : State) (d : Nat) (f : VDev → VDev) : (s.modVd d f).clock = s.clock := rfl
@[simp] theorem State.modVd_free (s : State) (d : Nat) (f : VDev → VDev) : (s.modVd d f).free = s.free := rfl
@[simp] theorem State.modVd_turn (s : State) (d : Nat) (f : VDev → VDev) : (s.modVd d f).turn = s.turn := rfl
@[simp] theorem State.modVd_nextId (s : State) (d : Nat) (f : VDev → VDev) : (s.modVd d f).nextId = s.nextId := rfl
@[simp] theorem State.modVd_agenda (s : State) (d : Nat) (f : VDev → VDev) : (s.modVd d f).agenda = s.agenda := rfl
@[simp] theorem State.modVd_devid (s : State) (d : Nat) (f : VDev → VDev) : (s.modVd d f).devid = s.devid := rfl
@[simp] theorem State.modVd_waves (s : State) (d : Nat) (f : VDev → VDev) : (s.modVd d f).waves = s.waves := rfl
@[simp] theorem State.modVd_wgs (s : State) (d : Nat) (f : VDev → VDev) : (s.modVd d f).wgs = s.wgs := rfl
@[simp] theorem State.modVd_launches (s : State) (d : Nat) (f : VDev → VDev) : (s.modVd d f).launches = s.launches := rfl
@[simp] theorem State.modVd_sps (s : State) (d : Nat) (f : VDev → VDev) : (s.modVd d f).sps = s.sps := rfl
@[simp] theorem State.modVd_cores (s : State) (d : Nat) (f : VDev → VDev) : (s.modVd d f).cores = s.cores := rfl
@[simp] theorem State.modVd_engines (s : State) (d : Nat) (f : VDev → VDev) : (s.modVd d f).engines = s.engines := rfl
@[simp] theorem State.modVd_ismvq (s : State) (d : Nat) (f : VDev → VDev) : (s.modVd d f).ismvq = s.ismvq := rfl
@[simp] theorem State.modVd_mem (s : State) (d : Nat) (f : VDev → VDev) : (s.modVd d f).mem = s.mem := rfl
@[simp] theorem State.modVd_host (s : State) (d : Nat) (f : VDev → VDev) : (s.modVd d f).host = s.host := rfl
@[simp] theorem State.modVd_peer (s : State) (d : Nat) (f : VDev → VDev) : (s.modVd d f).peer = s.peer := rfl
@[simp] theorem State.modVd_scratch (s : State) (d : Nat) (f : VDev → VDev) : (s.modVd d f).scratch = s.scratch := rfl
@[simp] theorem State.modVd_fe (s : State) (d : Nat) (f : VDev → VDev) : (s.modVd d f).fe = s.fe := rfl
@[simp] theorem State.modVd_acc (s : State) (d : Nat) (f : VDev → VDev) : (s.modVd d f).acc = s.acc := rfl
@[simp] theorem State.modVd_accInt (s : State) (d : Nat) (f : VDev → VDev) : (s.modVd d f).accInt = s.accInt := rfl
@[simp] theorem State.modVd_llc (s : State) (d : Nat) (f : VDev → VDev) : (s.modVd d f).llc = s.llc := rfl
@[simp] theorem State.modVd_l1 (s : State) (d : Nat) (f : VDev → VDev) : (s.modVd d f).l1 = s.l1 := rfl
@[simp] theorem State.modVd_icache (s : State) (d : Nat) (f : VDev → VDev) : (s.modVd d f).icache = s.icache := rfl
@[simp] theorem State.modVd_tlb (s : State) (d : Nat) (f : VDev → VDev) : (s.modVd d f).tlb = s.tlb := rfl
@[simp] theorem State.modVd_bounce (s : State) (d : Nat) (f : VDev → VDev) : (s.modVd d f).bounce = s.bounce := rfl
@[simp] theorem State.modVd_leaving (s : State) (d : Nat) (f : VDev → VDev) : (s.modVd d f).leaving = s.leaving := rfl
@[simp] theorem State.modVd_ctxs (s : State) (d : Nat) (f : VDev → VDev) : (s.modVd d f).ctxs = s.ctxs := rfl
@[simp] theorem State.modVd_queues (s : State) (d : Nat) (f : VDev → VDev) : (s.modVd d f).queues = s.queues := rfl
@[simp] theorem State.modVd_fot (s : State) (d : Nat) (f : VDev → VDev) : (s.modVd d f).fot = s.fot := rfl
@[simp] theorem State.modVd_sweep (s : State) (d : Nat) (f : VDev → VDev) : (s.modVd d f).sweep = s.sweep := rfl
@[simp] theorem State.modVd_holdoff (s : State) (d : Nat) (f : VDev → VDev) : (s.modVd d f).holdoff = s.holdoff := rfl
@[simp] theorem State.modVd_keys (s : State) (d : Nat) (f : VDev → VDev) : (s.modVd d f).keys = s.keys := rfl
@[simp] theorem State.modVd_remap (s : State) (d : Nat) (f : VDev → VDev) : (s.modVd d f).remap = s.remap := rfl
@[simp] theorem State.modVd_msi (s : State) (d : Nat) (f : VDev → VDev) : (s.modVd d f).msi = s.msi := rfl
@[simp] theorem State.modVd_fgs (s : State) (d : Nat) (f : VDev → VDev) : (s.modVd d f).fgs = s.fgs := rfl
@[simp] theorem State.modVd_cgs (s : State) (d : Nat) (f : VDev → VDev) : (s.modVd d f).cgs = s.cgs := rfl
@[simp] theorem State.modVd_kvops (s : State) (d : Nat) (f : VDev → VDev) : (s.modVd d f).kvops = s.kvops := rfl
@[simp] theorem State.modVd_kvcopies (s : State) (d : Nat) (f : VDev → VDev) : (s.modVd d f).kvcopies = s.kvcopies := rfl
@[simp] theorem State.modVd_reqs (s : State) (d : Nat) (f : VDev → VDev) : (s.modVd d f).reqs = s.reqs := rfl
@[simp] theorem State.modVd_out (s : State) (d : Nat) (f : VDev → VDev) : (s.modVd d f).out = s.out := rfl
@[simp] theorem State.modVd_wire (s : State) (d : Nat) (f : VDev → VDev) : (s.modVd d f).wire = s.wire := rfl
@[simp] theorem State.modVd_unsent (s : State) (d : Nat) (f : VDev → VDev) : (s.modVd d f).unsent = s.unsent := rfl
@[simp] theorem State.modVd_cwait (s : State) (d : Nat) (f : VDev → VDev) : (s.modVd d f).cwait = s.cwait := rfl
@[simp] theorem State.modVd_cout (s : State) (d : Nat) (f : VDev → VDev) : (s.modVd d f).cout = s.cout := rfl
@[simp] theorem State.modVd_iacks (s : State) (d : Nat) (f : VDev → VDev) : (s.modVd d f).iacks = s.iacks := rfl
@[simp] theorem State.modVd_ballots (s : State) (d : Nat) (f : VDev → VDev) : (s.modVd d f).ballots = s.ballots := rfl
@[simp] theorem State.modVd_halo (s : State) (d : Nat) (f : VDev → VDev) : (s.modVd d f).halo = s.halo := rfl
@[simp] theorem State.modVd_dir (s : State) (d : Nat) (f : VDev → VDev) : (s.modVd d f).dir = s.dir := rfl
@[simp] theorem State.modVd_ports (s : State) (d : Nat) (f : VDev → VDev) : (s.modVd d f).ports = s.ports := rfl
@[simp] theorem State.modVd_slots (s : State) (d : Nat) (f : VDev → VDev) : (s.modVd d f).slots = s.slots := rfl
@[simp] theorem State.modVd_allow (s : State) (d : Nat) (f : VDev → VDev) : (s.modVd d f).allow = s.allow := rfl
@[simp] theorem State.modVd_pool (s : State) (d : Nat) (f : VDev → VDev) : (s.modVd d f).pool = s.pool := rfl
@[simp] theorem State.modVd_phase (s : State) (d : Nat) (f : VDev → VDev) : (s.modVd d f).phase = s.phase := rfl
@[simp] theorem State.modVd_gangTag (s : State) (d : Nat) (f : VDev → VDev) : (s.modVd d f).gangTag = s.gangTag := rfl
@[simp] theorem State.modVd_setOwner (s : State) (d : Nat) (f : VDev → VDev) : (s.modVd d f).setOwner = s.setOwner := rfl
@[simp] theorem State.modVd_llcCnt (s : State) (d : Nat) (f : VDev → VDev) : (s.modVd d f).llcCnt = s.llcCnt := rfl
@[simp] theorem State.modVd_hbmCnt (s : State) (d : Nat) (f : VDev → VDev) : (s.modVd d f).hbmCnt = s.hbmCnt := rfl
@[simp] theorem State.modVd_lcus (s : State) (d : Nat) (f : VDev → VDev) : (s.modVd d f).lcus = s.lcus := rfl
@[simp] theorem State.modVd_images (s : State) (d : Nat) (f : VDev → VDev) : (s.modVd d f).images = s.images := rfl
@[simp] theorem State.modVd_mgmt (s : State) (d : Nat) (f : VDev → VDev) : (s.modVd d f).mgmt = s.mgmt := rfl
@[simp] theorem State.modVd_boot (s : State) (d : Nat) (f : VDev → VDev) : (s.modVd d f).boot = s.boot := rfl
@[simp] theorem State.modVd_answer (s : State) (d : Nat) (f : VDev → VDev) : (s.modVd d f).answer = s.answer := rfl
@[simp] theorem State.modVd_atsWait (s : State) (d : Nat) (f : VDev → VDev) : (s.modVd d f).atsWait = s.atsWait := rfl
@[simp] theorem State.modVd_atsBad (s : State) (d : Nat) (f : VDev → VDev) : (s.modVd d f).atsBad = s.atsBad := rfl
@[simp] theorem State.modVd_msix (s : State) (d : Nat) (f : VDev → VDev) : (s.modVd d f).msix = s.msix := rfl
@[simp] theorem State.modVd_pba (s : State) (d : Nat) (f : VDev → VDev) : (s.modVd d f).pba = s.pba := rfl
@[simp] theorem State.modVd_bar4 (s : State) (d : Nat) (f : VDev → VDev) : (s.modVd d f).bar4 = s.bar4 := rfl

/-! ## modCtx -/

@[simp] theorem State.modCtx_cur (s : State) (d c : Nat) (f : Context → Context) : (s.modCtx d c f).cur = s.cur := rfl
@[simp] theorem State.modCtx_clock (s : State) (d c : Nat) (f : Context → Context) : (s.modCtx d c f).clock = s.clock := rfl
@[simp] theorem State.modCtx_free (s : State) (d c : Nat) (f : Context → Context) : (s.modCtx d c f).free = s.free := rfl
@[simp] theorem State.modCtx_turn (s : State) (d c : Nat) (f : Context → Context) : (s.modCtx d c f).turn = s.turn := rfl
@[simp] theorem State.modCtx_nextId (s : State) (d c : Nat) (f : Context → Context) : (s.modCtx d c f).nextId = s.nextId := rfl
@[simp] theorem State.modCtx_agenda (s : State) (d c : Nat) (f : Context → Context) : (s.modCtx d c f).agenda = s.agenda := rfl
@[simp] theorem State.modCtx_devid (s : State) (d c : Nat) (f : Context → Context) : (s.modCtx d c f).devid = s.devid := rfl
@[simp] theorem State.modCtx_waves (s : State) (d c : Nat) (f : Context → Context) : (s.modCtx d c f).waves = s.waves := rfl
@[simp] theorem State.modCtx_wgs (s : State) (d c : Nat) (f : Context → Context) : (s.modCtx d c f).wgs = s.wgs := rfl
@[simp] theorem State.modCtx_launches (s : State) (d c : Nat) (f : Context → Context) : (s.modCtx d c f).launches = s.launches := rfl
@[simp] theorem State.modCtx_sps (s : State) (d c : Nat) (f : Context → Context) : (s.modCtx d c f).sps = s.sps := rfl
@[simp] theorem State.modCtx_cores (s : State) (d c : Nat) (f : Context → Context) : (s.modCtx d c f).cores = s.cores := rfl
@[simp] theorem State.modCtx_engines (s : State) (d c : Nat) (f : Context → Context) : (s.modCtx d c f).engines = s.engines := rfl
@[simp] theorem State.modCtx_ismvq (s : State) (d c : Nat) (f : Context → Context) : (s.modCtx d c f).ismvq = s.ismvq := rfl
@[simp] theorem State.modCtx_mem (s : State) (d c : Nat) (f : Context → Context) : (s.modCtx d c f).mem = s.mem := rfl
@[simp] theorem State.modCtx_host (s : State) (d c : Nat) (f : Context → Context) : (s.modCtx d c f).host = s.host := rfl
@[simp] theorem State.modCtx_peer (s : State) (d c : Nat) (f : Context → Context) : (s.modCtx d c f).peer = s.peer := rfl
@[simp] theorem State.modCtx_scratch (s : State) (d c : Nat) (f : Context → Context) : (s.modCtx d c f).scratch = s.scratch := rfl
@[simp] theorem State.modCtx_fe (s : State) (d c : Nat) (f : Context → Context) : (s.modCtx d c f).fe = s.fe := rfl
@[simp] theorem State.modCtx_acc (s : State) (d c : Nat) (f : Context → Context) : (s.modCtx d c f).acc = s.acc := rfl
@[simp] theorem State.modCtx_accInt (s : State) (d c : Nat) (f : Context → Context) : (s.modCtx d c f).accInt = s.accInt := rfl
@[simp] theorem State.modCtx_llc (s : State) (d c : Nat) (f : Context → Context) : (s.modCtx d c f).llc = s.llc := rfl
@[simp] theorem State.modCtx_l1 (s : State) (d c : Nat) (f : Context → Context) : (s.modCtx d c f).l1 = s.l1 := rfl
@[simp] theorem State.modCtx_icache (s : State) (d c : Nat) (f : Context → Context) : (s.modCtx d c f).icache = s.icache := rfl
@[simp] theorem State.modCtx_tlb (s : State) (d c : Nat) (f : Context → Context) : (s.modCtx d c f).tlb = s.tlb := rfl
@[simp] theorem State.modCtx_bounce (s : State) (d c : Nat) (f : Context → Context) : (s.modCtx d c f).bounce = s.bounce := rfl
@[simp] theorem State.modCtx_leaving (s : State) (d c : Nat) (f : Context → Context) : (s.modCtx d c f).leaving = s.leaving := rfl
@[simp] theorem State.modCtx_vds (s : State) (d c : Nat) (f : Context → Context) : (s.modCtx d c f).vds = s.vds := rfl
@[simp] theorem State.modCtx_queues (s : State) (d c : Nat) (f : Context → Context) : (s.modCtx d c f).queues = s.queues := rfl
@[simp] theorem State.modCtx_fot (s : State) (d c : Nat) (f : Context → Context) : (s.modCtx d c f).fot = s.fot := rfl
@[simp] theorem State.modCtx_sweep (s : State) (d c : Nat) (f : Context → Context) : (s.modCtx d c f).sweep = s.sweep := rfl
@[simp] theorem State.modCtx_holdoff (s : State) (d c : Nat) (f : Context → Context) : (s.modCtx d c f).holdoff = s.holdoff := rfl
@[simp] theorem State.modCtx_keys (s : State) (d c : Nat) (f : Context → Context) : (s.modCtx d c f).keys = s.keys := rfl
@[simp] theorem State.modCtx_remap (s : State) (d c : Nat) (f : Context → Context) : (s.modCtx d c f).remap = s.remap := rfl
@[simp] theorem State.modCtx_msi (s : State) (d c : Nat) (f : Context → Context) : (s.modCtx d c f).msi = s.msi := rfl
@[simp] theorem State.modCtx_fgs (s : State) (d c : Nat) (f : Context → Context) : (s.modCtx d c f).fgs = s.fgs := rfl
@[simp] theorem State.modCtx_cgs (s : State) (d c : Nat) (f : Context → Context) : (s.modCtx d c f).cgs = s.cgs := rfl
@[simp] theorem State.modCtx_kvops (s : State) (d c : Nat) (f : Context → Context) : (s.modCtx d c f).kvops = s.kvops := rfl
@[simp] theorem State.modCtx_kvcopies (s : State) (d c : Nat) (f : Context → Context) : (s.modCtx d c f).kvcopies = s.kvcopies := rfl
@[simp] theorem State.modCtx_reqs (s : State) (d c : Nat) (f : Context → Context) : (s.modCtx d c f).reqs = s.reqs := rfl
@[simp] theorem State.modCtx_out (s : State) (d c : Nat) (f : Context → Context) : (s.modCtx d c f).out = s.out := rfl
@[simp] theorem State.modCtx_wire (s : State) (d c : Nat) (f : Context → Context) : (s.modCtx d c f).wire = s.wire := rfl
@[simp] theorem State.modCtx_unsent (s : State) (d c : Nat) (f : Context → Context) : (s.modCtx d c f).unsent = s.unsent := rfl
@[simp] theorem State.modCtx_cwait (s : State) (d c : Nat) (f : Context → Context) : (s.modCtx d c f).cwait = s.cwait := rfl
@[simp] theorem State.modCtx_cout (s : State) (d c : Nat) (f : Context → Context) : (s.modCtx d c f).cout = s.cout := rfl
@[simp] theorem State.modCtx_iacks (s : State) (d c : Nat) (f : Context → Context) : (s.modCtx d c f).iacks = s.iacks := rfl
@[simp] theorem State.modCtx_ballots (s : State) (d c : Nat) (f : Context → Context) : (s.modCtx d c f).ballots = s.ballots := rfl
@[simp] theorem State.modCtx_halo (s : State) (d c : Nat) (f : Context → Context) : (s.modCtx d c f).halo = s.halo := rfl
@[simp] theorem State.modCtx_dir (s : State) (d c : Nat) (f : Context → Context) : (s.modCtx d c f).dir = s.dir := rfl
@[simp] theorem State.modCtx_ports (s : State) (d c : Nat) (f : Context → Context) : (s.modCtx d c f).ports = s.ports := rfl
@[simp] theorem State.modCtx_slots (s : State) (d c : Nat) (f : Context → Context) : (s.modCtx d c f).slots = s.slots := rfl
@[simp] theorem State.modCtx_allow (s : State) (d c : Nat) (f : Context → Context) : (s.modCtx d c f).allow = s.allow := rfl
@[simp] theorem State.modCtx_pool (s : State) (d c : Nat) (f : Context → Context) : (s.modCtx d c f).pool = s.pool := rfl
@[simp] theorem State.modCtx_phase (s : State) (d c : Nat) (f : Context → Context) : (s.modCtx d c f).phase = s.phase := rfl
@[simp] theorem State.modCtx_gangTag (s : State) (d c : Nat) (f : Context → Context) : (s.modCtx d c f).gangTag = s.gangTag := rfl
@[simp] theorem State.modCtx_setOwner (s : State) (d c : Nat) (f : Context → Context) : (s.modCtx d c f).setOwner = s.setOwner := rfl
@[simp] theorem State.modCtx_llcCnt (s : State) (d c : Nat) (f : Context → Context) : (s.modCtx d c f).llcCnt = s.llcCnt := rfl
@[simp] theorem State.modCtx_hbmCnt (s : State) (d c : Nat) (f : Context → Context) : (s.modCtx d c f).hbmCnt = s.hbmCnt := rfl
@[simp] theorem State.modCtx_lcus (s : State) (d c : Nat) (f : Context → Context) : (s.modCtx d c f).lcus = s.lcus := rfl
@[simp] theorem State.modCtx_images (s : State) (d c : Nat) (f : Context → Context) : (s.modCtx d c f).images = s.images := rfl
@[simp] theorem State.modCtx_mgmt (s : State) (d c : Nat) (f : Context → Context) : (s.modCtx d c f).mgmt = s.mgmt := rfl
@[simp] theorem State.modCtx_boot (s : State) (d c : Nat) (f : Context → Context) : (s.modCtx d c f).boot = s.boot := rfl
@[simp] theorem State.modCtx_answer (s : State) (d c : Nat) (f : Context → Context) : (s.modCtx d c f).answer = s.answer := rfl
@[simp] theorem State.modCtx_atsWait (s : State) (d c : Nat) (f : Context → Context) : (s.modCtx d c f).atsWait = s.atsWait := rfl
@[simp] theorem State.modCtx_atsBad (s : State) (d c : Nat) (f : Context → Context) : (s.modCtx d c f).atsBad = s.atsBad := rfl
@[simp] theorem State.modCtx_msix (s : State) (d c : Nat) (f : Context → Context) : (s.modCtx d c f).msix = s.msix := rfl
@[simp] theorem State.modCtx_pba (s : State) (d c : Nat) (f : Context → Context) : (s.modCtx d c f).pba = s.pba := rfl
@[simp] theorem State.modCtx_bar4 (s : State) (d c : Nat) (f : Context → Context) : (s.modCtx d c f).bar4 = s.bar4 := rfl

/-! ## endRun: the run of a sub-partition ends -/

@[simp] theorem State.endRun_cur (s : State) (k : Nat) : (s.endRun k).cur = s.cur := rfl
@[simp] theorem State.endRun_clock (s : State) (k : Nat) : (s.endRun k).clock = s.clock := rfl
@[simp] theorem State.endRun_free (s : State) (k : Nat) : (s.endRun k).free = s.free := rfl
@[simp] theorem State.endRun_turn (s : State) (k : Nat) : (s.endRun k).turn = s.turn := rfl
@[simp] theorem State.endRun_nextId (s : State) (k : Nat) : (s.endRun k).nextId = s.nextId := rfl
@[simp] theorem State.endRun_agenda (s : State) (k : Nat) : (s.endRun k).agenda = s.agenda := rfl
@[simp] theorem State.endRun_devid (s : State) (k : Nat) : (s.endRun k).devid = s.devid := rfl
@[simp] theorem State.endRun_wgs (s : State) (k : Nat) : (s.endRun k).wgs = s.wgs := rfl
@[simp] theorem State.endRun_launches (s : State) (k : Nat) : (s.endRun k).launches = s.launches := rfl
@[simp] theorem State.endRun_cores (s : State) (k : Nat) : (s.endRun k).cores = s.cores := rfl
@[simp] theorem State.endRun_engines (s : State) (k : Nat) : (s.endRun k).engines = s.engines := rfl
@[simp] theorem State.endRun_ismvq (s : State) (k : Nat) : (s.endRun k).ismvq = s.ismvq := rfl
@[simp] theorem State.endRun_mem (s : State) (k : Nat) : (s.endRun k).mem = s.mem := rfl
@[simp] theorem State.endRun_host (s : State) (k : Nat) : (s.endRun k).host = s.host := rfl
@[simp] theorem State.endRun_peer (s : State) (k : Nat) : (s.endRun k).peer = s.peer := rfl
@[simp] theorem State.endRun_scratch (s : State) (k : Nat) : (s.endRun k).scratch = s.scratch := rfl
@[simp] theorem State.endRun_fe (s : State) (k : Nat) : (s.endRun k).fe = s.fe := rfl
@[simp] theorem State.endRun_acc (s : State) (k : Nat) : (s.endRun k).acc = s.acc := rfl
@[simp] theorem State.endRun_accInt (s : State) (k : Nat) : (s.endRun k).accInt = s.accInt := rfl
@[simp] theorem State.endRun_llc (s : State) (k : Nat) : (s.endRun k).llc = s.llc := rfl
@[simp] theorem State.endRun_l1 (s : State) (k : Nat) : (s.endRun k).l1 = s.l1 := rfl
@[simp] theorem State.endRun_icache (s : State) (k : Nat) : (s.endRun k).icache = s.icache := rfl
@[simp] theorem State.endRun_tlb (s : State) (k : Nat) : (s.endRun k).tlb = s.tlb := rfl
@[simp] theorem State.endRun_bounce (s : State) (k : Nat) : (s.endRun k).bounce = s.bounce := rfl
@[simp] theorem State.endRun_leaving (s : State) (k : Nat) : (s.endRun k).leaving = s.leaving := rfl
@[simp] theorem State.endRun_vds (s : State) (k : Nat) : (s.endRun k).vds = s.vds := rfl
@[simp] theorem State.endRun_ctxs (s : State) (k : Nat) : (s.endRun k).ctxs = s.ctxs := rfl
@[simp] theorem State.endRun_queues (s : State) (k : Nat) : (s.endRun k).queues = s.queues := rfl
@[simp] theorem State.endRun_fot (s : State) (k : Nat) : (s.endRun k).fot = s.fot := rfl
@[simp] theorem State.endRun_sweep (s : State) (k : Nat) : (s.endRun k).sweep = s.sweep := rfl
@[simp] theorem State.endRun_holdoff (s : State) (k : Nat) : (s.endRun k).holdoff = s.holdoff := rfl
@[simp] theorem State.endRun_keys (s : State) (k : Nat) : (s.endRun k).keys = s.keys := rfl
@[simp] theorem State.endRun_remap (s : State) (k : Nat) : (s.endRun k).remap = s.remap := rfl
@[simp] theorem State.endRun_msi (s : State) (k : Nat) : (s.endRun k).msi = s.msi := rfl
@[simp] theorem State.endRun_fgs (s : State) (k : Nat) : (s.endRun k).fgs = s.fgs := rfl
@[simp] theorem State.endRun_cgs (s : State) (k : Nat) : (s.endRun k).cgs = s.cgs := rfl
@[simp] theorem State.endRun_kvops (s : State) (k : Nat) : (s.endRun k).kvops = s.kvops := rfl
@[simp] theorem State.endRun_kvcopies (s : State) (k : Nat) : (s.endRun k).kvcopies = s.kvcopies := rfl
@[simp] theorem State.endRun_reqs (s : State) (k : Nat) : (s.endRun k).reqs = s.reqs := rfl
@[simp] theorem State.endRun_out (s : State) (k : Nat) : (s.endRun k).out = s.out := rfl
@[simp] theorem State.endRun_wire (s : State) (k : Nat) : (s.endRun k).wire = s.wire := rfl
@[simp] theorem State.endRun_unsent (s : State) (k : Nat) : (s.endRun k).unsent = s.unsent := rfl
@[simp] theorem State.endRun_cwait (s : State) (k : Nat) : (s.endRun k).cwait = s.cwait := rfl
@[simp] theorem State.endRun_cout (s : State) (k : Nat) : (s.endRun k).cout = s.cout := rfl
@[simp] theorem State.endRun_iacks (s : State) (k : Nat) : (s.endRun k).iacks = s.iacks := rfl
@[simp] theorem State.endRun_ballots (s : State) (k : Nat) : (s.endRun k).ballots = s.ballots := rfl
@[simp] theorem State.endRun_halo (s : State) (k : Nat) : (s.endRun k).halo = s.halo := rfl
@[simp] theorem State.endRun_dir (s : State) (k : Nat) : (s.endRun k).dir = s.dir := rfl
@[simp] theorem State.endRun_ports (s : State) (k : Nat) : (s.endRun k).ports = s.ports := rfl
@[simp] theorem State.endRun_slots (s : State) (k : Nat) : (s.endRun k).slots = s.slots := rfl
@[simp] theorem State.endRun_allow (s : State) (k : Nat) : (s.endRun k).allow = s.allow := rfl
@[simp] theorem State.endRun_pool (s : State) (k : Nat) : (s.endRun k).pool = s.pool := rfl
@[simp] theorem State.endRun_phase (s : State) (k : Nat) : (s.endRun k).phase = s.phase := rfl
@[simp] theorem State.endRun_gangTag (s : State) (k : Nat) : (s.endRun k).gangTag = s.gangTag := rfl
@[simp] theorem State.endRun_setOwner (s : State) (k : Nat) : (s.endRun k).setOwner = s.setOwner := rfl
@[simp] theorem State.endRun_llcCnt (s : State) (k : Nat) : (s.endRun k).llcCnt = s.llcCnt := rfl
@[simp] theorem State.endRun_hbmCnt (s : State) (k : Nat) : (s.endRun k).hbmCnt = s.hbmCnt := rfl
@[simp] theorem State.endRun_lcus (s : State) (k : Nat) : (s.endRun k).lcus = s.lcus := rfl
@[simp] theorem State.endRun_images (s : State) (k : Nat) : (s.endRun k).images = s.images := rfl
@[simp] theorem State.endRun_mgmt (s : State) (k : Nat) : (s.endRun k).mgmt = s.mgmt := rfl
@[simp] theorem State.endRun_boot (s : State) (k : Nat) : (s.endRun k).boot = s.boot := rfl
@[simp] theorem State.endRun_answer (s : State) (k : Nat) : (s.endRun k).answer = s.answer := rfl
@[simp] theorem State.endRun_atsWait (s : State) (k : Nat) : (s.endRun k).atsWait = s.atsWait := rfl
@[simp] theorem State.endRun_atsBad (s : State) (k : Nat) : (s.endRun k).atsBad = s.atsBad := rfl
@[simp] theorem State.endRun_msix (s : State) (k : Nat) : (s.endRun k).msix = s.msix := rfl
@[simp] theorem State.endRun_pba (s : State) (k : Nat) : (s.endRun k).pba = s.pba := rfl
@[simp] theorem State.endRun_bar4 (s : State) (k : Nat) : (s.endRun k).bar4 = s.bar4 := rfl

end Sys2Proof.Machine
end

