-- ==== Sys2Proof/Laws/Memory.lean ====
section
/-! SUPPORT. Laws/Memory.lean: what a byte reads after a write, and that every memory operation keeps the canonical form of
the memories. -/

namespace Sys2Proof.Machine

open Sys2Proof

/-! ## Bytes and values -/

theorem leBytes_length (x n : Nat) : (leBytes x n).length = n := by
  induction n generalizing x with
  | zero => rfl
  | succ n ih => simp [leBytes, ih]

theorem leNat_leBytes (x n : Nat) : leNat (leBytes x n) = x % 256 ^ n := by
  induction n generalizing x with
  | zero => simp [leBytes, leNat, Nat.mod_one]
  | succ n ih =>
    have h : 256 ^ (n + 1) = 256 * 256 ^ n := by rw [Nat.pow_succ, Nat.mul_comm]
    simp only [leBytes, leNat, ih, BitVec.toNat_ofNat]
    rw [h, Nat.mod_mul]

theorem leNat_lt (l : List Byte) : leNat l < 256 ^ l.length := by
  induction l with
  | nil => simp [leNat]
  | cons b r ih =>
    have := b.isLt
    simp only [leNat, List.length_cons, Nat.pow_succ]
    omega

/-! ## One memory: a byte after a write, and the canonical form -/

/-- A byte after a write: the byte written at its address, what stood there anywhere else. -/
theorem cellGet_cellSet (m : List Host.Cell) (a j : Nat) (b : Byte) :
    cellGet (cellSet m a b) j = if j = a then b else cellGet m j := Tab.getD_set m a j b 0

/-- A byte after a write of consecutive bytes: theirs inside their range, what stood there outside. -/
theorem cellGet_cellsSet (m : List Host.Cell) (a j : Nat) (bs : List Byte) :
    cellGet (cellsSet m a bs) j = if a ≤ j ∧ j < a + bs.length then bs.getD (j - a) 0 else cellGet m j := by
  induction bs generalizing m a with
  | nil => simp [cellsSet]
  | cons b r ih =>
    simp only [cellsSet, ih, cellGet_cellSet, List.length_cons]
    by_cases h1 : j = a
    · subst h1; simp
    · by_cases h2 : a + 1 ≤ j ∧ j < a + 1 + r.length
      · rw [if_pos h2, if_pos (by omega), show j - a = (j - (a + 1)) + 1 by omega]; simp
      · rw [if_neg h2, if_neg h1, if_neg (by omega)]

theorem cellGet_cellsSet_outside (m : List Host.Cell) {a j : Nat} {bs : List Byte} (h : j < a ∨ a + bs.length ≤ j) :
    cellGet (cellsSet m a bs) j = cellGet m j := by
  rw [cellGet_cellsSet, if_neg (by omega)]

theorem cellsGet_length (m : List Host.Cell) (a n : Nat) : (cellsGet m a n).length = n := by
  induction n generalizing a with
  | zero => rfl
  | succ n ih => simp [cellsGet, ih]

theorem cellsGet_getElem (m : List Host.Cell) (a n i : Nat) (h : i < (cellsGet m a n).length) :
    (cellsGet m a n)[i] = cellGet m (a + i) := by
  induction n generalizing a i with
  | zero => simp [cellsGet] at h
  | succ n ih =>
    cases i with
    | zero => rfl
    | succ i =>
      simp only [cellsGet, List.getElem_cons_succ, ih]
      congr 1
      omega

/-- Bytes written are read back. -/
theorem cellsGet_cellsSet (m : List Host.Cell) (a : Nat) (bs : List Byte) :
    cellsGet (cellsSet m a bs) a bs.length = bs := by
  refine List.ext_getElem (cellsGet_length ..) (fun i h _ => ?_)
  rw [cellsGet_length] at h
  rw [cellsGet_getElem, cellGet_cellsSet, if_pos (by omega), Nat.add_sub_cancel_left, List.getD_eq_getElem _ _ h]

/-- Bytes outside a write read as before. -/
theorem cellsGet_cellsSet_outside (m : List Host.Cell) {a b n : Nat} {bs : List Byte} (h : b + n ≤ a ∨ a + bs.length ≤ b) :
    cellsGet (cellsSet m a bs) b n = cellsGet m b n := by
  refine List.ext_getElem (by simp [cellsGet_length]) (fun i hi _ => ?_)
  rw [cellsGet_length] at hi
  simp only [cellsGet_getElem]
  exact cellGet_cellsSet_outside m (by omega)

theorem cells64_cellsSet (m : List Host.Cell) (a x : Nat) : cells64 (cellsSet m a (leBytes x 8)) a = x % 2 ^ 64 := by
  have h := cellsGet_cellsSet m a (leBytes x 8)
  rw [leBytes_length] at h
  rw [cells64, h, leNat_leBytes]
  norm_num

theorem Memory.wf_nil : Memory.wf [] := by decide

theorem Memory.wf_cellSet {m : List Host.Cell} (h : Memory.wf m) (a : Nat) (b : Byte) : Memory.wf (cellSet m a b) :=
  Tab.wf_set h a b

theorem Memory.wf_cellsSet {m : List Host.Cell} (h : Memory.wf m) (a : Nat) (bs : List Byte) : Memory.wf (cellsSet m a bs) := by
  induction bs generalizing m a with
  | nil => exact h
  | cons b r ih => exact ih (Memory.wf_cellSet h a b) (a + 1)

theorem Memory.wf_filter {m : List Host.Cell} (h : Memory.wf m) (p : Host.Cell → Bool) : Memory.wf (m.filter p) :=
  Tab.wf_filter h p

/-- Equal memories are equal data: two memories in canonical form that read alike are one list. -/
theorem Memory.ext {m n : List Host.Cell} (hm : Memory.wf m) (hn : Memory.wf n) (h : ∀ a, cellGet m a = cellGet n a) : m = n := by
  have low : ∀ {t : List Host.Cell} {k : Nat}, (∀ e ∈ t, k < e.1) → cellGet t k = 0 := by
    intro t k hk
    induction t with
    | nil => rfl
    | cons e r ih =>
      obtain ⟨j, b⟩ := e
      have he : k < j := hk (j, b) (by simp)
      have hr := ih (fun x hx => hk x (List.mem_cons_of_mem _ hx))
      simp only [cellGet, Tab.getD, Tab.get?_cons] at hr ⊢
      rw [if_neg (by omega)]
      exact hr
  have tail : ∀ {e : Host.Cell} {t : List Host.Cell} (k : Nat), k ≠ e.1 → cellGet (e :: t) k = cellGet t k := by
    rintro ⟨j, b⟩ t k (hk : k ≠ j)
    simp only [cellGet, Tab.getD, Tab.get?_cons]
    rw [if_neg (fun he => hk (by first | exact he | exact he.symm))]
  have head : ∀ {e : Host.Cell} {t : List Host.Cell}, cellGet (e :: t) e.1 = e.2 := by
    rintro ⟨j, b⟩ t
    simp [cellGet, Tab.getD, Tab.get?_cons]
  have parts : ∀ {e : Host.Cell} {t : List Host.Cell}, Memory.wf (e :: t) → (∀ x ∈ t, e.1 < x.1) ∧ e.2 ≠ 0 ∧ Memory.wf t := by
    intro e t hw
    simp only [Memory.wf, Tab.wf, Bool.and_eq_true, decide_eq_true_eq, List.all_eq_true, List.pairwise_cons, List.mem_cons,
      forall_eq_or_imp] at hw ⊢
    exact ⟨hw.1.1, hw.2.1, hw.1.2, hw.2.2⟩
  induction m generalizing n with
  | nil =>
    cases n with
    | nil => rfl
    | cons e r => exact absurd ((h e.1).symm.trans rfl) (by rw [head]; exact (parts hn).2.1)
  | cons d q ih =>
    obtain ⟨hd, hd0, hq⟩ := parts hm
    cases n with
    | nil => exact absurd (h d.1) (by rw [head]; exact hd0)
    | cons e r =>
      obtain ⟨he, he0, hr⟩ := parts hn
      have key : d.1 = e.1 := by
        rcases Nat.lt_trichotomy d.1 e.1 with hlt | heq | hgt
        · have hx := h d.1
          rw [head, tail d.1 (by omega), low (fun x hx => lt_trans hlt (he x hx))] at hx
          exact absurd hx hd0
        · exact heq
        · have hx := h e.1
          rw [head, tail e.1 (by omega), low (fun x hx => lt_trans hgt (hd x hx))] at hx
          exact absurd hx.symm he0
      have val : d.2 = e.2 := by
        have hx := h d.1
        rw [head, key, head] at hx
        exact hx
      have rest : q = r := by
        refine ih hq hr (fun a => ?_)
        by_cases ha : a = d.1
        · rw [ha, low hd, key, low he]
        · have hx := h a
          rwa [tail a ha, tail a (by omega)] at hx
      rw [rest, Prod.ext key val]

/-! ## The memories of the state -/

/-- The four memories of a state. -/
def State.memories (s : State) : List (List Host.Cell) := [s.mem, s.host, s.peer, s.scratch]

theorem State.memOk_iff (s : State) : s.MemOk ↔ ∀ m ∈ s.memories, Memory.wf m := by
  simp only [State.memories, List.mem_cons, forall_eq_or_imp, List.not_mem_nil, false_imp_iff, forall_const, and_true]
  exact ⟨fun h => ⟨h.mem, h.host, h.peer, h.scratch⟩, fun h => ⟨h.1, h.2.1, h.2.2.1, h.2.2.2⟩⟩

/-- What leaves the memories alone keeps their form. -/
theorem State.MemOk.congr {s t : State} (h : s.MemOk) (e : t.memories = s.memories) : t.MemOk := by
  rw [State.memOk_iff, e]
  exact (State.memOk_iff s).1 h

theorem State.MemOk.foldl {β : Type} {f : State → β → State} (hf : ∀ s x, State.MemOk s → (f s x).MemOk) (l : List β) {s : State}
    (h : s.MemOk) : (l.foldl f s).MemOk := by
  induction l generalizing s with
  | nil => exact h
  | cons x r ih => exact ih (hf s x h)

theorem State.memories_foldl {β : Type} {f : State → β → State} (hf : ∀ s x, (f s x).memories = s.memories) (l : List β) (s : State) :
    (l.foldl f s).memories = s.memories := by
  induction l generalizing s with
  | nil => rfl
  | cons x r ih => exact (ih _).trans (hf s x)

/-- The memories at reset list nothing. -/
theorem State.reset_memOk : State.reset.MemOk := ⟨Memory.wf_nil, Memory.wf_nil, Memory.wf_nil, Memory.wf_nil⟩

/-! ## What writes no memory -/

@[simp] theorem State.setWave_memories (s : State) (k : Nat) (w : Wave) : (s.setWave k w).memories = s.memories := rfl
@[simp] theorem State.modWave_memories (s : State) (k : Nat) (f : Wave → Wave) : (s.modWave k f).memories = s.memories := rfl
@[simp] theorem State.modSp_memories (s : State) (n : Nat) (f : SubPart → SubPart) : (s.modSp n f).memories = s.memories := rfl
@[simp] theorem State.modWg_memories (s : State) (g : Nat) (f : Workgroup → Workgroup) : (s.modWg g f).memories = s.memories := rfl
@[simp] theorem State.modVd_memories (s : State) (d : Nat) (f : VDev → VDev) : (s.modVd d f).memories = s.memories := rfl
@[simp] theorem State.modCtx_memories (s : State) (d c : Nat) (f : Context → Context) : (s.modCtx d c f).memories = s.memories := rfl
@[simp] theorem State.modCore_memories (s : State) (c : Nat) (f : CoreSt → CoreSt) : (s.modCore c f).memories = s.memories := rfl
@[simp] theorem State.endRun_memories (s : State) (k : Nat) : (s.endRun k).memories = s.memories := rfl
@[simp] theorem State.setFot_memories (s : State) (f : Nat) (e : BitVec 32) : (s.setFot f e).memories = s.memories := rfl
@[simp] theorem State.setFe_memories (s : State) (g : Nat) (b : Bool) : (s.setFe g b).memories = s.memories := rfl

theorem State.sendMsi_memories (s : State) (fn vec : Nat) : (s.sendMsi fn vec).memories = s.memories := by
  unfold State.sendMsi
  split_ifs <;> rfl

theorem State.irqOut_memories (s : State) (vd cls idx : Nat) : (s.irqOut vd cls idx).2.memories = s.memories := by
  unfold State.irqOut
  dsimp only
  split_ifs
  all_goals first
    | rfl
    | exact State.sendMsi_memories ..

@[simp] theorem State.irq_memories (s : State) (vd cls idx : Nat) : (s.irq vd cls idx).memories = s.memories :=
  State.irqOut_memories s vd cls idx

@[simp] theorem State.overflow_memories (s : State) (vd idx : Nat) (o : Bool) : (s.overflow vd idx o).memories = s.memories := by
  unfold State.overflow
  split_ifs <;> simp

@[simp] theorem State.overflows_memories (s : State) (vd off : Nat) (l : List (Nat × Bool)) :
    (s.overflows vd off l).memories = s.memories := State.memories_foldl (fun _ _ => State.overflow_memories ..) l s

@[simp] theorem State.countSp_memories (s : State) (n ev k : Nat) : (s.countSp n ev k).memories = s.memories := by
  unfold State.countSp
  dsimp only
  split_ifs <;> simp

@[simp] theorem State.countCore_memories (s : State) (c vd ev k : Nat) : (s.countCore c vd ev k).memories = s.memories := by
  unfold State.countCore
  dsimp only
  split_ifs <;> simp

@[simp] theorem State.countLlc_memories (s : State) (vd sl ev k : Nat) : (s.countLlc vd sl ev k).memories = s.memories := by
  unfold State.countLlc
  split
  · rfl
  · exact State.overflows_memories ..

@[simp] theorem State.countHbm_memories (s : State) (vd ma ev k : Nat) : (s.countHbm vd ma ev k).memories = s.memories := by
  unfold State.countHbm
  split
  · rfl
  · split_ifs
    · rfl
    · exact State.overflows_memories ..

@[simp] theorem State.countPort_memories (s : State) (n ev k : Nat) : (s.countPort n ev k).memories = s.memories := by
  unfold State.countPort
  split
  · rfl
  · exact State.memories_foldl (fun _ _ => State.memories_foldl (fun _ _ => State.overflow_memories ..) _ _) _ _

@[simp] theorem State.sample_memories (s : State) (u vd src x : Nat) (tag : BitVec 8) : (s.sample u vd src x tag).memories = s.memories := by
  unfold State.sample
  split
  · rfl
  · dsimp only
    split_ifs <;> rfl

@[simp] theorem State.sampleFree_memories (s : State) (u vd src i : Nat) : (s.sampleFree u vd src i).memories = s.memories :=
  State.sample_memories ..

@[simp] theorem State.countFill_memories (s : State) (vd : Nat) (l : Loc) : (s.countFill vd l).memories = s.memories := by
  unfold State.countFill
  split <;> simp

@[simp] theorem State.sendBack_memories (s : State) (k : Nat) (ln : Line) : (s.sendBack k ln).memories = s.memories := by
  unfold State.sendBack
  dsimp only
  split_ifs
  · exact State.countLlc_memories ..
  · simp
  · simp

@[simp] theorem State.dropL1_memories (s : State) (k : Nat) : (s.dropL1 k).memories = s.memories := rfl

theorem State.l1Access_memories (s : State) (core vd : Nat) (l : Loc) (st low : Bool) :
    (s.l1Access core vd l st low).2.memories = s.memories := by
  unfold State.l1Access
  dsimp only
  split
  · exact State.countCore_memories ..
  · split_ifs <;> exact State.countCore_memories ..

/-! ## Every memory operation keeps the canonical form -/

theorem State.MemOk.zeroFill {s : State} (h : s.MemOk) (ma : Nat) : (s.zeroFill ma).MemOk := by
  unfold State.zeroFill
  split_ifs
  · exact ⟨Memory.wf_filter h.mem _, h.host, h.peer, h.scratch⟩
  · exact h

theorem State.MemOk.logWrite {s : State} (h : s.MemOk) (ma : Nat) : (s.logWrite ma).MemOk := by
  unfold State.logWrite
  dsimp only
  split
  · exact h
  · split_ifs
    · exact h
    · exact ⟨h.mem, Memory.wf_cellSet h.host _ _, h.peer, h.scratch⟩
    · exact h
    · exact h.congr rfl
    · refine State.MemOk.congr ?_ (State.irq_memories ..)
      exact ⟨h.mem, Memory.wf_cellsSet h.host _ _, h.peer, h.scratch⟩
    · exact ⟨h.mem, Memory.wf_cellsSet h.host _ _, h.peer, h.scratch⟩

theorem State.MemOk.writeRaw {s : State} (h : s.MemOk) (l : Loc) (bs : List Byte) : (s.writeRaw l bs).MemOk := by
  unfold State.writeRaw
  split
  · have hz := (h.zeroFill l.addr).zeroFill (l.addr + bs.length - 1)
    refine State.MemOk.logWrite ?_ _
    exact ⟨Memory.wf_cellsSet hz.mem _ _, hz.host, hz.peer, hz.scratch⟩
  · exact ⟨h.mem, Memory.wf_cellsSet h.host _ _, h.peer, h.scratch⟩
  · exact ⟨h.mem, h.host, Memory.wf_cellsSet h.peer _ _, h.scratch⟩

theorem State.MemOk.forgetPeer {s : State} (h : s.MemOk) (k : Nat) : (s.forgetPeer k).MemOk := by
  unfold State.forgetPeer
  split_ifs
  · exact ⟨h.mem, h.host, Memory.wf_filter h.peer _, h.scratch⟩
  · exact h

theorem State.MemOk.evictLine {s : State} (h : s.MemOk) (k : Nat) : (s.evictLine k).MemOk := by
  unfold State.evictLine
  split
  · exact h
  · dsimp only
    refine State.MemOk.forgetPeer ?_ k
    split_ifs
    · exact h.congr ((State.sendBack_memories ..).trans (State.countLlc_memories ..))
    · exact h.congr (State.countLlc_memories ..)

theorem State.MemOk.touch {s : State} (h : s.MemOk) (vd ctx va : Nat) (l : Loc) (st low : Bool) : (s.touch vd ctx va l st low).MemOk := by
  unfold State.touch
  dsimp only
  split
  · exact h.congr (State.countLlc_memories ..)
  · refine State.MemOk.congr (s := if (s.llc.filter (fun e => homeSlice (e.1 % 2 ^ 60 * 64) == homeSlice l.addr)).length < 32768 then s else
      match victim (s.llc.filter (fun e => homeSlice (e.1 % 2 ^ 60 * 64) == homeSlice l.addr)) with
      | some v => s.evictLine v
      | none => s) ?_ ?_
    · split_ifs
      · exact h
      · split
        · exact h.evictLine _
        · exact h
    · have hc := fun t : State => (State.countFill_memories (t.countLlc vd (homeSlice l.addr) 65 1) vd l).trans
        (State.countLlc_memories ..)
      split_ifs
      all_goals first
        | exact hc _
        | exact (State.sampleFree_memories ..).trans (hc _)

theorem State.MemOk.discardLine {s : State} (h : s.MemOk) (k : Nat) : (s.discardLine k).MemOk := by
  unfold State.discardLine
  split
  · exact h
  · rename_i ln _
    have hf : (State.forgetPeer { s with llc := Tab.del s.llc k } k).MemOk := by
      refine State.MemOk.forgetPeer ?_ k
      exact h.congr rfl
    dsimp only
    split_ifs
    · exact hf
    · exact ⟨Memory.wf_cellsSet hf.mem _ _, hf.host, hf.peer, hf.scratch⟩
    · exact ⟨hf.mem, Memory.wf_cellsSet hf.host _ _, hf.peer, hf.scratch⟩
    · exact hf

theorem State.MemOk.writeBack {s : State} (h : s.MemOk) (k : Nat) (r : Bool) : (s.writeBack k r).MemOk := by
  unfold State.writeBack
  split
  · exact h
  · dsimp only
    split_ifs
    · refine State.MemOk.forgetPeer ?_ k
      exact h.congr (State.sendBack_memories ..)
    · refine State.MemOk.forgetPeer ?_ k
      exact h.congr rfl
    · exact h.congr (State.sendBack_memories ..)
    · exact h.congr rfl

theorem State.MemOk.noteWrote {s : State} (h : s.MemOk) (l : Loc) (n : Nat) : (s.noteWrote l n).MemOk := by
  unfold State.noteWrote
  split_ifs
  · exact h.congr rfl
  · exact h

theorem State.MemOk.storeAt {s : State} (h : s.MemOk) (vd ctx va : Nat) (l : Loc) (bs : List Byte) (low : Bool) :
    (s.storeAt vd ctx va l bs low).MemOk :=
  State.MemOk.writeRaw (State.MemOk.noteWrote (State.MemOk.foldl (fun _ _ hs => hs.touch ..) _ h) l bs.length) l bs

theorem State.MemOk.loadAt {s : State} (h : s.MemOk) (vd ctx va : Nat) (l : Loc) (n : Nat) (low : Bool) :
    (s.loadAt vd ctx va l n low).MemOk := State.MemOk.foldl (fun _ _ hs => hs.touch ..) _ h

/-- A translation may set the accessed and dirty bits of an entry in host memory. -/
theorem State.MemOk.xlate {s : State} (h : s.MemOk) (g : Agent) (va : Nat) (wr : Bool) : (s.xlate g va wr).2.MemOk := by
  unfold State.xlate
  split
  · exact h
  · split
    · exact h
    · have hc := h.congr (State.countCore_memories s g.core g.vd 0x28 1)
      dsimp only
      split
      · exact hc.congr rfl
      · split
        · exact hc
        · exact hc
        · split
          · exact hc
          · split_ifs <;> exact ⟨hc.mem, Memory.wf_cellsSet hc.host _ _, hc.peer, hc.scratch⟩

theorem State.MemOk.spanGo {s : State} (h : s.MemOk) (g : Agent) (wr : Bool) (fuel va n : Nat) :
    (s.spanGo g wr fuel va n).2.MemOk := by
  induction fuel generalizing s va n with
  | zero => exact h
  | succ fuel ih =>
    unfold State.spanGo
    split_ifs
    · exact h
    · dsimp only
      split <;> exact ih (h.xlate ..) _ _

theorem State.MemOk.span {s : State} (h : s.MemOk) (g : Agent) (va n : Nat) (wr : Bool) : (s.span g va n wr).2.MemOk :=
  h.spanGo ..

theorem State.MemOk.writePieces {s : State} (h : s.MemOk) (g : Agent) (l : List Piece) (bs : List Byte) (low : Bool) :
    (s.writePieces g l bs low).MemOk := by
  induction l generalizing s bs with
  | nil => exact h
  | cons p r ih => exact ih (h.storeAt ..) _

theorem State.MemOk.touchPieces {s : State} (h : s.MemOk) (g : Agent) (l : List Piece) (low : Bool) : (s.touchPieces g l low).MemOk :=
  State.MemOk.foldl (fun _ _ hs => hs.loadAt ..) _ h

theorem postGo_memOk (vd ctx n : Nat) {s : State} (h : s.MemOk) : (postGo s vd ctx n).MemOk := by
  induction n generalizing s with
  | zero => exact h
  | succ n ih =>
    unfold postGo
    split
    · exact h
    · split
      · exact h
      · split_ifs
        · exact h
        · refine ih (State.MemOk.congr ?_ (State.irq_memories ..))
          exact ⟨h.mem, Memory.wf_cellsSet h.host _ _, h.peer, h.scratch⟩

theorem State.MemOk.postFaults {s : State} (h : s.MemOk) (vd ctx : Nat) : (s.postFaults vd ctx).MemOk := by
  unfold State.postFaults
  split
  · exact h
  · exact postGo_memOk _ _ _ h

theorem State.MemOk.pageFault {s : State} (h : s.MemOk) (g : Agent) (va : Nat) (rd wr ex : Bool) : (s.pageFault g va rd wr ex).MemOk := by
  unfold State.pageFault
  split
  · exact h
  · dsimp only
    refine State.MemOk.postFaults ?_ _ _
    split_ifs <;> exact h.congr rfl

theorem State.MemOk.scratchWrite {s : State} (h : s.MemOk) (g : Workgroup) (o : Nat) (bs : List Byte) : (s.scratchWrite g o bs).MemOk := by
  induction bs generalizing s o with
  | nil => exact h
  | cons b r ih =>
    unfold State.scratchWrite
    refine ih ?_ _
    exact ⟨h.mem, h.host, h.peer, Memory.wf_cellSet h.scratch _ _⟩

/-! ## What a place reads after a raw write -/

/-- A byte of host memory after a raw write. -/
theorem State.readLoc_writeRaw_host (s : State) (a j : Nat) (bs : List Byte) :
    (s.writeRaw ⟨.host, a⟩ bs).readLoc ⟨.host, j⟩ = if a ≤ j ∧ j < a + bs.length then bs.getD (j - a) 0 else s.readLoc ⟨.host, j⟩ :=
  cellGet_cellsSet s.host a j bs

/-- A byte of a peer line held here after a raw write. -/
theorem State.readLoc_writeRaw_fab (s : State) (a j : Nat) (bs : List Byte) :
    (s.writeRaw ⟨.fab, a⟩ bs).readLoc ⟨.fab, j⟩ = if a ≤ j ∧ j < a + bs.length then bs.getD (j - a) 0 else s.readLoc ⟨.fab, j⟩ :=
  cellGet_cellsSet s.peer a j bs

/-- A write to a workgroup's range changes the bytes of its own places and no other byte of the scratchpads. -/
theorem State.scratchWrite_outside (s : State) (g : Workgroup) (o : Nat) (bs : List Byte) (a : Nat)
    (h : ∀ i < bs.length, scratchAddr g (o + i) ≠ a) : cellGet (s.scratchWrite g o bs).scratch a = cellGet s.scratch a := by
  induction bs generalizing s o with
  | nil => rfl
  | cons b r ih =>
    have h0 : a ≠ scratchAddr g o := fun e => h 0 (by simp) (by simpa using e.symm)
    rw [State.scratchWrite, ih _ _ (fun i hi => by
      have := h (i + 1) (by simpa using hi)
      rwa [show o + (i + 1) = o + 1 + i by omega] at this)]
    exact (cellGet_cellSet ..).trans (if_neg h0)

theorem State.MemOk.clearUnits {s : State} (h : s.MemOk) (core : Nat) (us : List Nat) : (s.clearUnits core us).MemOk :=
  ⟨h.mem, h.host, h.peer, Memory.wf_filter h.scratch _⟩

end Sys2Proof.Machine
end

