-- ==== Sys2Proof/Tests/Slice0.lean ====
section
/-! SUPPORT. Slice0.lean: tests of the decoder and of the checks of WellFormed on words of spec/, and a witness for the
hypotheses of every statement. -/

namespace Sys2Proof.Tests

open Sys2Proof Sys2Proof.Machine

/-! ## The state of the tests -/

/-- The guard 0b0111 and no yield hint. -/
def hdr : Hdr := ⟨⟨false, 7⟩, false⟩
/-- The scene of `withFetchWord` with its wave about to execute: virtual device 1 runs, its wave 0 stands at 0x1000. -/
def demo : State := { State.reset.scene with cur := some 0 }
/-- The wave of the scene. -/
def demoWave : Wave := Wave.start 0 0 0 0x1000 0 0 true
/-- The scene with its wave changed. -/
def demoW (f : Wave → Wave) : State := demo.setWave 0 (f demoWave)
/-- The scene with its workgroup changed. -/
def demoG (s : State) (f : Workgroup → Workgroup) : State := s.modWg 0 f
/-- The instruction at which the wave of a state stands. -/
def at_ (s : State) (len : Nat) : Iss := (s.iss ⟨false, 7⟩ len).getD ⟨0, demoWave, 0, 0, 0, 0⟩
/-- The workgroup of a state. -/
def wg0 (s : State) : Workgroup := (Tab.get? s.wgs 0).getD (sceneRecord.workgroup 1 0 1 0 0 0 0 (0, [0], [0]))
/-- s4 and s5 hold 0x1800, an address of the mapped page; s6 holds 0xC00, a free place of the scratchpad, s8 holds 1. -/
def demoS : State := demoW (fun w => { w with s := [(4, 0x1800), (6, 0xC00), (8, 1)] })

/-! ## Integer, lane and floating instructions -/

theorem ready_one : AluReady demo hdr (.v 1) [.v 2] (at_ demo 8) := ⟨rfl, rfl, by decide, by decide, rfl⟩
theorem ready_two : AluReady demo hdr (.v 1) [.v 2, .s 4] (at_ demo 8) := ⟨rfl, rfl, by decide, by decide, rfl⟩
theorem ready_three : AluReady demo hdr (.s 1) [.s 2, .s 4, .lit 7] (at_ demo 16) := ⟨rfl, rfl, by decide, by decide, rfl⟩

theorem witness_IntegerSumsAndProducts :
    AluReady demo hdr (.v 1) [.v 2, .s 4] (at_ demo 8) ∧ AluReady demo hdr (.s 1) [.s 2, .s 4, .lit 7] (at_ demo 16) ∧
      (at_ demo 8).part ≠ 0 := ⟨ready_two, ready_three, by decide⟩
/-- The divisor s4 is 0 in the second clause, and −1 under the dividend −2^31 in the last. -/
theorem witness_IntegerExtremesAndDivision :
    AluReady demo hdr (.v 1) [.v 2] (at_ demo 8) ∧ AluReady demo hdr (.v 1) [.v 2, .s 4] (at_ demo 8) ∧
      AluReady demo hdr (.s 1) [.s 2, .s 4, .lit 7] (at_ demo 16) ∧
      AluReady demo hdr .latchV [.lit 0x80000000, .iconst 31] (at_ demo 16) :=
  ⟨ready_one, ready_two, ready_three, ⟨rfl, rfl, by decide, by decide, rfl⟩⟩
set_option maxRecDepth 20000 in
/-- The formats, an infinity of binary32, a flushed and a kept result, and a small and a large operand of FRND. -/
theorem witness_Rounding :
    (∃ g, EFmt.ofCode 4 true = some (.fl g)) ∧ (∃ i, Fmt.f32.infc = some i) ∧ Fmt.f32.sgn = true ∧
    (Machine.Num.fin false 1 (-140)).isFin = true ∧ (Machine.Num.fin false 1 (-140)).rat ≠ 0 ∧
    |(Machine.Num.fin false 1 (-140)).rat| < 2 ^ Fmt.f32.emin ∧
    (Machine.Num.fin true 0 0).rat = 0 ∧
    Fmt.f32.val 0x7FC00000 = .nan ∧ Fmt.f32.val 0x7F800000 = .inf false ∧
    (∃ m e, Fmt.f32.val 0x3FC00000 = .fin false m e ∧ |(Machine.Num.fin false m e).rat| < 2 ^ 23) ∧
    ∃ m e, Fmt.f32.val 0x4C000000 = .fin false m e ∧ 2 ^ 23 ≤ |(Machine.Num.fin false m e).rat| :=
  ⟨⟨_, rfl⟩, ⟨_, rfl⟩, rfl, rfl, by norm_num [Machine.Num.rat],
    by norm_num [Machine.Num.rat, Fmt.emin, Fmt.f32], by norm_num [Machine.Num.rat], rfl, rfl,
    ⟨12582912, -23, rfl, by norm_num [Machine.Num.rat]⟩, ⟨8388608, 2, rfl, by norm_num [Machine.Num.rat]⟩⟩
theorem witness_MovesAndLogic :
    AluReady demo hdr (.v 1) [.v 2] (at_ demo 8) ∧ AluReady demo hdr (.v 1) [.v 2, .s 4] (at_ demo 8) ∧
      AluReady demo hdr (.s 1) [.s 2, .s 4, .lit 7] (at_ demo 16) := ⟨ready_one, ready_two, ready_three⟩
theorem witness_ShiftsAndBitFields :
    AluReady demo hdr (.v 1) [.v 2] (at_ demo 8) ∧ AluReady demo hdr (.v 1) [.v 2, .lit 32] (at_ demo 16) ∧
      AluReady demo hdr (.s 1) [.s 2, .s 4, .lit 7] (at_ demo 16) :=
  ⟨ready_one, ⟨rfl, rfl, by decide, by decide, rfl⟩, ready_three⟩
theorem witness_PredicateResults :
    PredReady demo hdr [.v 2, .v 3] (at_ demo 8) ∧ PredReady demo hdr [] (at_ demo 8) ∧ PredReady demo hdr [.v 2] (at_ demo 8) :=
  ⟨⟨rfl, rfl, by decide⟩, ⟨rfl, rfl, by decide⟩, ⟨rfl, rfl, by decide⟩⟩
theorem witness_LaneResults :
    (AluReady demo hdr (.s 1) [] (at_ demo 8) ∧ (Dst.s 1).scalar = true) ∧
    (AluReady demo hdr (.v 1) [] (at_ demo 8) ∧ (Dst.v 1).scalar = false) ∧
    AluReady demo hdr (.s 1) [.s 4] (at_ demo 8) ∧
    (AluReady demo hdr (.v 1) [.v 2, .s 4] (at_ demo 8) ∧ (at_ demo 8).part ≠ 0) ∧
    AluReady demo hdr (.v 1) [.v 2] (at_ demo 8) :=
  ⟨⟨⟨rfl, rfl, by decide, by decide, rfl⟩, rfl⟩, ⟨⟨rfl, rfl, by decide, by decide, rfl⟩, rfl⟩,
    ⟨rfl, rfl, by decide, by decide, rfl⟩, ⟨ready_two, by decide⟩, ready_one⟩
theorem witness_ReductionsAndScans :
    AluReady demo hdr (.v 1) [] (at_ demo 8) ∧ (AluReady demo hdr (.s 1) [] (at_ demo 8) ∧ (Dst.s 1).scalar = true) ∧
    (AluReady demo hdr (.v 1) [.v 2] (at_ demo 8) ∧ (Dst.v 1).scalar = false) :=
  ⟨⟨rfl, rfl, by decide, by decide, rfl⟩, ⟨⟨rfl, rfl, by decide, by decide, rfl⟩, rfl⟩, ⟨ready_one, rfl⟩⟩
theorem witness_RoundedArithmetic :
    AluReady demo hdr (.v 1) [.v 2] (at_ demo 8) ∧ AluReady demo hdr (.v 1) [.v 2, .s 4] (at_ demo 8) ∧
      AluReady demo hdr (.s 1) [.s 2, .s 4, .lit 7] (at_ demo 16) := ⟨ready_one, ready_two, ready_three⟩
set_option maxRecDepth 20000 in
/-- NaN, infinity, zero, and finite numbers on which each exact case holds: 1, 1/2, 1/4, −1, 128, 9. -/
theorem witness_UnroundedResults :
    AluReady demo hdr (.v 1) [.v 2] (at_ demo 8) ∧ AluReady demo hdr (.v 1) [.v 2, .s 4] (at_ demo 8) ∧
    Fmt.f32.val 0x7FC00000 = .nan ∧ Fmt.f32.val 0xFF800000 = .inf true ∧ (∃ e, Fmt.f32.val 0x80000000 = .fin true 0 e) ∧
    (∃ m e, Fmt.f32.val 0x3F800000 = .fin false m e ∧ 0 < m ∧ (Machine.Num.fin false m e).rat = 2 ^ (0 : Int)) ∧
    (∃ m e, Fmt.f32.val 0x3F000000 = .fin false m e ∧ 0 < m ∧ (Machine.Num.fin false m e).rat = (0 : Int) + 1 / 2) ∧
    (∃ m e, Fmt.f32.val 0x3E800000 = .fin false m e ∧ 0 < m ∧ 2 * (Machine.Num.fin false m e).rat = (0 : Int) + 1 / 2) ∧
    (∃ m e, Fmt.f32.val 0x43000000 = .fin false m e ∧ 0 < m ∧ 128 ≤ (Machine.Num.fin false m e).rat) ∧
    (∃ m e, Fmt.f32.val 0x7F7FFFFF = .fin false m e ∧ 0 < m ∧ |((Machine.Num.fin false m e).rat)⁻¹| < 2 ^ (-126 : Int)) ∧
    ∃ m e, Fmt.f32.val 0xC3000000 = .fin true m e ∧ 0 < m ∧ (Machine.Num.fin true m e).rat < -126 :=
  ⟨ready_one, ready_two, rfl, rfl, ⟨_, rfl⟩, ⟨8388608, -23, rfl, by decide, by norm_num [Machine.Num.rat]⟩,
    ⟨8388608, -24, rfl, by decide, by norm_num [Machine.Num.rat]⟩, ⟨8388608, -25, rfl, by decide, by norm_num [Machine.Num.rat]⟩,
    ⟨8388608, -16, rfl, by decide, by norm_num [Machine.Num.rat]⟩, ⟨16777215, 104, rfl, by decide, by norm_num [Machine.Num.rat]⟩,
    ⟨8388608, -16, rfl, by decide, by norm_num [Machine.Num.rat]⟩⟩
theorem witness_PackedArithmetic :
    AluReady demo hdr (.v 1) [.v 2, .s 4] (at_ demo 8) ∧ AluReady demo hdr (.s 1) [.s 2, .s 4, .lit 7] (at_ demo 16) ∧
      (∃ g, EFmt.ofCode (0x04 : BitVec 6).toNat true = some (.fl g)) ∧
      ∃ g, EFmt.ofCode (0x1C : BitVec 6).toNat false = some (.int g) := ⟨ready_two, ready_three, ⟨_, rfl⟩, ⟨_, rfl⟩⟩
/-- The format words are 4 (binary8p4), 0x13 (a four-bit format) and 4 again for BSCALE. -/
theorem witness_Conversions :
    AluReady demo hdr (.v 1) [.v 2] (at_ demo 8) ∧ AluReady demo hdr (.v 1) [.v 2, .s 4] (at_ demo 8) ∧
    (AluReady demo hdr (.v 1) [.v 2, .iconst 36, .s 4] (at_ demo 8) ∧
      (narrowWord false ((at_ demo 8).rd demo false |>.w32 (.iconst 36) 0)).isSome = true) ∧
    (narrowWord true ((at_ demo 8).rd demo false |>.w32 (.iconst 51) 0)).isSome = true ∧
    (AluReady demo hdr (.v 1) [.v 2, .iconst 36] (at_ demo 8) ∧
      (bscaleWord ((at_ demo 8).rd demo false |>.w32 (.iconst 36) 0)).isSome = true) :=
  ⟨ready_one, ready_two, ⟨⟨rfl, rfl, by decide, by decide, rfl⟩, rfl⟩, rfl, ⟨⟨rfl, rfl, by decide, by decide, rfl⟩, rfl⟩⟩
theorem witness_PairWords :
    demo.iss ⟨false, 7⟩ 8 = some (at_ demo 8) ∧ neverGuard ⟨false, 7⟩ = false ∧ (at_ demo 8).w.spec = none ∧
      (∀ x ∈ [Src.s 1, .iconst 36, .v 1, .v 2], ((at_ demo 8).rd demo false).latchTrap x = false) ∧
      (Src.v 1).isLit = false := ⟨rfl, rfl, rfl, by decide, rfl⟩

/-! ## Control -/

/-- A guard whose predicate p0 holds in no lane. -/
def hdrOff : Hdr := ⟨⟨false, 0⟩, false⟩
/-- The instruction under that guard. -/
def off_ (s : State) (len : Nat) : Iss := (s.iss ⟨false, 0⟩ len).getD ⟨0, demoWave, 0, 0, 0, 0⟩

theorem ready (len : Nat) : IssueReady demo hdr len (at_ demo len) := ⟨rfl, rfl, rfl, rfl⟩
theorem readyS (len : Nat) : IssueReady demoS hdr len (at_ demoS len) := ⟨rfl, rfl, rfl, rfl⟩
/-- s4 holds an address that is no multiple of 8. -/
def demoOdd : State := demoW (fun w => { w with s := [(4, 0x1804)] })

theorem farS (l : Nat) : ((at_ demoS 8).rd demoS false).val (.s 4) .w64 l = 0x1800 := rfl

/-- The wave at the last word below 2^56, whose next word has no canonical address. -/
def demoEdge : State := demoW (fun w => { w with pc := (List.range 32).map (fun l => (l, 0xFFFFFFFFFFFFF8)) })
/-- The state of RET: v4 and v5 of lane 0 hold 0x1804. -/
def demoBack : State := demoW (fun w => { w with v := [(128, 0x1804)] })

theorem checks : ChecksPass demo (at_ demo 8) (at_ demo 8).part := ⟨rfl, by decide, fun g hg => by cases hg; rfl, rfl⟩

/-- A legal branch and a legal computed target; then an illegal target of each of the two forms and of RET (the register v4);
and the forms of EXIT, SYNCST and SLEEP. -/
theorem witness_ControlInstructions :
    (IssueReady demo hdr 8 (at_ demo 8) ∧
      (canonical ((at_ demo 8).pc + (5 : BitVec 14).signExtend 64 * 8) = true ∧
        ((at_ demo 8).pc + (5 : BitVec 14).signExtend 64 * 8).toNat % 8 = 0)) ∧
    (IssueReady demoS hdr (instrLen [.s 4]) (at_ demoS 8) ∧ ∀ l, canonical (((at_ demoS 8).rd demoS false).val (.s 4) .w64 l) = true ∧
      (((at_ demoS 8).rd demoS false).val (.s 4) .w64 l).toNat % 8 = 0) ∧
    (IssueReady demoEdge hdr 8 (at_ demoEdge 8) ∧
      Mask.ofFn (fun l => (at_ demoEdge 8).part.has l && !(canonical ((at_ demoEdge 8).pc + (1 : BitVec 14).signExtend 64 * 8) &&
        decide (((at_ demoEdge 8).pc + (1 : BitVec 14).signExtend 64 * 8).toNat % 8 = 0))) ≠ 0) ∧
    (IssueReady demoOdd hdr (instrLen [.s 4]) (at_ demoOdd 8) ∧
      Mask.ofFn (fun l => (at_ demoOdd 8).part.has l && !(canonical (((at_ demoOdd 8).rd demoOdd false).val (.s 4) .w64 l) &&
        decide ((((at_ demoOdd 8).rd demoOdd false).val (.s 4) .w64 l).toNat % 8 = 0))) ≠ 0) ∧
    (IssueReady demoBack hdr 8 (at_ demoBack 8) ∧
      Mask.ofFn (fun l => (at_ demoBack 8).part.has l && !(canonical (((at_ demoBack 8).rd demoBack false).val (.v 4) .w64 l) &&
        decide ((((at_ demoBack 8).rd demoBack false).val (.v 4) .w64 l).toNat % 8 = 0))) = 1) ∧
    (IssueReady demo hdr 8 (at_ demo 8) ∧ (at_ demo 8).part ≠ 0 ∧ (at_ demo 8).w.arith (at_ demo 8).part = 0 ∧
      ChecksPass demo (at_ demo 8) (at_ demo 8).part) ∧
    (IssueReady demo hdrOff 8 (off_ demo 8) ∧ ¬((off_ demo 8).part ≠ 0)) ∧
    (((at_ demoS 8).rd demoS true).w32 (.s 4) (at_ demoS 8).lane ≠ 0 ∧
      ((at_ demoS 8).rd demoS true).w32 (.s 3) (at_ demoS 8).lane = 0) :=
  ⟨⟨ready 8, by decide⟩, ⟨readyS 8, fun l => by rw [farS l]; decide⟩, ⟨⟨rfl, rfl, rfl, rfl⟩, by decide⟩,
    ⟨⟨rfl, rfl, rfl, rfl⟩, by decide⟩, ⟨⟨rfl, rfl, rfl, rfl⟩, by decide⟩,
    ⟨ready 8, by decide, by decide, checks⟩, ⟨⟨rfl, rfl, rfl, rfl⟩, by decide⟩, ⟨by decide, by decide⟩⟩

/-! ## Memory -/

/-- The memory operand [d2 + 0]. -/
def m4 : MemRef := ⟨.s 4, .iconst 32⟩
/-- The one access of a scalar form at [d2 + 0]: VA 0x1800 lies at 0x4800 of host memory. -/
def okS (n : Nat) : List (Nat × List Piece) := [(0, [⟨⟨.host, 0x4800⟩, 0x1800, n⟩])]
/-- The state after its translation. -/
def foundS (n align : Nat) (wr : Bool) : State :=
  (demoS.lanesX (demoS.agentOf 0 demoWave 0) n align wr [(0, 0x1800)]).2

set_option maxRecDepth 20000 in
theorem reached (n align : Nat) (wr : Bool) (h : (n = 4 ∧ align = 1) ∨ n = 8 ∧ align = 1 ∨ n = 8 ∧ align = 8) :
    Reached demoS (at_ demoS 8) true (((at_ demoS 8).rd demoS true).gaddr m4) n align wr (okS n) (foundS n align wr) := by
  rcases h with ⟨rfl, rfl⟩ | ⟨rfl, rfl⟩ | ⟨rfl, rfl⟩ <;> cases wr <;> exact ⟨rfl, by simp [okS, Piece.isFab], rfl, rfl⟩

theorem witness_GlobalLoads :
    IssueReady demoS hdr (instrLen [m4.base, m4.off]) (at_ demoS 8) ∧ (at_ demoS 8).w.rejected = [] ∧
      regFits (.s 2) (regCount (msize .b64)) = true ∧
      Reached demoS (at_ demoS 8) (regScalar (.s 2)) (((at_ demoS 8).rd demoS true).gaddr m4) (msize .b64) 1 false
        (okS 8) (foundS 8 1 false) :=
  ⟨readyS 8, rfl, rfl, reached 8 1 false (by simp)⟩
theorem settledS : Settled demoS (at_ demoS 8) := ⟨rfl, rfl, by decide⟩
theorem witness_GlobalStores :
    IssueReady demoS hdr (instrLen [m4.base, .s 6, m4.off]) (at_ demoS 8) ∧ Settled demoS (at_ demoS 8) ∧
      (at_ demoS 8).part ≠ 0 ∧ (∀ e ∈ demoS.vds, e.2.dlog = false) ∧
      Reached demoS (at_ demoS 8) (scalarFields [m4.base, .s 6, m4.off]) (((at_ demoS 8).rd demoS true).gaddr m4) (msize .b32)
        1 true (okS 4) (foundS 4 1 true) :=
  ⟨readyS 8, settledS, by decide, by decide, reached 4 1 true (by simp)⟩

/-! ## The scratchpad, atomics, fences and residency -/

/-- The memory operand [s6 + 0] of the scratchpad. -/
def m6 : MemRef := ⟨.s 6, .iconst 32⟩
/-- The scene with the granule at 0xC00 full, and empty. -/
def demoFull : State := { demoS with fe := [(24, true)] }
theorem readyF (len : Nat) : IssueReady demoFull hdr len (at_ demoFull len) := ⟨rfl, rfl, rfl, rfl⟩
theorem settledF : Settled demoFull (at_ demoFull 8) := ⟨rfl, rfl, by decide⟩
/-- Only lane 0 accesses in a scalar form. -/
theorem who0 (l : Nat) (h : (at_ demoFull 8).part.lowest = some l) : l = 0 := (Option.some.inj h).symm
theorem lanes0 : ∀ l ∈ (at_ demoFull 8).who true, l = 0 := by decide

theorem witness_ScratchpadAccesses_loads :
    demoFull.wgOf (at_ demoFull 8).w = some (wg0 demoFull) ∧ regFits (.s 2) (regCount (msize .b32)) = true ∧
    IssueReady demoFull hdr 8 (at_ demoFull 8) ∧
    (∀ l, (at_ demoFull 8).part.lowest = some l →
      demoFull.scratchFault (wg0 demoFull) (((at_ demoFull 8).rd demoFull true).saddr m6 l).toNat 4 4 true true = none ∧
      demoFull.feOf (granuleOf (wg0 demoFull) (((at_ demoFull 8).rd demoFull true).saddr m6 l).toNat) = true ∧
      ∃ o, demoFull.member (wg0 demoFull) (((at_ demoFull 8).rd demoFull true).w32 (.s 3) l).toNat = some o ∧
        demoFull.scratchFault o (((at_ demoFull 8).rd demoFull true).saddr m6 l).toNat 4 4 false true = none) :=
  ⟨rfl, rfl, readyF 8, fun l h => by rw [who0 l h]; exact ⟨by decide, by decide, ⟨_, rfl, by decide⟩⟩⟩
/-- FESET takes 16 bytes from s9. -/
theorem witness_ScratchpadAccesses_stores :
    scalarFields [m6.base, .s 8, m6.off] = true ∧ IssueReady demoFull hdr 8 (at_ demoFull 8) ∧
    demoFull.wgOf (at_ demoFull 8).w = some (wg0 demoFull) ∧ (at_ demoFull 8).part ≠ 0 ∧ Settled demoFull (at_ demoFull 8) ∧
    (∀ l ∈ (at_ demoFull 8).who true,
      demoFull.scratchFault (wg0 demoFull) (((at_ demoFull 8).rd demoFull true).saddr m6 l).toNat 4 4 true true = none) ∧
    (∀ l ∈ (at_ demoFull 8).who true, (((at_ demoFull 8).rd demoFull true).w32 (.iconst 48) l).toNat % 16 = 0 ∧
      demoFull.scratchFault (wg0 demoFull) (((at_ demoFull 8).rd demoFull true).saddr m6 l).toNat 16 16 true true = none) :=
  ⟨rfl, readyF 8, rfl, by decide, settledF, fun l h => by rw [lanes0 l h]; decide,
    fun l h => by rw [lanes0 l h]; decide⟩
/-- Lane 0 is selected by p1, which holds there alone; with p0 no lane is. -/
def demoSel : State := demoW (fun w => { w with s := [(4, 0x1800), (6, 0xC00)], p := [(1, 1)] })
theorem witness_CompactingStores :
    IssueReady demoSel hdr 8 (at_ demoSel 8) ∧ Settled demoSel (at_ demoSel 8) ∧ (at_ demoSel 8).w.pend = [] ∧
    (at_ demoSel 8).part &&& (at_ demoSel 8).w.getP 0 = 0 ∧ (at_ demoSel 8).part &&& (at_ demoSel 8).w.getP 1 ≠ 0 ∧
    (demoSel.storedInTurn (demoSel.agentOf 0 (at_ demoSel 8).w 0) 4 [(0x1800, [1, 2, 3, 4])]).isSome = true :=
  ⟨⟨rfl, rfl, rfl, rfl⟩, ⟨rfl, rfl, by decide⟩, rfl, by decide, by decide, by decide⟩
theorem witness_AtomicsOfMemory_global :
    (at_ demoS 8).part ≠ 0 ∧ (at_ demoS 8).w.rejected = [] ∧ Settled demoS (at_ demoS 8) ∧
    (∀ e ∈ demoS.vds, e.2.dlog = false) ∧ IssueReady demoS hdr 8 (at_ demoS 8) ∧
    Reached demoS (at_ demoS 8) true (((at_ demoS 8).rd demoS true).gaddr m4) 8 8 true (okS 8) (foundS 8 8 true) ∧
    (∀ e ∈ okS 8, e.2.length = 1) ∧ regFits (.s 2) (regCount (msize .b64)) = true :=
  ⟨by decide, rfl, settledS, by decide, readyS 8, reached 8 8 true (by simp), by simp [okS], rfl⟩
theorem witness_AtomicsOfMemory_scratchpad :
    (at_ demoFull 8).part ≠ 0 ∧ Settled demoFull (at_ demoFull 8) ∧ demoFull.wgOf (at_ demoFull 8).w = some (wg0 demoFull) ∧
    IssueReady demoFull hdr 8 (at_ demoFull 8) ∧ ∀ l ∈ (at_ demoFull 8).who true,
      demoFull.scratchFault (wg0 demoFull) (((at_ demoFull 8).rd demoFull true).saddr m6 l).toNat 8 8 true true = none :=
  ⟨by decide, settledF, rfl, readyF 8, fun l h => by rw [lanes0 l h]; decide⟩
/-- Lanes 0 and 1 participate; v4 and v5 give them the mapped address 0x1800 and the address 0x2000 of an absent page. -/
def demoP : State := demoW (fun w => { w with s := [(6, 0xC00)], p := [(1, 3)], v := [(128, 0x1800), (129, 0x2000)] })
/-- The guard p1. -/
def hdr1 : Hdr := ⟨⟨false, 1⟩, false⟩
/-- The instruction under it. -/
def one_ : Iss := (demoP.iss ⟨false, 1⟩ 8).getD ⟨0, demoWave, 0, 0, 0, 0⟩
/-- The memory operand [v4 + 0]. -/
def mv4 : MemRef := ⟨.v 4, .iconst 32⟩
/-- What translation gives the two lanes. -/
def halfThere (n : Nat) : List (Nat × LaneX) := [(0, .ok [⟨⟨.host, 0x4800⟩, 0x1800, n⟩]), (1, .wait 0x2000)]
set_option maxRecDepth 20000 in
theorem sorted (wr : Bool) : Sorted demoP one_ false ((one_.rd demoP false).gaddr mv4) 4 wr (halfThere 4)
    (demoP.lanesX (demoP.agentOf 0 one_.w 0) 4 1 wr [(0, 0x1800), (1, 0x2000)]).2 := by
  cases wr <;> exact ⟨rfl, by simp [halfThere], by simp [halfThere, Piece.isFab], rfl, rfl⟩
/-- A load and a store of which one lane's page is absent, and LDFE.park and XLOAD.park at an empty granule. -/
theorem witness_ParkedAccesses :
    (IssueReady demoP hdr1 (instrLen [mv4.base, mv4.off]) one_ ∧ one_.w.rejected = [] ∧
      regFits (.v 2) (regCount (msize .b32)) = true ∧ Settled demoP one_ ∧ one_.part ≠ 0 ∧ (∀ e ∈ demoP.vds, e.2.dlog = false) ∧
      absentPages (halfThere 4) = [0x2000] ∧ one_.waiting false (halfThere 4) = 2 ∧ (demoP.ctx? 1 0).isSome = true) ∧
    (demoS.wgOf (at_ demoS 8).w = some (wg0 demoS) ∧ regFits (.s 2) (regCount (msize .b32)) = true ∧
      demoS.outstanding (at_ demoS 8).k = false ∧ IssueReady demoS hdr 8 (at_ demoS 8) ∧
      ∀ l ∈ (at_ demoS 8).who true,
        demoS.scratchFault (wg0 demoS) (((at_ demoS 8).rd demoS true).saddr m6 l).toNat 4 4 true true = none ∧
        demoS.member (wg0 demoS) (((at_ demoS 8).rd demoS true).w32 (.s 3) l).toNat = some (wg0 demoS) ∧
        demoS.feOf (granuleOf (wg0 demoS) (((at_ demoS 8).rd demoS true).saddr m6 l).toNat) = false) :=
  ⟨⟨⟨rfl, rfl, rfl, rfl⟩, rfl, rfl, ⟨rfl, rfl, by decide⟩, by decide, by decide, rfl, by decide, rfl⟩, rfl, rfl, rfl, readyS 8,
    by decide⟩
set_option maxRecDepth 20000 in
/-- The operands 3/2, 2 and 1/2 meet the premises of every clause together with both values of the flush. -/
theorem witness_FunctionBounds :
    Fmt.f32.val 0x3FC00000 = .fin false 12582912 (-23) ∧
    (let y : ℝ := ((Machine.Num.fin false 12582912 (-23)).rat : ℝ)
     0 < y ∧ y < 128 ∧ y ≠ 1 ∧ |y| < 9 ∧ |y⁻¹| < 2 ^ (128 : Int) ∧ 2 ^ (-126 : Int) ≤ |y⁻¹|) := by
  refine ⟨rfl, ?_⟩
  norm_num [Machine.Num.rat]
theorem witness_FencesAndCaches :
    (at_ demoS 8).part ≠ 0 ∧ Settled demoS (at_ demoS 8) ∧ IssueReady demoS hdr 8 (at_ demoS 8) ∧
    canonical (((at_ demoS 8).rd demoS true).gaddr m4 0) = true ∧
    (((at_ demoS 8).rd demoS true).gaddr m4 0).toNat + 64 ≤ 2 ^ 57 ∧ demoS.reqs = [] ∧
    (∀ e ∈ demoS.llc, e.1 / 2 ^ 60 = 3 → e.2.dirty = false) ∧ demoS.rangeLines 1 0 0x1800 64 ≠ [] :=
  ⟨by decide, settledS, readyS 8, by decide, by decide, rfl, by decide, by decide⟩
/-- The scene whose virtual device holds handle 0 of the context. -/
def demoHandle : State := demoS.modVd 1 (fun v => { v with handles := [(0, ⟨0, 0x1000, 4096, 3⟩)] })
theorem witness_ResidencyHandles :
    (at_ demoS 8).part ≠ 0 ∧ (∃ v, Tab.get? demoS.vds 1 = some v ∧ Tab.get? v.handles 0 = none) ∧
    IssueReady demoS hdr 8 (at_ demoS 8) ∧
    (∃ v x, Tab.get? demoHandle.vds (demoHandle.agentOf 0 (at_ demoHandle 8).w 0).vd = some v ∧
      Tab.get? v.handles 0 = some x ∧ x.ctx = (demoHandle.agentOf 0 (at_ demoHandle 8).w 0).ctx) ∧
    IssueReady demoHandle hdr 8 (at_ demoHandle 8) :=
  ⟨by decide, ⟨_, rfl, rfl⟩, readyS 8, ⟨_, _, rfl, rfl, rfl⟩, ⟨rfl, rfl, rfl, rfl⟩⟩

/-! ## Traps, special registers, monitors -/

/-- The context of the scene has a handler at 0x1100; the wave's frame stands at 0x1400. -/
def demoT : State := (demoW (fun w => { w with tframe := 0x1400, s := [(4, 0x1800)] })).modCtx 1 0 (fun c => { c with trapvec := 0x1100 })
/-- The wave of that scene inside its handler. -/
def demoH : State := demoT.modWave 0 (fun w => { w with tcause := 0x80000010 })
theorem readyT (len : Nat) : IssueReady demoT hdr len (at_ demoT len) := ⟨rfl, rfl, rfl, rfl⟩
theorem readyH (len : Nat) : IssueReady demoH hdr len (at_ demoH len) := ⟨rfl, rfl, rfl, rfl⟩
/-- The frame's pieces and the state after its translation. -/
def frameAt (s : State) (wr : Bool) : State := (s.span (s.agentOf 0 demoWave 0) 0x1400 1024 wr).2

set_option maxRecDepth 20000 in
theorem witness_TrapEntryAndFrame :
    Tab.get? demoT.waves 0 = some (at_ demoT 8).w ∧
    (((at_ demo 8).w.tcause.getLsbD 31 = true ∨ (0 : BitVec 64) = 0 ∨ (at_ demo 8).w.tframe = 0) ∧ Tab.get? demo.waves 0 = some (at_ demo 8).w) ∧
    (demoT.ctx? 1 0).map Context.trapvec = some 0x1100 ∧
    ¬((at_ demoT 8).w.tcause.getLsbD 31 = true ∨ (0x1100 : BitVec 64) = 0 ∨ (at_ demoT 8).w.tframe = 0) ∧
    demoT.outstanding 0 = false ∧
    demoT.span (demoT.agentOf 0 (at_ demoT 8).w 0) (vaOf (at_ demoT 8).w.tframe) 1024 true =
      (.ok [⟨⟨.host, 0x4400⟩, 0x1400, 1024⟩], frameAt demoT true) ∧
    (∀ e ∈ demoT.vds, e.2.dlog = false) ∧
    ((at_ demoH 8).w.exited = (at_ demoT 8).w.exited ∧ (at_ demoT 8).w.alive.has 31 = true ∧ Tab.get? (at_ demoT 8).w.pend 31 = none) :=
  ⟨rfl, ⟨.inr (.inl rfl), rfl⟩, rfl, by decide, rfl, rfl, by decide, rfl, by decide, rfl⟩
set_option maxRecDepth 20000 in
theorem witness_TrapsAndReturn :
    (IssueReady demoT hdr 8 (at_ demoT 8) ∧ (at_ demoT 8).part ≠ 0 ∧ (at_ demoT 8).act = (at_ demoT 8).w.alive ∧
      demoT.iss ⟨false, 7⟩ 8 = some (at_ demoT 8) ∧ (at_ demoT 8).w.tcause.getLsbD 31 = false) ∧
    (IssueReady demoH hdr 8 (at_ demoH 8) ∧ (at_ demoH 8).act = (at_ demoH 8).w.alive ∧ (at_ demoH 8).part ≠ 0 ∧
      (at_ demoH 8).w.tcause.getLsbD 31 = true ∧ (at_ demoH 8).w.tframe ≠ 0) ∧
    ((demoH.setWave 0 { (at_ demoH 8).w with waiting := 0 }).span (demoH.agentOf 0 (at_ demoH 8).w 0) (vaOf (at_ demoH 8).w.tframe) 1024 false =
        (.ok [⟨⟨.host, 0x4400⟩, 0x1400, 1024⟩], frameAt (demoH.setWave 0 { (at_ demoH 8).w with waiting := 0 }) false) ∧
      frameBad (at_ demoH 8).w ((frameAt (demoH.setWave 0 { (at_ demoH 8).w with waiting := 0 }) false).readPieces [⟨⟨.host, 0x4400⟩, 0x1400, 1024⟩]) = false) :=
  ⟨⟨readyT 8, by decide, rfl, rfl, rfl⟩, ⟨readyH 8, rfl, by decide, by decide, by decide⟩, rfl, by decide⟩

/-- The context of the scene. -/
def ctx0 (s : State) : Context := (s.ctx? 1 0).getD Context.fresh
theorem witness_SpecialRegisterReads :
    IssueReady demo hdr 8 (at_ demo 8) ∧ (at_ demo 8).part ≠ 0 ∧ demo.wgOf (at_ demo 8).w = some (wg0 demo) ∧
    demo.ctx? (wg0 demo).vd (wg0 demo).ctx = some (ctx0 demo) ∧ SReg.ofIdx (0x000 : BitVec 10).toNat = some .laneid ∧
    regFits (.v 63) 1 = true ∧ SReg.clock.wide = true ∧ regFits (.s 62) 2 = true :=
  ⟨ready 8, by decide, rfl, rfl, rfl, rfl, rfl, rfl⟩
/-- HLOCK is set. -/
def demoLock : State := demo.modCtx 1 0 (fun c => { c with hlock := true })
theorem witness_SpecialRegisterWrites :
    IssueReady demo hdr 8 (at_ demo 8) ∧ (at_ demo 8).part ≠ 0 ∧ demo.wgOf (at_ demo 8).w = some (wg0 demo) ∧
    demo.ctx? (wg0 demo).vd (wg0 demo).ctx = some (ctx0 demo) ∧ (ctx0 demo).hlock = false ∧
    (IssueReady demoLock hdr 8 (at_ demoLock 8) ∧ demoLock.wgOf (at_ demoLock 8).w = some (wg0 demoLock) ∧
      demoLock.ctx? (wg0 demoLock).vd (wg0 demoLock).ctx = some (ctx0 demoLock) ∧ (ctx0 demoLock).hlock = true) ∧
    (slice (5 : Word) 0 3 : BitVec 3).toNat < 6 ∧ 6 ≤ (slice (6 : Word) 0 3 : BitVec 3).toNat ∧
    (slice (10 : Word) 0 4 : BitVec 4).toNat < 11 ∧ canonical 0x1040 = true ∧ (0x1040 : BitVec 64).toNat % 64 = 0 ∧
    canonical (1 <<< 56) = false ∧ (0x1044 : BitVec 64).toNat % 8 ≠ 0 := by
  refine ⟨ready 8, by decide, rfl, rfl, rfl, ⟨⟨rfl, rfl, rfl, rfl⟩, rfl, rfl, rfl⟩, ?_⟩
  decide

/-- Entries 0 to 2 of the remapping table of virtual device 1: masked, pending and delivered directly. -/
def demoMap : State := { demo with remap := [(512, 0xC0000000), (513, 0xA0000000), (514, 0x80000041)] }
/-- The same where the table of function 1 does not mask vector 1. -/
def demoMsi : State := { demoMap with msix := [(131, 0)] }
theorem witness_FlagsAndInterrupts :
    (demoMap.msixMasked 1 1 = true ∧ IssueReady demoMsi hdr (instrLen [.lit 63]) (at_ demoMsi 16) ∧ demoMsi.msixMasked 1 1 = false) ∧
    IssueReady demoMap hdr (instrLen [.lit 63]) (at_ demoMap 16) ∧ (at_ demoMap 16).part ≠ 0 ∧ Settled demoMap (at_ demoMap 16) ∧
    64 ≤ (((at_ demoMap 16).rd demoMap true).w32 (.lit 64) (at_ demoMap 16).lane).toNat ∧
    (((at_ demoMap 16).rd demoMap true).w32 (.lit 63) (at_ demoMap 16).lane).toNat < 64 ∧
    (Tab.getD demoMap.remap (1 * 512 + 63) 0).getLsbD 31 = false ∧
    ((Tab.getD demoMap.remap (1 * 512 + 1) 0).getLsbD 31 = true ∧ (Tab.getD demoMap.remap (1 * 512 + 1) 0).getLsbD 29 = true) ∧
    ((Tab.getD demoMap.remap (1 * 512) 0).getLsbD 31 = true ∧ (Tab.getD demoMap.remap (1 * 512) 0).getLsbD 29 = false ∧
      (Tab.getD demoMap.remap (1 * 512) 0).getLsbD 30 = true) ∧
    ((Tab.getD demoMap.remap (1 * 512 + 2) 0).getLsbD 31 = true ∧ (Tab.getD demoMap.remap (1 * 512 + 2) 0).getLsbD 29 = false ∧
      (Tab.getD demoMap.remap (1 * 512 + 2) 0).getLsbD 30 = false) :=
  ⟨⟨by decide, ⟨rfl, rfl, rfl, rfl⟩, by decide⟩, ⟨rfl, rfl, rfl, rfl⟩, by decide, ⟨rfl, rfl, by decide⟩, by decide, by decide, by decide, by decide, by decide, by decide⟩
set_option maxRecDepth 20000 in
theorem witness_Translations :
    demoS.ctx? 1 0 = some (ctx0 demoS) ∧ IssueReady demoS hdr 8 (at_ demoS 8) ∧ regFits (.v 62) 2 = true ∧
    canonical (1 <<< 56) = false ∧ canonical 0x2000 = true ∧
    walkVa (ctx0 demoS).format demoS.host (vaOf 0x2000) = .absent ∧ (at_ demoS 8).part ≠ 0 ∧ Settled demoS (at_ demoS 8) ∧
    demoS.contextBusy 1 0 (vaOf (((at_ demoS 8).rd demoS true).gaddr m4 (at_ demoS 8).lane)) 4096 = false ∧ demoS.contextBusy 1 0 0 (2 ^ 57) = false ∧
    (∃ base size frame kind wr pte, kind < 4 ∧ walkVa (ctx0 demoS).format demoS.host (vaOf 0x1800) = .leaf base size frame kind wr pte) ∧ canonical (((at_ demoS 8).rd demoS true).gaddr m4 (at_ demoS 8).lane) = true ∧
    (((at_ demoS 8).rd demoS true).w32 (.s 8) (at_ demoS 8).lane).toNat ≠ 0 :=
  ⟨rfl, readyS 8, rfl, by decide, by decide, rfl, by decide, settledS, by decide, by decide, ⟨_, _, _, 0, _, _, by decide, rfl⟩, by decide, by decide⟩
/-- An interval with the tag 9 is open. -/
def demoMark : State := demoS.modWave 0 (fun w => { w with mark := some (0, 9) })
theorem witness_Monitors :
    (at_ demoS 8).part ≠ 0 ∧ IssueReady demoS hdr 8 (at_ demoS 8) ∧ IssueReady demoS hdr 16 (at_ demoS 16) ∧
    (cidOf (((at_ demoS 16).rd demoS true).w32 (.lit 7) (at_ demoS 16).lane) = some ⟨false, 0, 0, 7⟩ ∧
      demoS.counters 0 1 ⟨false, 0, 0, 7⟩ = some ⟨0, 0, [7]⟩) ∧
    (cidOf (((at_ demoS 16).rd demoS true).w32 (.lit 8) (at_ demoS 16).lane)).bind (demoS.counters 0 1) = none ∧
    (lcuOf 0 1 0 = some 0 ∧ demoS.holdsLcu 1 0 = true) ∧ (lcuOf 0 4 0 = some 162 ∧ demoS.holdsLcu 1 162 = false) ∧
    (cidOf 0x8000 = some ⟨false, 4, 0, 0⟩ ∧ demoS.counters 0 1 ⟨false, 4, 0, 0⟩ = none) ∧
    ((0xC0000008 : Word) &&& 0x3FFFFF00 = 0 ∧ evtOk 0 (slice (0xC0000008 : Word) 0 8 : BitVec 8).toNat = true) ∧
    (IssueReady demoMark hdr 8 (at_ demoMark 8) ∧ (at_ demoMark 8).w.mark = some (0, 9)) :=
  ⟨by decide, readyS 8, readyS 16, ⟨rfl, rfl⟩, rfl, ⟨rfl, rfl⟩, ⟨rfl, by decide⟩, ⟨rfl, rfl⟩, by decide, ⟨rfl, rfl, rfl, rfl⟩, rfl⟩

/-! ## Barriers, counters, queues and stages -/

/-- A barrier object that expects one arrival stands at 0xC00, and one that expects two at 0xC10. -/
def demoB : State :=
  (demoS.scratchWrite (wg0 demo) 0xC00 (⟨1, 0, false, true, 0, false, 0⟩ : BarObj).bytes).scratchWrite (wg0 demo) 0xC10
    (⟨2, 0, true, true, 0, false, 0⟩ : BarObj).bytes
/-- The operand that names the second object. -/
def m6b : MemRef := ⟨.s 6, .iconst 48⟩
theorem readyB (len : Nat) : IssueReady demoB hdr len (at_ demoB len) := ⟨rfl, rfl, rfl, rfl⟩
theorem checksB (m : Mask) (h : (at_ demoB 8).w.arith m = 0) : ChecksPass demoB (at_ demoB 8) m :=
  ⟨rfl, h, fun g hg => by cases hg; rfl, rfl⟩

theorem witness_Barriers :
    (at_ demoB 8).part = (at_ demoB 8).act ∧ (at_ demoB 8).act ≠ 0 ∧ demoB.wgOf (at_ demoB 8).w = some (wg0 demoB) ∧
    (IssueReady demoS hdr 8 (at_ demoS 8) ∧ demoS.scratchFault (wg0 demoS) 0xC00 16 16 true false = none ∧
      (demoS.barGet (wg0 demoS) 0xC00).valid = false ∧ (((at_ demoS 8).rd demoS true).w32 (.s 8) (at_ demoS 8).lane).toNat = 1) ∧
    IssueReady demoB hdr 8 (at_ demoB 8) ∧
    (demoB.scratchFault (wg0 demoB) 0xC00 16 16 true false = none ∧
      demoB.barGet (wg0 demoB) 0xC00 = ⟨1, 0, false, true, 0, false, 0⟩) ∧
    (demoB.scratchFault (wg0 demoB) 0xC10 16 16 true false = none ∧
      demoB.barGet (wg0 demoB) 0xC10 = ⟨2, 0, true, true, 0, false, 0⟩) ∧
    (at_ demoB 8).act = (at_ demoB 8).w.alive ∧ (at_ demoB 8).w.gather = 0 ∧ (at_ demoB 8).w.arrived = false ∧
    ChecksPass demoB (at_ demoB 8) 0 ∧ ChecksPass demoB (at_ demoB 8) (at_ demoB 8).act ∧
    demoB.outstanding (at_ demoB 8).k = false ∧ demoB.barResume (at_ demoB 8).w.wg 0xC00 = demoB ∧
    demoB.barResume (at_ demoB 8).w.wg 0xC10 = demoB :=
  ⟨by decide, by decide, rfl, ⟨readyS 8, by decide, by decide, by decide⟩, readyB 8, by decide, by decide, rfl, rfl, rfl,
    checksB 0 (by decide), checksB _ (by decide), rfl, by decide +kernel, by decide +kernel⟩

/-- The counter at 0x4800 of host memory holds 1, and so does the one at 0xC00 of the scratchpad. -/
def demoC : State := { demoFull with host := cellsSet demoFull.host 0x4800 [1] }
theorem readyC (len : Nat) : IssueReady demoC hdr len (at_ demoC len) := ⟨rfl, rfl, rfl, rfl⟩
set_option maxRecDepth 20000 in
theorem reachedC (wr : Bool) : Reached demoC (at_ demoC 8) true (((at_ demoC 8).rd demoC true).gaddr m4) 8 8 wr (okS 8)
    (demoC.lanesX (demoC.agentOf 0 demoWave 0) 8 8 wr [(0, 0x1800)]).2 := by
  cases wr <;> exact ⟨rfl, by simp [okS, Piece.isFab], rfl, rfl⟩
theorem witness_Counters :
    IssueReady demoC hdr 8 (at_ demoC 8) ∧ (at_ demoC 8).part ≠ 0 ∧ demoC.wgOf (at_ demoC 8).w = some (wg0 demoC) ∧
    Settled demoC (at_ demoC 8) ∧ (at_ demoC 8).w.rejected = [] ∧ (at_ demoC 8).w.inbuf = [] ∧ (∀ e ∈ demoC.vds, e.2.dlog = false) ∧
    (∀ l ∈ (at_ demoC 8).who true,
      demoC.scratchFault (wg0 demoC) (((at_ demoC 8).rd demoC true).saddr m6 l).toNat 8 8 true true = none ∧
      demoC.scratchFault (wg0 demoC) (((at_ demoC 8).rd demoC true).saddr m6 l).toNat 8 8 false true = none) ∧
    Reached demoC (at_ demoC 8) true (((at_ demoC 8).rd demoC true).gaddr m4) 8 8 true (okS 8)
      (demoC.lanesX (demoC.agentOf 0 demoWave 0) 8 8 true [(0, 0x1800)]).2 ∧
    Reached demoC (at_ demoC 8) true (((at_ demoC 8).rd demoC true).gaddr m4) 8 8 false (okS 8)
      (demoC.lanesX (demoC.agentOf 0 demoWave 0) 8 8 false [(0, 0x1800)]).2 ∧
    (∀ e ∈ okS 8, e.2.length = 1 ∧ ∀ p ∈ e.2, p.len = 8 ∧ (((at_ demoC 8).rd demoC true).val (.s 8) .w64 e.1).toNat ≤ leNat
      (bytesIn (demoC.lanesX (demoC.agentOf 0 demoWave 0) 8 8 false [(0, 0x1800)]).2.readLoc p.loc 8)) ∧
    scalarFields [m6.base, .v 7, m6.off] = false :=
  ⟨readyC 8, by decide, rfl, ⟨rfl, rfl, by decide⟩, rfl, rfl, by decide, by decide, reachedC true, reachedC false,
    by simp only [okS, List.mem_singleton, forall_eq]; decide, rfl⟩

/-- The control word of a queue of one four-byte element at 0xC00. -/
def qword : BitVec 64 := 0x100080C00
/-- The same with a part for each lane. -/
def qwordL : BitVec 64 := 0x30100080C00
/-- Queue 3 is empty, queue 4 holds its one element, queue 6 holds one of 32 parts, queue 7's producer has closed, and s10 and s11 hold the control word. -/
def demoQ : State := demoG (demoS.modWave 0 (fun w => { w with s := [(6, 0xD00), (10, 0x00080C00), (11, 1)] })) (fun g =>
  { g with queues := [(3, ⟨qword, 0, 0, 0, 0, []⟩), (4, ⟨qword, 0, 1, 1, 0, []⟩), (6, ⟨qwordL, 0, 1, 1, 0, []⟩), (7, ⟨0x800000000 + qword, 0, 0, 0, 0, []⟩)], closed := [1] })
theorem readyQ (len : Nat) : IssueReady demoQ hdr len (at_ demoQ len) := ⟨rfl, rfl, rfl, rfl⟩
theorem witness_Queues :
    (at_ demoQ 8).part ≠ 0 ∧ demoQ.wgOf (at_ demoQ 8).w = some (wg0 demoQ) ∧ IssueReady demoQ hdr 8 (at_ demoQ 8) ∧
    (((at_ demoQ 8).rd demoQ true).val (.s 10) .w64 (at_ demoQ 8).lane = qword ∧ qWordOk qword (wg0 demoQ).salloc = true ∧
      slice qword 35 6 = (0 : BitVec 6) ∧ demoQ.nqueue (wg0 demoQ) ≤ 0) ∧
    (∀ e ∈ demoQ.wavesOf 0, ∀ l, e.2.parked.has l = true → Tab.get? e.2.parkArg l ≠ some (.queue 3)) ∧
    Tab.get? (wg0 demoQ).queues 5 = none ∧
    ((at_ demoQ 8).queueCheck demoQ (wg0 demoQ) 3 true true m6 = .inl ⟨qword, 0, 0, 0, 0, []⟩ ∧ qDepth qword = 1 ∧
      (wg0 demoQ).onNotify (qSlot qword 0) (qSlotSize qword) = false) ∧
    (at_ demoQ 8).queueCheck demoQ (wg0 demoQ) 4 true true m6 = .inl ⟨qword, 0, 1, 1, 0, []⟩ ∧
    ((at_ demoQ 8).queueCheck demoQ (wg0 demoQ) 4 false true m6 = .inl ⟨qword, 0, 1, 1, 0, []⟩ ∧
      (⟨qword, 0, 1, 1, 0, []⟩ : Queue).avail ≠ 0 ∧ qLane qword = false) ∧
    ((at_ demoQ 8).queueCheck demoQ (wg0 demoQ) 3 false true m6 = .inl ⟨qword, 0, 0, 0, 0, []⟩ ∧
      ((wg0 demoQ).closed.contains (qProd qword) && ([] : List (Nat × List Byte)).isEmpty) = false ∧
      (⟨qword, 0, 0, 0, 0, []⟩ : Queue).avail = 0) ∧
    ((at_ demoQ 8).queueCheck demoQ (wg0 demoQ) 6 false true m6 = .inl ⟨qwordL, 0, 1, 1, 0, []⟩ ∧ qLane qwordL = true ∧
      (⟨qwordL, 0, 1, 1, 0, []⟩ : Queue).avail ≠ 0) ∧
    ((at_ demoQ 8).queueCheck demoQ (wg0 demoQ) 7 false true m6 = .inl ⟨0x800000000 + qword, 0, 0, 0, 0, []⟩ ∧
      ((wg0 demoQ).closed.contains (qProd (0x800000000 + qword)) && ([] : List (Nat × List Byte)).isEmpty) = true ∧
      (⟨0x800000000 + qword, 0, 0, 0, 0, []⟩ : Queue).avail = 0) := by
  refine ⟨by decide, rfl, readyQ 8, ⟨rfl, by decide, by decide, by decide⟩, ?_, rfl, ⟨rfl, rfl, rfl⟩, rfl, ⟨rfl, by decide, rfl⟩, ⟨rfl, by decide, rfl⟩, ⟨rfl, rfl, by decide⟩, rfl, by decide, rfl⟩
  intro e he l hl
  obtain rfl : e = (0, (at_ demoQ 8).w) := List.mem_singleton.mp he
  intro h
  cases h

/-- Guard slot 0 is open. -/
def demoGd : State := demoG demo (fun g => { g with guards := [(0, ⟨.opened, 0⟩)] })
/-- All guard slots are open. -/
def demoGf : State := demoG demo (fun g => { g with guards := (List.range 8).map (fun n => (n, ⟨.opened, 0⟩)) })
theorem witness_StagesAndGuards :
    (at_ demo 8).part ≠ 0 ∧ demo.wgOf (at_ demo 8).w = some (wg0 demo) ∧ IssueReady demo hdr 8 (at_ demo 8) ∧
    (at_ demo 8).part = (at_ demo 8).act ∧ (at_ demo 8).w.blocked = false ∧ (at_ demo 8).act = (at_ demo 8).w.alive ∧
    (Tab.get? (demo.restage 0).waves 0 = some (at_ demo 8).w ∧ Tab.get? (demo.restage 0).wgs 0 = some (wg0 demo) ∧
      (demo.restage 0).rcdOf (wg0 demo) = some sceneRecord ∧ 0 ≤ sceneRecord.nstage ∧
      ((demo.restage 0).setWave 0 { (at_ demo 8).w with waiting := (at_ demo 8).w.waiting ||| (at_ demo 8).act, inStage := false, busy := .stage }).eligible
        0 (wg0 demo) sceneRecord 0 = true ∧ ∀ q, 0 < q → ¬q ≤ sceneRecord.nstage) ∧
    (demoGf.wgOf (at_ demoGf 8).w = some (wg0 demoGf) ∧ IssueReady demoGf hdr 8 (at_ demoGf 8) ∧ (wg0 demoGf).freeGuard = none) ∧
    (demoGd.wgOf (at_ demoGd 8).w = some (wg0 demoGd) ∧ IssueReady demoGd hdr 8 (at_ demoGd 8) ∧ (wg0 demoGd).guardSt 1 = .free ∧
      (∀ q, q < 1 → (wg0 demoGd).guardSt q ≠ .free) ∧
      (((at_ demoGd 8).rd demoGd true).w32 (.iconst 32) (at_ demoGd 8).lane).toNat = 0 ∧ (wg0 demoGd).guardSt 0 = .opened) :=
  ⟨by decide, rfl, ready 8, by decide, rfl, rfl, ⟨rfl, rfl, rfl, by decide, by decide, fun q h => by simp [sceneRecord]; omega⟩,
    ⟨rfl, ⟨rfl, rfl, rfl, rfl⟩, by decide⟩, rfl, ⟨rfl, rfl, rfl, rfl⟩, by decide, by decide, by decide, by decide⟩

/-! ## Job instructions -/

/-- The operands of a job instruction: the result in s2, no counter, no increment, the true guard. -/
def job : JobOps := ⟨some 2, none, .iconst 32, .global, 0, none⟩
/-- A copy descriptor of 16 one-byte elements with its source and destination, in the scratchpad at 0xC00. -/
def descBytes (src ssp mask : Nat) : List Byte :=
  leBytes src 8 ++ leBytes 0xE00 8 ++ leBytes (ssp + 2 * 4 + 1 * 256 + 1 * 65536) 4 ++ leBytes 0 4 ++ leBytes 0 4 ++ leBytes mask 4 ++
    leBytes 0 32 ++ leBytes 16 4 ++ leBytes (if ssp = 0 then 0 else 1) 4 ++ leBytes 1 4 ++ leBytes 0 4
/-- The scene with that descriptor. -/
def demoD (src ssp mask : Nat) : State := demoS.scratchWrite (wg0 demo) 0xC00 (descBytes src ssp mask)
/-- The card that a copy instruction makes of it. -/
def copyCard (s : State) (kind : Nat) (d : CopyDesc) : List Byte :=
  let i := at_ s 8
  Iss.jobHeader { i with w := (s.scopeOf i.w none).2 } s job kind 0 (s.scopeOf i.w none).1 ++
    (leBytes (0xC00 + (if kind = 4 then (wg0 s).tag else 0) * 2 ^ 112) 16 ++
      (if kind = 2 then s.scratchRead (wg0 s) (0xC00 + 64 + 16 * d.dims.length) 64 else [])) ++
    (d.footprint kind 0xC00).flatMap Range.bytes
/-- What CopyJobs asks of one of the four instructions. -/
def CopyWit (s : State) (kind : Nat) (d : CopyDesc) : Prop :=
  IssueReady s hdr (instrLen [.s 6, job.inc]) (at_ s 8) ∧ (((at_ s 8).rd s true).w32 (.s 6) (at_ s 8).lane).toNat = 0xC00 ∧
  (∃ x, s.descBytes (wg0 s) 0xC00 = some x ∧ CopyDesc.of x = d) ∧ d.ok kind (wg0 s).gangsz = true ∧
  (kind = 2 → 0xC00 + 64 + 16 * d.dims.length + 64 ≤ (wg0 s).salloc) ∧ JobReady s (at_ s 8) (wg0 s) job (copyCard s kind d)
/-- The descriptor as it is read back. -/
def descOf (src ssp mask : Nat) : CopyDesc := ⟨src, 0xE00, ssp, 2, 1, 0, 0, 0, 0, mask, 0, true, [⟨16, if ssp = 0 then 0 else 1, 1, 0⟩]⟩

set_option maxRecDepth 20000 in
theorem witness_CopyJobs :
    CopyWit (demoD 0xD00 2 0) 1 (descOf 0xD00 2 0) ∧ CopyWit (demoD 0xD00 2 0) 2 (descOf 0xD00 2 0) ∧
    CopyWit (demoD 0 0 0) 3 (descOf 0 0 0) ∧ CopyWit (demoD 0xD00 2 1) 4 (descOf 0xD00 2 1) := by
  refine ⟨?_, ?_, ?_, ?_⟩ <;>
    exact ⟨⟨rfl, rfl, rfl, rfl⟩, by decide +kernel, ⟨_, rfl, by decide +kernel⟩, by decide +kernel, by decide +kernel,
      ⟨by decide +kernel, rfl, rfl, by decide +kernel, by decide +kernel, by decide +kernel, ⟨by decide +kernel, .inl rfl⟩, ⟨rfl, rfl, by decide⟩, by decide +kernel⟩⟩

/-- The scene with ten words in s16 to s25, the block of the matrix, attention and rotation instructions. -/
def demoE (ws : List Nat) : State := demoW (fun w => { w with s := ws.mapIdx (fun n x => (16 + n, BitVec.ofNat 32 x)) })
/-- The front of a card: header, format word, seed, block. -/
def engFront (s : State) (x : Word) (kind n : Nat) (seed : Bool) : List Byte :=
  let i := at_ s 16
  Iss.jobHeader { i with w := (s.scopeOf i.w none).2 } s job kind 0 (s.scopeOf i.w none).1 ++
    bodyBytes (x.toNat :: (if seed ∧ (FWord.of x).rnd = 5 then (nextSeed (i.w.seedOf i.lane)).toNat else 0) ::
      (List.range n).map (fun q => (i.w.getS (4 * (4 : BitVec 4).toNat + q)).toNat))
/-- What EngineJobs asks of one of the five instructions. -/
def EngWit (s : State) (x : Word) (legal : Bool) (front : List Byte) (ranges : List Range) : Prop :=
  IssueReady s hdr (instrLen [.lit x, job.inc]) (at_ s 16) ∧
  (∀ l, (at_ s 16).part.has l = true → ((at_ s 16).rd s false).w32 (.lit x) l = ((at_ s 16).rd s false).w32 (.lit x) (at_ s 16).lane) ∧
  legal = true ∧ JobReady s (at_ s 16) (wg0 s) job (front ++ ranges.flatMap Range.bytes)

/-- A multiplication into one tile; one zeroed tile; one row times one column and one query row, which round
stochastically; and a rotation of blocks of 256 bytes in a ring of two. -/
def blkMma : List Nat := [0xC00, 32, 0xC00, 32, 0x200010]
def blkAcc : List Nat := [0, 0, 0x40, 0]
def blkMv : List Nat := [0x2000, 0, 0, 0, 256, 0x10001, 0xC00, 0xE00, 0x10002, 0]
def blkAttn : List Nat := [0xC00, 0x40002, 0xD00, 0x180E00, 0x3F800000, 0, 0, 0, 0x1800, 0]
def blkRot : List Nat := [0xA010000, 1, 0xC00, 0xF00, 0xE00, 0, 0, 0]
set_option maxRecDepth 20000 in
theorem witness_EngineJobs :
    (let s := demoE blkMma; EngWit s 0x104 (mmaWord (FWord.of 0x104)) (engFront s 0x104 0x10 10 true)
      (mmaFoot (engFront s 0x104 0x10 10 true) (FWord.of 0x104))) ∧
    (let s := demoE blkAcc; EngWit s 0x104 (accWord (FWord.of 0x104) (accOp (engFront s 0x104 0x11 4 true)))
      (engFront s 0x104 0x11 4 true) (accFoot (engFront s 0x104 0x11 4 true) (FWord.of 0x104))) ∧
    (let s := demoE blkMv; EngWit s 0x540104 (mvWord (FWord.of 0x540104)) (engFront s 0x540104 0x12 10 true)
      (mvFoot (engFront s 0x540104 0x12 10 true) (FWord.of 0x540104))) ∧
    (let s := demoE blkAttn; EngWit s 0x540104 (attnWord (FWord.of 0x540104)) (engFront s 0x540104 0x18 10 true)
      (attnRanges (AttnDesc.of (engFront s 0x540104 0x18 10 true)) (FWord.of 0x540104))) ∧
    (let s := demoE blkRot; EngWit s 0 (rotWord 0 (RotDesc.of (engFront s 0 0x20 8 false)).cons) (engFront s 0 0x20 8 false)
      (rotFoot (RotDesc.of (engFront s 0 0x20 8 false)))) := by
  refine ⟨?_, ?_, ?_, ?_, ?_⟩ <;>
    exact ⟨⟨rfl, rfl, rfl, rfl⟩, fun _ _ => rfl, by decide +kernel,
      ⟨by decide +kernel, rfl, rfl, by decide +kernel, by decide +kernel, by decide +kernel, ⟨by decide +kernel, .inl rfl⟩, ⟨rfl, rfl, by decide⟩, by decide +kernel⟩⟩

/-- A card that zeroes a tile, in the ring at its first entry. -/
def accCard : List Byte :=
  let f := engFront (demoE blkAcc) 0x104 0x11 4 true
  f ++ (accFoot f (FWord.of 0x104)).flatMap Range.bytes
/-- The scene with that card written by the wave. -/
def demoR : State := demo.writeEntries (wg0 demo) 0 accCard
/-- A card of those bytes in a state. -/
def cardIn (seq : Nat) (st : CardState) : Card :=
  ⟨seq, accCard, st, 0, 0, 0, 0, 0, none, none, false, false, false, none, [], none, false, none, false, 0⟩
/-- The scene with a waiting, a running and a completed card, at 0, 4 and 8. -/
def demoK : State := demoG demo (fun g => { g with cards := [cardIn 0 .published, cardIn 4 .running, cardIn 8 .done] })
set_option maxRecDepth 20000 in
theorem witness_RingInstructions :
    (at_ demoR 16).part ≠ 0 ∧ (at_ demoR 16).w.blocked = false ∧ demoR.wgOf (at_ demoR 16).w = some (wg0 demoR) ∧
    IssueReady demoR hdr 8 (at_ demoR 8) ∧ IssueReady demoR hdr (instrLen [.lit 4]) (at_ demoR 16) ∧
    (((at_ demoR 16).rd demoR true).w32 (.lit 4) (at_ demoR 16).lane).toNat = 4 ∧ 4 ≤ demoR.ringFree (wg0 demoR) ∧
    demoR.parseCards (wg0 demoR) 4 (demoR.pub (wg0 demoR)) 4 = some [accCard] ∧ Settled demoR (at_ demoR 16) ∧
    (wg0 demoR).jnotify % 16 = 0 ∧ (∀ bs ∈ [accCard], cGuard bs = 0) ∧
    (IssueReady demoK hdr (instrLen [.lit 4]) (at_ demoK 16) ∧ demoK.wgOf (at_ demoK 16).w = some (wg0 demoK) ∧
      demoK.findCard (wg0 demoK) 3 = none ∧ demoK.findCard (wg0 demoK) 0 = some (cardIn 0 .published) ∧
      demoK.findCard (wg0 demoK) 4 = some (cardIn 4 .running) ∧ demoK.findCard (wg0 demoK) 8 = some (cardIn 8 .done) ∧
      (cardIn 8 .done).final = true ∧ (cardIn 0 .published).final = false ∧ (wg0 demoK).card? 0 = some (cardIn 0 .published) ∧
      (wg0 demoK).card? 4 = some (cardIn 4 .running)) := by
  refine ⟨by decide +kernel, rfl, rfl, ⟨rfl, rfl, rfl, rfl⟩, ⟨rfl, rfl, rfl, rfl⟩, by decide +kernel, by decide +kernel, by decide +kernel, ⟨rfl, rfl, by decide⟩, by decide +kernel,
    ?_, ⟨rfl, rfl, rfl, rfl⟩, rfl, by decide +kernel, by decide +kernel, by decide +kernel, by decide +kernel, by decide +kernel, by decide +kernel, by decide +kernel, by decide +kernel⟩
  intro bs h
  cases List.mem_singleton.mp h
  decide +kernel

/-! ## Collective branches -/

/-- A consensus group of two positions of virtual device 1, between rounds, with position 0 joined. -/
def cg : CGroup :=
  ⟨1, 4, 2, 2, 0, [0], [], [], 0, .idle, 0, false, [], [], false, [], [], 0, [], false, 1, false, none, []⟩
/-- Groups 3 (with a vacant position), 4 (full) and 5 (lost). -/
def demoCg : State := { demo with cgs := [(3, cg), (4, { cg with lpos := 1 }), (5, { cg with lost := true })] }
/-- The wave is position 1 of group 3 and has not voted. -/
def demoM : State := demoCg.modWave 0 (fun w => { w with member := some ⟨3, 1, some 1⟩ })
/-- The same with a journal area of 128 bytes. -/
def demoMJ : State := demoM.modWg 0 (fun g => { g with jrnSize := 128 })
/-- A group that counts votes of round 1. -/
def cgOpen (st : RState) : CGroup :=
  { cg with joined := [0, 1], st := st, round := 1, site := 9, expected := [0, 1], votes := if st = .reduce then [(0, true), (1, true)] else [] }

theorem witness_CollectiveInstructions :
    (at_ demoCg 16).part ≠ 0 ∧ IssueReady demoCg hdr (instrLen [.lit 3]) (at_ demoCg 16) ∧ (at_ demoCg 16).w.member = none ∧
    (IssueReady demoM hdr (instrLen [.lit 3]) (at_ demoM 16) ∧ (at_ demoM 16).w.member ≠ none) ∧
    (64 ≤ (((at_ demoCg 16).rd demoCg true).w32 (.lit 64) (at_ demoCg 16).lane).toNat ∧
      Tab.get? demoCg.cgs (((at_ demoCg 16).rd demoCg true).w32 (.lit 63) (at_ demoCg 16).lane).toNat = none) ∧
    (Tab.get? demoCg.cgs 5 = some { cg with lost := true } ∧ ({ cg with lost := true } : CGroup).lost = true) ∧
    (Tab.get? demoCg.cgs 4 = some { cg with lpos := 1 } ∧ ∀ p, p < 1 → p ∈ cg.joined) ∧
    (Tab.get? demoCg.cgs 3 = some cg ∧ cg.deleted = false ∧ cg.owner = 1 ∧ cg.lost = false ∧ 1 < cg.lpos ∧ 1 ∉ cg.joined ∧
      ∀ q, q < 1 → q ∈ cg.joined) ∧
    regFits (.s 62) 2 = true ∧
    (IssueReady demoM hdr 8 (at_ demoM 8) ∧ (at_ demoM 8).part ≠ 0 ∧ (at_ demoM 8).w.member = some ⟨3, 1, some 1⟩ ∧
      (at_ demoM 8).w.sent = false ∧ (at_ demoM 8).w.sited = false) ∧
    ((at_ demoM 16).w.blocked = false ∧ (at_ demoM 16).act = (at_ demoM 16).w.alive ∧ demoM.journalOf (at_ demoM 16).w < 128) ∧
    (IssueReady demoMJ hdr 16 (at_ demoMJ 16) ∧ 128 ≤ demoMJ.journalOf (at_ demoMJ 16).w) :=
  ⟨by decide, ⟨rfl, rfl, rfl, rfl⟩, rfl, ⟨⟨rfl, rfl, rfl, rfl⟩, by decide⟩, by decide, ⟨rfl, rfl⟩, ⟨rfl, by decide⟩,
    ⟨rfl, rfl, rfl, rfl, by decide, by decide, by decide⟩, rfl, ⟨⟨rfl, rfl, rfl, rfl⟩, by decide, rfl, rfl, rfl⟩, by decide,
    ⟨rfl, rfl, rfl, rfl⟩, by decide⟩

/-- The vote of wave 0 at position 1 of group 3 in round 1, at site 9. -/
def ballot : Ballot := ⟨0, 3, 1, ⟨1, 9, false, true⟩⟩
/-- The wave's vote is on its way. -/
def demoV (c : CGroup) : State :=
  { demo with cgs := [(3, c)], ballots := [ballot] }.modWave 0 (fun w => { w with member := some ⟨3, 1, none⟩, sent := true, round := 1 })
/-- Group 3 waits for values, and device 5 is a member of its partition. -/
def demoF (c : CGroup) : State :=
  { demo with cgs := [(3, c)], clock := 1300001, vds := [(1, { VDev.free with st := .running, pmap := [(5, ⟨true, 7, 2⟩)] })] }
/-- A flit of device 5 for that group, with the tag its key gives. -/
def flit (kind : BitVec 2) : CFlit :=
  let f : CFlit := ⟨0, 5, 7, 2, 3, 1, 9, false, 1, kind, 0, 0, 0⟩
  { f with mac := CFlit.tag f 0 }
theorem flit_tag (kind : BitVec 2) : (flit kind).mac = CFlit.tag (flit kind) 0 := by simp only [flit, CFlit.tag, CFlit.bits]
theorem flit_ok (kind : BitVec 2) (st : RState) : (demoF (cgOpen st)).flitOk (flit kind) = true := by
  have hc : Tab.get? (demoF (cgOpen st)).cgs (flit kind).grp.toNat = some (cgOpen st) := rfl
  have hv : Tab.get? (demoF (cgOpen st)).vds (cgOpen st).owner =
    some { VDev.free with st := .running, pmap := [(5, ⟨true, 7, 2⟩)] } := rfl
  have hk : ∀ v e, v.fkeyn = 0 → v.fkey = 0 → (demoF (cgOpen st)).fabKey v e = 0 := by
    intro v e h1 h2
    simp [State.fabKey, h1, h2, demoF, demo, State.scene, State.reset, Tab.getD]
  simp only [State.flitOk, hc, hv]
  rw [hk _ _ rfl rfl, ← flit_tag]
  rw [beq_self_eq_true, Bool.true_or]
  rfl

/-- An open speculation that predicted the branch taken, with one held byte for the scratchpad. -/
def spec1 : Machine.Spec := ⟨0x1000, true, 0x1100, 0x1010, [], [], [], [], 0, [], [], [], [], false, 0, none, [⟨0, 0xC00, 0xC00, [7], false⟩], none⟩
/-- The wave speculates, or waits, with the result of round 1 known. -/
def demoRes (r : Nat) (f : Wave → Wave) : State :=
  { demo with cgs := [(3, { cg with round := 1, results := [(1, (r, 1))] })] }.modWave 0
    (fun w => f { w with member := some ⟨3, 1, none⟩, sent := true, round := 1 })
/-- Its wave. -/
def waveOf (s : State) : Wave := (Tab.get? s.waves 0).getD demoWave

theorem witness_CollectiveEvents :
    (let c := { cg with joined := [0, 1] };
      (demoV c).ballots.find? (fun b => b.wave == 0 && (demoV c).ballotDue b) = some ballot ∧ Tab.get? (demoV c).cgs 3 = some c ∧
      c.lost = false ∧ c.deleted = false ∧ c.left = [] ∧ c.st = .idle ∧ 1 = nextRound c.round ∧
      c.kept = [] ∧ 1 ∈ c.joined ∧ ∃ p ∈ c.joined, p ≠ 1) ∧
    (let c := { cg with joined := [1], devices := [0] };
      (demoV c).ballots.find? (fun b => b.wave == 0 && (demoV c).ballotDue b) = some ballot ∧ Tab.get? (demoV c).cgs 3 = some c ∧ 1 ∈ c.joined ∧ (∀ p ∈ c.joined, p = 1) ∧ ∀ d ∈ c.devices, d = (demoV c).devid) ∧
    (let c := cgOpen .collect;
      (demoV c).ballots.find? (fun b => b.wave == 0 && (demoV c).ballotDue b) = some ballot ∧ Tab.get? (demoV c).cgs 3 = some c ∧
      c.st = .collect ∧ c.round = 1 ∧ c.site = 9 ∧ 1 ∈ c.expected ∧ ∃ p ∈ c.expected, p ≠ 1 ∧ Tab.get? c.votes p = none) ∧
    (let c := cgOpen .reduce;
      (∀ kind, (demoF c).flitOk (flit kind) = true) ∧ Tab.get? (demoF c).cgs 3 = some c ∧ c.round = (flit 0).round ∧
      c.left = [] ∧ c.st = .reduce ∧ c.lost = false ∧ c.deleted = false ∧ (flit 0).site = c.site ∧ (flit 0).mode = c.mode ∧
      c.openAt + c.timeout * 1300000 ≤ (demoF c).clock) ∧
    (let c := { cgOpen .reduce with step := some (0, true) };
      Tab.get? (demoF c).cgs 3 = some c ∧ c.st = .reduce ∧ c.parent = none ∧ c.step ≠ none ∧ ∀ d ∈ c.children, ∃ b, (d, b) ∈ c.upgot) ∧
    (let s := demoRes 1 (fun w => { w with spec := some spec1 });
      Tab.get? s.waves 0 = some (waveOf s) ∧ s.roundResult (waveOf s) = some 1 ∧ (waveOf s).spec = some spec1 ∧
      (waveOf s).sent = true ∧ s.wgOf (waveOf s) = some (wg0 s) ∧ spec1.taken = true ∧ spec1.trap = none ∧
      s.recallPlaces true spec1.places = none ∧ spec1.stores = [⟨0, 0xC00, 0xC00, [7], false⟩]) ∧
    (let s := demoRes 0 (fun w => { w with spec := some spec1 });
      s.roundResult (waveOf s) = some 0 ∧ (waveOf s).spec = some spec1 ∧ spec1.guard = none) ∧
    (let s := demoRes 1 (fun w => { w with busy := .round (.branch 0x1000 0x1100 0x1010) });
      s.roundResult (waveOf s) = some 1 ∧ (waveOf s).busy = .round (.branch 0x1000 0x1100 0x1010)) ∧
    (let s := demoRes 3 (fun w => { w with busy := .round (.sync (some 5) 1 0x1008) });
      s.roundResult (waveOf s) = some 3 ∧ (waveOf s).busy = .round (.sync (some 5) 1 0x1008)) ∧
    (let s := demoRes 2 (fun w => { w with busy := .round (.leave 1 0x1008) });
      s.roundResult (waveOf s) = some 2 ∧ (waveOf s).busy = .round (.leave 1 0x1008)) := by
  refine ⟨⟨rfl, rfl, rfl, rfl, rfl, rfl, rfl, rfl, by decide, by decide⟩, ⟨rfl, rfl, by decide, by decide, by decide⟩,
    ⟨rfl, rfl, rfl, rfl, rfl, by decide, by decide⟩, ⟨fun k => flit_ok k .reduce, rfl, rfl, rfl, rfl, rfl, rfl, rfl, rfl, by decide⟩,
    ⟨rfl, rfl, rfl, by decide, ?_⟩, ⟨rfl, rfl, rfl, rfl, rfl, rfl, rfl, rfl, rfl⟩, ⟨rfl, rfl, rfl⟩, ⟨rfl, rfl⟩, ⟨rfl, rfl⟩, ⟨rfl, rfl⟩⟩
  intro d hd
  cases hd

/-! ## Key-value blocks -/

/-- A pool at 0x1800 with one block in each tier, and a table at 0x1900 with one full entry; the blocks stand at 0x10000 in
HBM4E and at 0x20000 in LPDDR 6. -/
def demoKv : State :=
  let pool := leBytes 0x10000 8 ++ leBytes 0x20000 8 ++ leBytes 0x1980 8 ++ leBytes 0x1950 8 ++ leBytes 0x1940 8 ++ leBytes 0x1960 8 ++
    leBytes 0x1970 8 ++ leBytes 1 4 ++ leBytes 1 4 ++ leBytes 0 4 ++ leBytes 1 4 ++ leBytes 1 4 ++ leBytes 0 4 ++ leBytes 0 4 ++ leBytes 256 4
  let host := cellsSet (cellsSet demo.host 0x3080 (leBytes 0x10263 8)) 0x3100 (leBytes 0x8000000263 8)
  let host := cellsSet (cellsSet host 0x4800 pool) 0x4900 (leBytes 1 4 ++ leBytes 4 4 ++ leBytes 0x1800 8 ++ leBytes (16 * 2 ^ 48 + 1) 8)
  { demo with host := cellsSet host 0x4940 [1], fot := [(1, 1), (8388608, 1)] }.modCtx 1 0
    (fun c => { c with format := c.format - BitVec.ofNat 128 (54 * 2 ^ 17) })
/-- An operation of the wave. -/
def kvOp (ask : KvAsk) : KvOp := ⟨0, 0, 2, 1, 0x1000, 0x1008, 0x1800, ask, none⟩
/-- The wave waits for it. -/
def demoKvOp (ask : KvAsk) : State :=
  { demoKv with kvops := [(0, [kvOp ask])] }.modWave 0 (fun w => { w with busy := .kv })
/-- What its home engine finds. -/
def kvRan (ask : KvAsk) : KvRes × State :=
  State.kvRun { demoKvOp ask with kvops := Tab.set [] (demoKvOp ask).kvops 0 [] } ((kvOp ask).agent (wg0 demo)) (wg0 demo)
    ((demoKvOp ask).kvAimed (kvOp ask))
/-- What KeyValueBlocks asks of an operation that is performed. -/
def KvWit (ask : KvAsk) (r : KvRes) : Prop :=
  Tab.getD (demoKvOp ask).kvops 0 [] = [kvOp ask] ∧ (demoKvOp ask).kvHeld 0 (kvOp ask) = false ∧
  (demoKvOp ask).kvHome (kvOp ask) = some (wg0 demo) ∧
  State.kvDie { demoKvOp ask with kvops := Tab.set [] (demoKvOp ask).kvops 0 [] } ((kvOp ask).agent (wg0 demo))
    ((demoKvOp ask).kvAimed (kvOp ask)).pool = 0 ∧ (kvRan ask).1 = r ∧
  (kvRan ask).2.kvWave ((demoKvOp ask).kvAimed (kvOp ask)) = some (waveOf (demoKvOp ask))
/-- The operation in the queue of the other die. -/
def demoKvFar : State :=
  { demoKv with kvops := [(1, [kvOp (.look 0x1900 0)])] }.modWave 0 (fun w => { w with busy := .kv })
/-- The context's agent. -/
def kvAgent : Agent := ⟨1, 0, 0, 4, .thread 0 0⟩
/-- A demotion in progress. -/
def demoCopy : State := { demoKvOp (.dem 0x1900 0 false) with kvops := [], kvcopies := [(0, [⟨kvOp (.dem 0x1900 0 false), 0x1910, 0, 1⟩])] }

theorem witness_KeyValueBlocks :
    (IssueReady demoKv hdr (instrLen [.s 10, .s 12, .iconst 32]) (at_ demoKv 8) ∧ (at_ demoKv 8).part ≠ 0 ∧ Settled demoKv (at_ demoKv 8) ∧
      (((at_ demoKv 8).rd demoKv true).w32 (.iconst 32) (at_ demoKv 8).lane).toNat % 16 = 0) ∧
    KvWit (.look 0x1900 0) (.done (16 * 2 ^ 48 + 1)) ∧ KvWit (.ref 0x1800 1 false) (.done 2) ∧
    (Tab.getD demoKvFar.kvops 1 [] = [kvOp (.look 0x1900 0)] ∧ demoKvFar.kvHeld 1 (kvOp (.look 0x1900 0)) = false ∧
      demoKvFar.kvHome (kvOp (.look 0x1900 0)) = some (wg0 demo) ∧
      State.kvDie { demoKvFar with kvops := Tab.set [] demoKvFar.kvops 1 [] } ((kvOp (.look 0x1900 0)).agent (wg0 demo))
        (demoKvFar.kvAimed (kvOp (.look 0x1900 0))).pool ≠ 1) ∧
    KvWit (.ref 0x1801 1 false) (.err 0x1800 kvBaddesc) ∧ KvWit (.dem 0x1900 0 false) (.copy 0x1910 0 1) ∧
    (poolAddr 0x1800 128 = true ∧
      (let x := demoKv.kvNeed kvAgent 0x1800 [(0x1800, 128, false)]; let p := x.2.poolAt kvAgent 0x1800;
       x.1 = none ∧ p.ok = true ∧ (KvEntry.of 1).v = true ∧ (KvEntry.of 1).block < p.nblk (KvEntry.of 1).tier ∧
       (x.2.kvNeed kvAgent 0x1800 [(p.countAt (KvEntry.of 1).tier (KvEntry.of 1).block, 2, true)]).1 = none ∧
       (x.2.kvNeed kvAgent 0x1800 [(p.countAt (KvEntry.of 1).tier (KvEntry.of 1).block, 2, true)]).2.kvCountAt kvAgent p 0 0 < 65535)) ∧
    (Tab.getD demoCopy.kvcopies 0 [] = [⟨kvOp (.dem 0x1900 0 false), 0x1910, 0, 1⟩] ∧ Tab.get? demoCopy.wgs 0 = some (wg0 demo) ∧
      demoCopy.kvWave (kvOp (.dem 0x1900 0 false)) = some (waveOf demoCopy) ∧
      (demoCopy.kvCopyNeed ((kvOp (.dem 0x1900 0 false)).agent (wg0 demo)) ⟨kvOp (.dem 0x1900 0 false), 0x1910, 0, 1⟩).1 = none) := by
  refine ⟨⟨⟨rfl, rfl, rfl, rfl⟩, by decide, ⟨rfl, rfl, by decide⟩, by decide⟩, ?_, ?_, ⟨rfl, by decide +kernel, rfl, by decide +kernel⟩,
    ?_, ?_, by decide +kernel, rfl, rfl, rfl, by decide +kernel⟩ <;>
    exact ⟨rfl, by decide +kernel, rfl, by decide +kernel, by decide +kernel, by decide +kernel⟩

/-! ## The fabric -/

theorem witness_RemoteSignalsAndFlushes :
    (at_ demoS 8).part ≠ 0 ∧ Settled demoS (at_ demoS 8) ∧ (∀ e ∈ demoS.vds, e.2.dlog = false) ∧
    IssueReady demoS hdr (instrLen [m4.base, .s 8, m4.off]) (at_ demoS 8) ∧ (at_ demoS 8).w.rejected = [] ∧
    scalarFields [m4.base, .s 8, m4.off] = true ∧
    Reached demoS (at_ demoS 8) true (((at_ demoS 8).rd demoS true).gaddr m4) 8 8 true (okS 8) (foundS 8 8 true) ∧
    (∀ e ∈ okS 8, e.2.length = 1) ∧ (∀ e ∈ demoS.llc, e.1 / 2 ^ 60 = 3 → e.2.dirty = false) ∧ demoS.reqs = [] ∧
    canonical (((at_ demoS 8).rd demoS true).gaddr m4 (at_ demoS 8).lane) = true ∧
    (((at_ demoS 8).rd demoS true).gaddr m4 (at_ demoS 8).lane).toNat +
      (((at_ demoS 8).rd demoS true).w32 (.s 8) (at_ demoS 8).lane).toNat ≤ 2 ^ 57 :=
  ⟨by decide, settledS, by decide, readyS 8, rfl, rfl, reached 8 8 true (by simp), by simp [okS], by decide, rfl, by decide, by decide⟩

/-- The dirty line at address 0 of device 5. -/
def peerKey : Nat := lineKey .fab (5 * 2 ^ 56)
/-- It, of virtual device 1. -/
def peerLine : Line := ⟨1, 0, 0x20000, 3, 0, true, [], 0, .owned⟩
/-- The scene with that line; VA 0x20000 names it, s4 holds that address, s8 holds 1 and s9 holds 5. -/
def demoPeer : State :=
  ({ demo with
      host := cellsSet demo.host 0x3100 (leBytes (5 * 2 ^ 56 + 0x463) 8), llc := [(peerKey, peerLine)]
      vds := [(1, { VDev.free with st := .running, maxscope := 5, pmap := [(5, ⟨true, 7, 2⟩)], members := [5] })] }.modWave 0
    (fun w => { w with s := [(4, 0x20000), (8, 1), (9, 5)] })).modCtx 1 0
    (fun c => { c with format := c.format + BitVec.ofNat 128 (12 * 2 ^ 23) - BitVec.ofNat 128 (54 * 2 ^ 17) })
theorem witness_RemoteSignalsAndFlushes_dirty :
    (at_ demoPeer 8).part ≠ 0 ∧ Settled demoPeer (at_ demoPeer 8) ∧ (∀ e ∈ demoPeer.vds, e.2.dlog = false) ∧
    IssueReady demoPeer hdr 8 (at_ demoPeer 8) ∧ peerKey / 2 ^ 60 = 3 ∧ Tab.get? demoPeer.llc peerKey = some peerLine ∧
    peerLine.dirty = true ∧ peerLine.vd = (demoPeer.agentOf 0 (at_ demoPeer 8).w 0).vd ∧
    canonical (((at_ demoPeer 8).rd demoPeer true).gaddr m4 (at_ demoPeer 8).lane) = true ∧
    (∃ e ∈ demoPeer.rangeLines 1 0 0x20000 1, e.2.space = .fab ∧ ifaDev e.2.addr ≠ demoPeer.devid ∧ lineKey .fab e.2.addr = peerKey) ∧
    (((at_ demoPeer 8).rd demoPeer true).w32 (.s 9) (at_ demoPeer 8).lane).toNat = 5 ∧
    (∃ v, Tab.get? demoPeer.vds 1 = some v ∧ (Tab.getD v.pmap 5 ⟨false, 0, 0⟩).v = true) ∧ ifaDev (peerKey % 2 ^ 60 * 64) = 5 :=
  ⟨by decide, ⟨rfl, rfl, by decide⟩, by decide, ⟨rfl, rfl, rfl, rfl⟩, by decide, by decide, rfl, rfl, by decide,
    ⟨(0x20000, ⟨.fab, 5 * 2 ^ 56⟩), by decide +kernel, rfl, by decide, rfl⟩, by decide, ⟨_, rfl, rfl⟩, by decide⟩

/-- A packet of device 5 to this device, under the key 0. -/
def pkt (cls : BitVec 3) (op : BitVec 4) (opnd : BitVec 192) (data : List Byte) : Packet :=
  let p : Packet := ⟨cls, cls, false, op, opnd, false, if data = [] then 0 else 1, 5, 0, 7, 1, 2, 0, 0, 0, 0, data⟩
  { p with tag := Packet.mac p 0 }
theorem pkt_tag (cls : BitVec 3) (op : BitVec 4) (opnd : BitVec 192) (data : List Byte) :
    (pkt cls op opnd data).tag = Packet.mac (pkt cls op opnd data) 0 := by
  simp only [pkt, Packet.mac, Packet.auth, Packet.iv]
  rfl
/-- The virtual device of the fabric scenes: window 0 reaches the frame at 0x10000, and device 5 is a member. -/
def vdF : VDev :=
  { VDev.free with
    st := .running, maxscope := 5, windows := [(0, BitVec.ofNat 128 (31 + 2 ^ 56 + 2 ^ 80))], pmap := [(5, ⟨true, 7, 2⟩)], members := [5] }
/-- The scene with that virtual device. -/
def demoHome : State := { demo with vds := [(1, vdF)], fot := [(1, 1)] }
theorem keys0 (s : State) (v : VDev) (hs : s.keys = []) (e : Bool) : s.fabKey v e = 0 := by
  simp [State.fabKey, hs, Tab.getD]
theorem pkt_ok (s : State) (v : VDev) (hs : s.keys = []) (hv : (v.stream 5).oldTill = none) (cls : BitVec 3) (op : BitVec 4) (opnd : BitVec 192)
    (data : List Byte) : s.tagOk v (pkt cls op opnd data) = true := by
  simp only [State.tagOk, keys0 s v hs, ← pkt_tag]
  rw [show (pkt cls op opnd data).sdev.toNat = 5 from rfl, hv]
  simp
/-- A request for n bytes. -/
def req (op : BitVec 4) (n : Nat) (data : List Byte) : Packet := pkt 0 op (BitVec.ofNat 192 (256 * n)) data
/-- What EndpointRequests asks of a request at its home. -/
def ReqWit (s : State) (p : Packet) (but : Nat) : Prop :=
  p.tdev.toNat = s.devid ∧ Packet.reserved p = false ∧ Tab.get? s.vds p.tvd.toNat = some vdF ∧ vdF.answers p.tinc = true ∧
  s.tagOk vdF p = true ∧ (vdF.stream p.sdev.toNat).fault = false ∧ (vdF.stream p.sdev.toNat).ctr < 2 ^ 48 ∧
  s.llc.length + 8 ≤ 32768 ∧ (∀ e ∈ s.vds, e.2.dlog = false) ∧ s.unsent = [] ∧ p.oclass = 0 ∧ s.roomFor p 0 = true ∧
  Tab.getD vdF.pmap p.sdev.toNat ⟨false, 0, 0⟩ = ⟨true, p.svd, 2⟩ ∧
  s.window 1 p.ifa.toNat (Packet.size p) (windowNeed p.op.toNat (!p.opnd.getLsbD 64)) = .inr 0x10000 ∧
  (∀ x ∈ (linesOf 0x10000 (Packet.size p)).map (· / 64),
    (s.dirAt x).pending = none ∧ s.mustYield (fotOwner (s.fotOf (x / 1024))) x (Packet.writes p) but = [])
/-- Its owner is the device that asks. -/
def demoOwned : State := { demoHome with dir := [(0x400, { DirEntry.none with owner := some (5, 7) })] }

theorem witness_EndpointRequests :
    ReqWit demoHome (req 0 64 []) 5 ∧ ReqWit demoHome (req 1 64 []) 5 ∧ ReqWit demoHome (req 3 8 []) 256 ∧
    (ReqWit demoHome (req 4 8 (leBytes 7 8)) 256 ∧ (slice (req 4 8 (leBytes 7 8)).opnd 24 8 : Byte) = 0) ∧
    (ReqWit demoHome (req 5 8 (leBytes 7 8)) 256 ∧ (req 5 8 (leBytes 7 8)).opnd.getLsbD 64 = false) ∧
    ReqWit demoHome (req 6 8 (leBytes 7 8)) 256 ∧
    ((req 2 64 (List.replicate 64 3)).op.toNat = 2 ∧ (demoOwned.dirAt (0x10000 / 64)).owner = some (5, 7) ∧
      demoOwned.window 1 0 64 (windowNeed 2 true) = .inr 0x10000) ∧
    (Tab.getD ({ vdF with pmap := [] } : VDev).pmap 5 ⟨false, 0, 0⟩).v = false ∧
    (let p := pkt 2 7 0 []; p.op.toNat = 7 ∧ demoHome.roomFor p 2 = true ∧ demoHome.tagOk vdF p = true ∧ (∀ r ∈ demoHome.reqs, r.op ≠ 2) ∧
      ∀ ln, Tab.get? demoHome.llc (lineKey .fab p.ifa.toNat) = some ln → ln.dirty = false ∧ ln.vd = 1) := by
  have H : ∀ (op : BitVec 4) (n : Nat) (data : List Byte), demoHome.tagOk vdF (req op n data) = true :=
    fun op n data => pkt_ok demoHome vdF rfl rfl 0 op _ data
  refine ⟨?_, ?_, ?_, ⟨?_, by decide⟩, ⟨?_, by decide⟩, ?_, ⟨rfl, rfl, rfl⟩, rfl, rfl, by decide, pkt_ok demoHome vdF rfl rfl 2 7 0 [],
    by decide, by intro ln h; cases h⟩ <;>
    exact ⟨rfl, rfl, rfl, rfl, H _ _ _, rfl, by decide, by decide, by decide, rfl, rfl, by decide, rfl, by decide, by decide⟩

/-- A load of four bytes by lane 0 and a store are outstanding at device 5. -/
def reqOf (who : FabWho) (op : Nat) : FabReq := ⟨who, 0x1008, 0, 4, op, 0, [], 0, 0x1800, 1, 5, true⟩
def demoOut (who : FabWho) (op : Nat) : State :=
  { demoHome with reqs := [reqOf who op] }.modWave 0 (fun w => { w with busy := if op = 3 then .remote else .no })
/-- Two devices still hold the line at 0x10000. -/
def demoInvs : State := { demoHome with dir := [(0x400, { DirEntry.none with pending := some (req 1 64 [], [5, 6]) })] }
/-- What EndpointAnswers asks of every answer. -/
def AnsWit (s : State) (p : Packet) : Prop :=
  p.tdev.toNat = s.devid ∧ Packet.reserved p = false ∧ Tab.get? s.vds p.tvd.toNat = some vdF ∧ s.tagOk vdF p = true ∧
  vdF.retired = false ∧ vdF.inc = p.tinc

theorem witness_EndpointAnswers :
    (AnsWit demoInvs (pkt 1 8 0 []) ∧ demoInvs.window 1 0 1 0 = .inr 0x10000 ∧
      (demoInvs.dirAt (0x10000 / 64)).pending = some (req 1 64 [], [5, 6]) ∧ [5, 6].erase 5 ≠ []) ∧
    (let p := pkt 1 9 0 (leBytes 77 4); let r := reqOf (.load 0 0 2 4 false false) 3; let s := demoOut (.load 0 0 2 4 false false) 3;
      AnsWit s p ∧ s.reqs = [r] ∧ r.sent = true ∧ r.vd = 1 ∧ r.dev = p.sdev.toNat ∧ r.ifa = p.ifa.toNat ∧ 4 ≤ p.data.length ∧
      Tab.get? s.waves 0 = some (waveOf s) ∧ (waveOf s).busy = .remote ∧ (waveOf s).rejected = [] ∧ (waveOf s).inbuf = []) ∧
    (let s := demoOut (.store 0 0 0 0x1800) 4;
      AnsWit s (pkt 1 10 0 []) ∧ AnsWit s (pkt 1 11 0 []) ∧ s.reqs = [reqOf (.store 0 0 0 0x1800) 4] ∧
      Tab.get? s.waves 0 = some (waveOf s) ∧ (waveOf s).rejected = [] ∧ (pkt 1 11 0 []).oclass = 1) ∧
    (AnsWit demoHome (pkt 6 12 0 []) ∧ Tab.get? vdF.pmap 5 = some ⟨true, 7, 2⟩) ∧
    AnsWit demoHome (pkt 6 13 0 []) ∧ (AnsWit demoHome (pkt 6 14 0 []) ∧ 5 ∈ vdF.members ∧ (Tab.getD vdF.pmap 5 ⟨false, 0, 0⟩).pvd = 7) := by
  have H : ∀ (s : State), s.keys = [] → ∀ cls op opnd data, s.tagOk vdF (pkt cls op opnd data) = true :=
    fun s hs cls op opnd data => pkt_ok s vdF hs rfl cls op opnd data
  exact ⟨⟨⟨rfl, rfl, rfl, H _ rfl _ _ _ _, rfl, rfl⟩, rfl, rfl, by decide⟩,
    ⟨⟨rfl, rfl, rfl, H _ rfl _ _ _ _, rfl, rfl⟩, rfl, rfl, rfl, rfl, rfl, by decide, rfl, rfl, rfl, rfl⟩,
    ⟨⟨rfl, rfl, rfl, H _ rfl _ _ _ _, rfl, rfl⟩, ⟨rfl, rfl, rfl, H _ rfl _ _ _ _, rfl, rfl⟩, rfl, rfl, rfl, rfl⟩,
    ⟨⟨rfl, rfl, rfl, H _ rfl _ _ _ _, rfl, rfl⟩, rfl⟩, ⟨rfl, rfl, rfl, H _ rfl _ _ _ _, rfl, rfl⟩,
    ⟨rfl, rfl, rfl, H _ rfl _ _ _ _, rfl, rfl⟩, by decide, rfl⟩

/-- Fabric group 0 of the virtual device, whose rotations may stand still for one millisecond. -/
def fg0 : FGroup := ⟨[(0, 0, 1), (1, 5, 7)], 16, 1, 16, []⟩
/-- A rotation of that group. -/
def rotCard : Card :=
  let f := engFront (demoE blkRot) 0 0x20 8 false
  ⟨0, f ++ (rotFoot (RotDesc.of f)).flatMap Range.bytes, .running, 0, 0, 0, 0, 0, none, some (.rot 0), false, false, false, none, [], none, false, none, false, 0⟩
/-- Its run: slot 1 is granted for block 1. -/
def rotRun : RotRun := ⟨0, 2, [⟨.held 0, [0], [], false⟩, ⟨.granted 1, [], [], false⟩], 0, 0, [(1, 1), (2, 0)], [], 0⟩
/-- The scene in which it runs. -/
def demoRot : State :=
  { demoHome with
    clock := 1300000, fgs := [(64, fg0)]
    engines := [(Engine.key (.rot 0), ⟨[], some ⟨⟨0, 0⟩, 0, false, [], [], none, none, some rotRun⟩, none, 0⟩)] }.modWg 0
    (fun g => { g with cards := [rotCard] })
/-- A packet of that rotation: block k, slot j, piece i. -/
def rotPkt (op : BitVec 4) (k j i : Nat) (gr : Bool) (data : List Byte) : Packet := pkt 4 op (rotOpnd 0 0 k j i gr 1 1) data
/-- An abort of that rotation. -/
def abortPkt : Packet := pkt 4 11 (rotOpnd 0 0 1 1 0 false 1 1 ||| 6) []
/-- What FabricUpkeep asks of a packet of class 4. -/
def RotWit (s : State) (p : Packet) : Prop :=
  p.tdev.toNat = s.devid ∧ Packet.reserved p = false ∧ p.oclass = 4 ∧ Tab.get? s.vds p.tvd.toNat = some vdF ∧ s.roomFor p 4 = true ∧
  vdF.answers p.tinc = true ∧ s.tagOk vdF p = true
/-- A packet that passes through this device. -/
def relayed : Packet := { pkt 0 3 0 [] with tdev := 9, svd := 1, hop := true }
/-- Times and holders of the periodic events. -/
def vdT : VDev := { vdF with racks := [5], streams := [(5, ⟨0, false, 0, false, 0, false, false, some 0, some 5⟩)] }
def demoTime : State := { demoHome with clock := 130000000, vds := [(1, vdT)], lcus := [(160, Lcu.init)], allow := [(8, 16)], halo := [relayed] }

set_option maxRecDepth 20000 in
theorem witness_FabricUpkeep :
    Packet.reserved (pkt 7 0 0 []) = true ∧
    (relayed.tdev.toNat ≠ demoHome.devid ∧ relayed.hop = true ∧ Packet.reserved relayed = false ∧ relayed ∉ demoHome.halo ∧
      demoHome.haloRoom relayed = true ∧ relayed ∈ demoTime.halo) ∧
    (Tab.getD demoTime.allow ((0 * 512 + 1) * 8 + 1) 0 = 0 ∧
      16 ≤ 65536 - demoTime.reservedAll - demoTime.pool - (demoTime.allow.map Prod.snd).foldl (· + ·) 0 ∧
      Tab.getD demoTime.allow ((0 * 512 + 1) * 8 + 0) 0 ≠ 0) ∧
    Tab.get? demoTime.lcus (160 + 0) = some Lcu.init ∧
    (Tab.get? demoTime.vds 1 = some vdT ∧ vdT.rackAt + 130000000 ≤ demoTime.clock ∧ (vdT.stream 5).oldTill = some 5 ∧ 5 ≤ demoTime.clock ∧
      (vdT.stream 5).stallAt = some 0 ∧ 0 + 13000000 ≤ demoTime.clock ∧ (vdT.stream 5).fault = false ∧ demoTime.reqs = []) ∧
    (let s := { demoRot with engines := [] }; let p := rotPkt 10 1 1 0 true [];
      RotWit s p ∧ p.opnd.getLsbD 0 = true ∧ s.rotOf 1 (rotGrp p) (rotRid p) = none ∧ Tab.get? s.fgs (1 * 64 + rotGrp p) = some fg0 ∧
      fg0.held.length < 8) ∧
    (let p := rotPkt 4 1 1 0 false (List.replicate 256 9);
      RotWit demoRot p ∧ demoRot.rotOf 1 (rotGrp p) (rotRid p) = some (⟨0, 0⟩, wg0 demoRot, rotCard, rotRun) ∧
      rotRun.slots[rotSlot p]? = some ⟨.granted 1, [], [], false⟩ ∧ rotSlot p < (RotDesc.of rotCard.bytes).slots ∧ rotBlock p = 1 ∧
      (slice p.opnd 25 11 : BitVec 11).toNat < (RotDesc.of rotCard.bytes).pieces) ∧
    (RotWit demoRot (rotPkt 10 1 1 0 false []) ∧ (rotPkt 10 1 1 0 false []).opnd.getLsbD 0 = false) ∧
    (RotWit demoRot abortPkt ∧ abortPkt.op.toNat = 11 ∧ (slice abortPkt.opnd 0 8 : BitVec 8) = 6 ∧
      demoRot.rotOf 1 (rotGrp abortPkt) (rotRid abortPkt) = some (⟨0, 0⟩, wg0 demoRot, rotCard, rotRun) ∧ rotCard.kind = 0x20 ∧
      rotCard.st = .running ∧ rotCard.final = false ∧ ∀ e ∈ demoRot.waves, e.2.parked = 0) ∧
    ((demoRot.engine (.rot 0)).run = some ⟨⟨0, 0⟩, 0, false, [], [], none, none, some rotRun⟩ ∧
      demoRot.card? ⟨0, 0⟩ = some (wg0 demoRot, rotCard) ∧
      Tab.get? demoRot.fgs ((wg0 demoRot).vd * 64 + (RotDesc.of rotCard.bytes).fgrp) = some fg0 ∧
      rotRun.since + fg0.cycles ≤ demoRot.clock ∧ demoRot.rotCount (wg0 demoRot) (RotDesc.of rotCard.bytes) = rotRun.seen) := by
  have H : ∀ (s : State), s.keys = [] → ∀ op k j i gr data, s.tagOk vdF (rotPkt op k j i gr data) = true :=
    fun s hs op k j i gr data => pkt_ok s vdF hs rfl 4 op _ data
  exact ⟨rfl, ⟨by decide, rfl, rfl, by simp [demoHome, demo, State.scene, State.reset], by decide, by simp [demoTime]⟩,
    by decide +kernel, rfl, ⟨rfl, by decide, rfl, by decide, rfl, by decide, rfl, rfl⟩,
    ⟨⟨rfl, rfl, rfl, rfl, by decide, rfl, H _ rfl _ _ _ _ _ _⟩, by decide +kernel, rfl, rfl, by decide⟩,
    ⟨⟨rfl, rfl, rfl, rfl, by decide, rfl, H _ rfl _ _ _ _ _ _⟩, by decide +kernel, by decide +kernel, by decide +kernel, by decide +kernel, by decide +kernel⟩,
    ⟨⟨rfl, rfl, rfl, rfl, by decide, rfl, H _ rfl _ _ _ _ _ _⟩, by decide +kernel⟩,
    ⟨⟨rfl, rfl, rfl, rfl, by decide, rfl, pkt_ok demoRot vdF rfl rfl 4 11 _ _⟩, rfl, by decide +kernel, by decide +kernel,
      by decide +kernel, rfl, rfl, by decide⟩,
    rfl, rfl, by decide +kernel, by decide, by decide +kernel⟩
/-- The relayed packet in the halo buffer, 1,000 cycles into a dwell of port 0. -/
def demoHalo : State := { demoHome with clock := 1000, halo := [relayed] }
/-- A port picks it where its rotor connects this device to the packet's target, which is the fabric's to say. -/
theorem witness_FabricUpkeep_relay (hm : Config.matchedTo 0 0 0 = 9) :
    ∃ q x, demoHalo.portPick 0 = some (relayed, q, x) ∧ relayed.sdev.toNat ≠ demoHalo.devid := by
  have hv : demoHalo.viaPort 0 relayed = some { relayed with cls := relayed.oclass, hop := false } := by
    have hc : demoHalo.connects 0 relayed.tdev.toNat 0 = true := by
      show (true && Config.matchedTo 0 0 0 == 9) = true
      rw [hm]; rfl
    simp only [State.viaPort, hc]
    rfl
  have hl : firstOnes (demoHalo.halo ++ demoHalo.out) [] = [relayed] := rfl
  unfold State.portPick
  simp only [hl, List.filterMap_cons, List.filterMap_nil, hv]
  exact ⟨_, _, rfl, by decide⟩

/-! ## Events of waves and launches -/

/-- What WaveEvents asks of every event. -/
def WaveWit (s : State) : Prop := Tab.get? s.waves 0 = some (waveOf s) ∧ Tab.get? s.wgs (waveOf s).wg = some (wg0 s)
/-- Lane 5 stands at 0x1100. -/
def demoDiv : State := demoW (fun w => { w with pc := Tab.put w.pc 5 0x1100, fair := 1 })
/-- Lane 5 is parked with no condition left. -/
def demoPk : State := demoW (fun w => { w with parked := 0x20, reason := [(5, 2)] })
/-- The wave has exited. -/
def demoEx : State := demoW (fun w => { w with exited := 0xFFFFFFFF })
/-- A trap waits behind accesses of the fabric that have come back. -/
def demoTr : State := demoW (fun w => { w with trap := some ⟨0x10, 7, 5, 0x1000, 0, [], []⟩, busy := .remote })

/-- The wave waits in SNEXT, and its only stage is closed. -/
def demoClosed : State := demoG (demoW (fun w => { w with busy := .stage, inStage := false })) (fun g => { g with closed := [0] })
/-- An open speculation from 0x1000 without a guard slot. -/
def demoSpec0 : Spec := ⟨0x1000, true, 0x1100, 0x1008, [], [], [], [], 5, [], [], [], [], false, 0, none, [], none⟩

theorem witness_WaveEvents :
    (WaveWit demoDiv ∧ (waveOf demoDiv).diverged = true ∧ slice (waveOf demoDiv).fair 0 16 ≠ (0 : BitVec 16) ∧
      (waveOf demoDiv).chain = 0 ∧ (waveOf demoDiv).fairGroup = some 0x1100) ∧
    (let s := demoW (fun w => { w with pc := Tab.put w.pc 5 0x1100, fair := 1, chain := 1 });
      WaveWit s ∧ (waveOf s).diverged = true ∧ slice (waveOf s).fair 0 16 ≠ (0 : BitVec 16) ∧ (waveOf s).chain ≠ 0) ∧
    (let s := demoW (fun w => { w with busy := .sleep 1 }); WaveWit s ∧ (waveOf s).busy = .sleep 1 ∧ 1 ≤ s.clock) ∧
    (WaveWit demoPk ∧ (waveOf demoPk).parked.has 5 = true ∧ (waveOf demoPk).settled = true ∧
      demoPk.resolved (waveOf demoPk) (wg0 demoPk) 5 = true) ∧
    (let s := demoW (fun w => { w with busy := .stage, inStage := false });
      WaveWit s ∧ (waveOf s).busy = .stage ∧ s.rcdOf (wg0 s) = some sceneRecord ∧ s.eligible 0 (wg0 s) sceneRecord 0 = true ∧
      ∀ q, 0 < q → ¬q ≤ sceneRecord.nstage) ∧
    (WaveWit demoClosed ∧ (waveOf demoClosed).busy = .stage ∧ demoClosed.rcdOf (wg0 demoClosed) = some sceneRecord ∧
      (∀ q, q ≤ sceneRecord.nstage → demoClosed.eligible 0 (wg0 demoClosed) sceneRecord q = false ∧
        (wg0 demoClosed).closed.contains q = true) ∧ (∀ e ∈ (wg0 demoClosed).queues, e.2.copies = []) ∧
      (waveOf demoClosed).arith (waveOf demoClosed).alive = 0 ∧ (wg0 demoClosed).failedCard = none ∧
      (waveOf demoClosed).refused = []) ∧
    (let s := demoW (fun w => { w with preempt := some 1 });
      WaveWit s ∧ (waveOf s).preempt = some 1 ∧ (waveOf s).halted = false ∧ s.midway 0 (waveOf s) = false ∧
      (waveOf s).reconverged = true ∧ 1 ≤ s.clock ∧ (waveOf s).chain = 0 ∧ (waveOf s).spec = none) ∧
    (let s := demoW (fun w => { w with preempt := some 1, spec := some demoSpec0 });
      WaveWit s ∧ (waveOf s).preempt = some 1 ∧ (waveOf s).halted = false ∧ s.midway 0 (waveOf s) = false ∧
      1 ≤ s.clock ∧ (waveOf s).chain = 0 ∧ (waveOf s).spec = some demoSpec0 ∧ demoSpec0.guard = none) ∧
    (WaveWit demoTr ∧ demoTr.outstanding 0 = false ∧ (∀ va, (waveOf demoTr).busy ≠ .frame va) ∧ (∀ b, (waveOf demoTr).busy ≠ .away b) ∧
      (waveOf demoTr).trap = some ⟨0x10, 7, 5, 0x1000, 0, [], []⟩) ∧
    (let s := demoW (fun w => { w with rft := true });
      WaveWit s ∧ s.outstanding 0 = false ∧ (∀ va, (waveOf s).busy ≠ .frame va) ∧ (∀ b, (waveOf s).busy ≠ .away b) ∧ (waveOf s).trap = none ∧ (waveOf s).rft = true) ∧
    (WaveWit demoEx ∧ (waveOf demoEx).alive = 0 ∧ (waveOf demoEx).trap = none ∧
      demoEx.outstanding 0 = false ∧ (wg0 demoEx).frozen = false ∧ (demoEx.core (wg0 demoEx).core).tracker.length < 16) ∧
    (let s := demoG demoEx (fun g => { g with live := 0 });
      WaveWit s ∧ (wg0 s).live = 0 ∧ s.canRetire 0 (wg0 s) = true ∧ (wg0 s).frozen = false ∧
      ∀ c ∈ (wg0 s).cards, c.st = .failed → c.reported = true) :=
  ⟨⟨⟨rfl, rfl⟩, by decide, by decide, rfl, by decide⟩, ⟨⟨rfl, rfl⟩, by decide, by decide, by decide⟩,
    ⟨⟨rfl, rfl⟩, rfl, by decide⟩, ⟨⟨rfl, rfl⟩, by decide, rfl, rfl⟩,
    ⟨⟨rfl, rfl⟩, rfl, rfl, by decide, fun q h => by simp [sceneRecord]; omega⟩,
    ⟨⟨rfl, rfl⟩, rfl, rfl, fun q h => by
      obtain rfl : q = 0 := Nat.le_zero.mp h
      exact ⟨by decide, by decide⟩, (fun e h => by cases h), by decide, rfl, rfl⟩,
    ⟨⟨rfl, rfl⟩, rfl, rfl, rfl, by decide, by decide, rfl, rfl⟩, ⟨⟨rfl, rfl⟩, rfl, rfl, rfl, by decide, rfl, rfl, rfl⟩,
    ⟨⟨rfl, rfl⟩, rfl, (fun va h => by cases h), (fun b h => by cases h), rfl⟩,
    ⟨⟨rfl, rfl⟩, rfl, (fun va h => by cases h), (fun b h => by cases h), rfl, rfl⟩,
    ⟨⟨rfl, rfl⟩, by decide, rfl, rfl, rfl, by decide⟩, ⟨⟨rfl, rfl⟩, rfl, rfl, rfl, by decide⟩⟩

/-- Queue 0 of the context, with one record at 0x1800. -/
def queue0 : LaunchQ := ⟨0x1800, 1, false, true, true, true, .none, 0, 1, 0, 0, none, 0, false, none⟩
/-- The scene with that queue: the record, of one gang of one workgroup of 32 threads, is good or is all zero. -/
def demoL (good : Bool) : State :=
  let r := leBytes 0x1000 8 ++ leBytes 0 8 ++ leBytes 1 4 ++ leBytes (32 + 65536) 4
  { demo with queues := [(4096, queue0)], host := if good then cellsSet demo.host 0x4800 r else demo.host }
/-- Its page and the state after the translation. -/
def recState (good : Bool) : State := ((demoL good).vccSpan 1 0 queue0.headAt 128 false).2
/-- The only gang of the scene's launch still waits for a place. -/
def demoPl : State := { demo with cur := none, waves := [], wgs := [], launches := [(1, ⟨1, 0, sceneRecord, 0, 0, false, false⟩)] }
/-- A launch whose workgroups have retired. -/
def doneLaunch (cnt : Nat) : Launch := ⟨1, 0, { sceneRecord with cntaddr := cnt, incr := 1 }, 1, 1, false, false⟩
def demoDone (cnt : Nat) : State := { demo with launches := [(1, doneLaunch cnt)] }
/-- The workgroup stands still for an image. -/
def demoStill : State := demoG (demoW (fun w => { w with halted := true, preempt := some 1 })) (fun g => { g with preempt := some 0 })
/-- A header of no content for the scene's context, with the counter n. -/
def imgHeader (n : Nat) : List Byte :=
  leBytes (2 ^ 792 + 128 * 2 ^ 744 + 64 * 2 ^ 800 + n * 2 ^ 832) 128
/-- The context was saved under counter 0; its image stands where it was written, or one of counter 1. -/
def demoImg (n : Nat) : State :=
  { demo with host := cellsSet demo.host 0x5000 (imgHeader n), images := [⟨1, 0, 0, 0, []⟩] }.modCtx 1 0
    (fun c => { c with save := 0x5000, saved := .retry false })

/-- Only the first cluster is there; sub-partition 0 falls due under the holder `h`, the others are held by another virtual device;
the launch of virtual device 1 that waits has workgroups of `n` threads. -/
def demoSl (h n : Nat) : State :=
  { demoPl with
    boot := { demoPl.boot with clpop := 1 }
    launches := [(1, ⟨1, 0, { sceneRecord with wgthr := n }, 0, 0, false, false⟩)]
    sps := (List.range 32).map (fun k => (k, { SubPart.free with holder := if k = 0 then h else 2, till := if k = 0 then 0 else 2 ^ 40 })) }
/-- A workgroup of the holder stands on sub-partition 0. -/
def demoOcc : State := { demoSl 3 32 with wgs := [(0, { wg0 demo with vd := 3 })] }
/-- What LaunchEvents asks of the choice of sub-partition 0. -/
def SliceWit (s : State) : Prop :=
  s.dueSps = [0] ∧ (∃ v, Tab.get? s.noteReady.vds 1 = some v) ∧ (Pass.choose [0] ⟨s.noteReady, [], []⟩ 0).got = [(0, 1)]
/-- Virtual device 1 keeps sub-partition 1 and may hold `n` of them. -/
def demoKept (n : Nat) : State :=
  { demoSl 3 32 with sps := Tab.put (demoSl 3 32).sps 1 { SubPart.free with holder := 1, till := 2 ^ 40 } }.modVd 1
    (fun v => { v with maxsp := n })
/-- Whether the sub-partition with those that the chosen one keeps has room for a waiting workgroup. -/
def sliceFits (s : State) : Bool :=
  let p := Pass.choose [0] ⟨s.noteReady, [], []⟩ 0
  let ks := (List.range 4).filter (fun k => k == 0 || ((s.sp k).holder == 1 && (s.sp k).next.isNone))
  (p.st.waitingShapes 1).any (fun sh => (p.st.fitOn 0 ks [0] sh).isSome)
set_option maxRecDepth 20000 in
theorem witness_LaunchEvents_slices :
    (SliceWit (demoSl 1 32) ∧ ((demoSl 1 32).sp 0).holder = 1) ∧
    (SliceWit (demoSl 3 32) ∧ ((demoSl 3 32).sp 0).holder ≠ 1 ∧ sliceFits (demoSl 3 32) = true ∧ (demoSl 3 32).occupants 0 = []) ∧
    (SliceWit demoOcc ∧ (demoOcc.sp 0).holder ≠ 1 ∧ sliceFits demoOcc = true ∧ demoOcc.occupants 0 ≠ []) ∧
    (SliceWit (demoSl 3 128) ∧ ((demoSl 3 128).sp 0).holder ≠ 1 ∧ sliceFits (demoSl 3 128) = false ∧ (demoSl 3 128).occupants 0 = [] ∧
      ∀ e ∈ (demoSl 3 128).noteReady.vds, e.1 ≠ 1 → (demoSl 3 128).noteReady.readyVd e.1 e.2 = false) ∧
    (Tab.sorted (demoSl 3 32).noteReady.vds = true ∧
      ∃ v, (1, v) ∈ (demoSl 3 32).noteReady.vds ∧ (demoSl 3 32).noteReady.readyVd 1 v = true ∧
        (demoSl 3 32).noteReady.kept [0] 1 < v.minsp ∧ v.minsp ≤ v.maxsp) ∧
    (∀ n, n = 1 ∨ n = 2 → ∃ v, (1, v) ∈ (demoKept n).noteReady.vds ∧ (demoKept n).noteReady.readyVd 1 v = true ∧
      (demoKept n).noteReady.kept [0] 1 = 1 ∧ v.minsp = 1 ∧ v.maxsp = n) := by
  refine ⟨⟨⟨by decide +kernel, ⟨_, rfl⟩, by decide +kernel⟩, by decide +kernel⟩,
    ⟨⟨by decide +kernel, ⟨_, rfl⟩, by decide +kernel⟩, by decide +kernel, by decide +kernel, by decide +kernel⟩,
    ⟨⟨by decide +kernel, ⟨_, rfl⟩, by decide +kernel⟩, by decide +kernel, by decide +kernel, by decide +kernel⟩,
    ⟨⟨by decide +kernel, ⟨_, rfl⟩, by decide +kernel⟩, by decide +kernel, by decide +kernel, by decide +kernel, by decide +kernel⟩,
    ⟨by decide +kernel, ⟨_, List.mem_singleton.mpr rfl, by decide +kernel, by decide +kernel, by decide +kernel⟩⟩, fun n hn => ?_⟩
  rcases hn with rfl | rfl <;> exact ⟨_, List.mem_singleton.mpr rfl, by decide +kernel, by decide +kernel, rfl, rfl⟩

set_option maxRecDepth 20000 in
theorem witness_LaunchEvents :
    (∀ good, (demoL good).takes 1 0 = true ∧ (demoL good).nextQueue 1 0 = some (4096, queue0) ∧
      Tab.get? (demoL good).queues 4096 = some queue0 ∧ canonical (BitVec.ofNat 64 queue0.base) = true ∧
      (demoL good).vccSpan 1 0 queue0.headAt 128 false = (.ok [⟨⟨.host, 0x4800⟩, 0x1800, 128⟩], recState good) ∧
      Tab.get? (recState good).queues 4096 = some queue0) ∧
    (let r := leNat ((recState true).readPieces [⟨⟨.host, 0x4800⟩, 0x1800, 128⟩]);
      recFieldsOk r = true ∧ (recState true).gangFits (LaunchRec.of r 0).gangsz = true ∧ (LaunchRec.of r 0).nstage = 0 ∧
      recTableOk r 0 = true) ∧
    recFieldsOk (leNat ((recState false).readPieces [⟨⟨.host, 0x4800⟩, 0x1800, 128⟩])) = false ∧
    (∃ v c e pl, Tab.get? demoPl.vds 1 = some v ∧ v.st = .running ∧ (demoPl.placementRound 1).nextPlace 1 v.lastCtx = some (c, e, pl) ∧
      pl.2 ≠ []) ∧
    (Tab.get? (demoDone 0).launches 1 = some (doneLaunch 0) ∧ (doneLaunch 0).over' = true ∧ (doneLaunch 0).rcd.cntaddr = 0) ∧
    (Tab.get? (demoDone 0x1800).launches 1 = some (doneLaunch 0x1800) ∧ (doneLaunch 0x1800).over' = true ∧
      (doneLaunch 0x1800).spoiled = false ∧ (doneLaunch 0x1800).rcd.cntaddr ≠ 0 ∧ (doneLaunch 0x1800).waiting = false ∧
      (let x := (demoDone 0x1800).vccSpan 1 0 0x1800 8 true;
        x.1 = .ok [⟨⟨.host, 0x4800⟩, 0x1800, 8⟩] ∧ x.2.recallPlaces true [(⟨.host, 0x4800⟩, 8)] = none ∧ ∀ e ∈ x.2.vds, e.2.dlog = false)) ∧
    (Tab.get? demo.wgs 0 = some (wg0 demo) ∧ demo.occupies 0 (wg0 demo) 0 = true) ∧
    (demoStill.ctx? 1 0 = some (ctx0 demoStill) ∧ demoStill.contextWgs 1 0 = [(0, wg0 demoStill)] ∧
      demoStill.wgStill 0 (wg0 demoStill) = true) ∧
    (∀ n, n = 0 ∨ n = 1 → ∃ v, Tab.get? (demoImg n).vds 1 = some v ∧ (demoImg n).ctx? 1 0 = some (ctx0 (demoImg n)) ∧
      (ctx0 (demoImg n)).saved = .retry false ∧ v.st = .running ∧ (ctx0 (demoImg n)).running = true ∧
      (ctx0 (demoImg n)).stopping = false ∧ ((demoImg n).tryRestore 1 0).1 = if n = 0 then .accepted else .stale) ∧
    1 ∈ demo.dueSps := by
  refine ⟨fun good => ?_, by decide +kernel, by decide +kernel, ⟨_, _, _, _, rfl, rfl, rfl, by decide +kernel⟩, ⟨rfl, rfl, rfl⟩,
    ⟨rfl, rfl, rfl, by decide, rfl, rfl, rfl, by decide⟩, ⟨rfl, rfl⟩, ⟨rfl, rfl, by decide⟩, fun n hn => ?_, by decide +kernel⟩
  · cases good <;> exact ⟨rfl, rfl, rfl, by decide, rfl, rfl⟩
  · rcases hn with rfl | rfl <;> exact ⟨_, rfl, rfl, rfl, rfl, rfl, rfl, by decide +kernel⟩

/-! ## Events of cards -/

/-- A card of those bytes, running on an engine of the scene. -/
def runCard (e : Engine) (b : List Byte) : Card := { cardIn 0 .running with bytes := b, eng := some e }
def runOn (s : State) (e : Engine) (c : Card) (f : Run → Run) : State :=
  demoG { s with engines := [(Engine.key e, ⟨[], some (f (Run.fresh ⟨0, 0⟩ c)), none, 0⟩)] } (fun g => { g with cards := [c], slots := [(0, 0)] })
/-- What an engine does next, as a number. -/
def outTag : EngOut → Nat
  | .idle => 0
  | .go _ => 1
  | .park _ _ _ => 2
  | .fail _ _ => 3
  | .fin _ => 4
theorem out_go {x : EngOut} (h : outTag x = 1) : ∃ t, x = .go t := by cases x <;> first | exact ⟨_, rfl⟩ | cases h
theorem out_park {x : EngOut} (h : outTag x = 2) : ∃ a w t, x = .park a w t := by cases x <;> first | exact ⟨_, _, _, rfl⟩ | cases h
theorem out_fail {x : EngOut} (h : outTag x = 3) : ∃ k t, x = .fail k t := by cases x <;> first | exact ⟨_, _, rfl⟩ | cases h
/-- A copy of 16 bytes of the scratchpad, one whose source page is absent, and one whose source lies outside. -/
def cpBytes (src ssp : Nat) : List Byte := copyCard (demoD src ssp 0) 1 (descOf src ssp 0)
def demoCp (src ssp : Nat) (f : Card → Card) (q : Run → Run) : State := runOn (demoD src ssp 0) (.copy 0 0) (f (runCard (.copy 0 0) (cpBytes src ssp))) q
/-- Cards of the other engines. -/
def mvBytes : List Byte := let f := engFront (demoE blkMv) 0x540104 0x12 10 true; f ++ (mvFoot f (FWord.of 0x540104)).flatMap Range.bytes
def atBytes : List Byte := let f := engFront (demoE blkAttn) 0x540104 0x18 10 true; f ++ (attnRanges (AttnDesc.of f) (FWord.of 0x540104)).flatMap Range.bytes
def blkMv2 : List Nat := [0x10000, 0, 0, 0, 256, 0x10001, 0xC00, 0xE00, 0x10002, 0]
def mv2Bytes : List Byte := let f := engFront (demoE blkMv2) 0x540104 0x12 10 true; f ++ (mvFoot f (FWord.of 0x540104)).flatMap Range.bytes
def mvOn (s : State) (b : List Byte) (f : Card → Card) : State :=
  demoG { s with ismvq := [(0, [⟨0, 0⟩])] } (fun g => { g with cards := [f (runCard (.ismv 0) b)] })
def blkRing : List Nat := [0xC00, 0x40002, 0xD00, 0x580E00, 0x3F800000, 0, 0, 0x80C00, 0x40001, 0]
def ringBytes : List Byte := let f := engFront (demoE blkRing) 0x540104 0x18 10 true; f ++ (attnRanges (AttnDesc.of f) (FWord.of 0x540104)).flatMap Range.bytes
/-- A published, an admitted and a queued card, each the only one of its ring. -/
def demoCd (st : CardState) : State :=
  demoG { demoD 0xD00 2 0 with engines := if st = .queued then [(Engine.key (.copy 0 0), ⟨[⟨0, 0⟩], none, none, 0⟩)] else [] }
    (fun g => { g with cards := [{ runCard (.copy 0 0) (cpBytes 0xD00 2) with st := st }] })
/-- A copy of a page that is absent, once its descriptor has been read. -/
def demoCpPark : State := demoCp 0x2000 1 id (fun q => { q with desc := descBytes 0x2000 1 0 })
def demoMv : State := { demoKv with host := cellsSet demoKv.host 0x3088 (leBytes 0x11263 8) }
def okRel : Option (Nat × Card × Placing) → Bool
  | some (gid, c, .to _ t) => (t.card? ⟨gid, c.seq⟩).isSome
  | _ => false
theorem okRel_spec {x : Option (Nat × Card × Placing)} (h : okRel x = true) :
    ∃ gid c l t, x = some (gid, c, .to l t) ∧ (t.card? ⟨gid, c.seq⟩).isSome = true := by
  unfold okRel at h
  split at h
  · exact ⟨_, _, _, _, rfl, h⟩
  · cases h
def okPark (r : CardRef) : EngOut → Bool
  | .park _ _ t => (t.card? r).isSome
  | _ => false
theorem okPark_spec {r : CardRef} {x : EngOut} (h : okPark r x = true) :
    ∃ va w t, x = .park va w t ∧ (t.card? r).isSome = true := by
  cases x <;> first | exact ⟨_, _, _, rfl, h⟩ | cases h
def okFail (r : CardRef) : EngOut → Bool
  | .fail _ t => (match (t.card? r).map Prod.snd with | some c => !c.final | none => false) && t.waves.all (fun x => x.2.parked == 0)
  | _ => false
theorem okFail_spec {r : CardRef} {x : EngOut} (h : okFail r x = true) :
    ∃ k t, x = .fail k t ∧ (∃ c, (t.card? r).map Prod.snd = some c ∧ c.final = false) ∧ ∀ y ∈ t.waves, y.2.parked = 0 := by
  cases x with
  | fail k t =>
    simp only [okFail, Bool.and_eq_true, List.all_eq_true, beq_iff_eq] at h
    refine ⟨k, t, rfl, ?_, h.2⟩
    split at h
    · exact ⟨_, ‹_›, by simpa using h.1⟩
    · simp at h
  | _ => cases h
/-- What CardEvents asks of a running card, and what its engine does next. -/
def RunWit (s : State) (e : Engine) (p : EngOut → Prop) : Prop :=
  (∃ g c q, s.running e = some (⟨0, 0⟩, g, c, q)) ∧ p (s.engineNext e)
theorem runWit {s : State} {e : Engine} {p : EngOut → Prop}
    (h : ((s.running e).map Prod.fst == some ⟨0, 0⟩) = true) (hp : p (s.engineNext e)) : RunWit s e p := by
  refine ⟨?_, hp⟩
  cases hx : s.running e with
  | none => rw [hx] at h; cases h
  | some x => obtain ⟨r, g, c, q⟩ := x; rw [hx] at h; simp at h; subst h; exact ⟨g, c, q, rfl⟩
def isGo (x : EngOut) : Prop := ∃ t, x = .go t
/-- A card whose cancel waits, and cards with every access made. -/
def demoCancel : State := demoCp 0xD00 2 (fun c => { c with cancel := true }) id
def demoFin : State := demoCp 0xD00 2 (fun c => { c with atAdd := true }) (fun q => { q with done := true })
def mvFin : State := mvOn demoMv mv2Bytes (fun c => { c with atAdd := true })
def demoStopped : State := { demo with clock := 130001, acc := [(5, 1)], engines := [(Engine.key (.half 0 0), ⟨[], none, some 1, 0⟩)] }
def demoQc : State := demoG demo (fun g => { g with queues := [(3, ⟨qword, 0, 0, 1, 0, [(0, [1, 2, 3, 4])]⟩), (4, ⟨qword, 0, 1, 1, 1, []⟩)] })

set_option maxRecDepth 20000 in
theorem witness_CardEvents :
    (let s := demoCd .published
     s.ringsFrom 0 (s.core 0).nextRing = [(0, wg0 s)] ∧ Tab.get? s.wgs 0 = some (wg0 s) ∧
      ((wg0 s).cards.find? (fun c => c.st == .published)).isSome = true ∧ (wg0 s).frozen = false ∧
      ((wg0 s).cards.filter Card.admitted).length < 32) ∧
    (let s := demoCd .admitted
     ∃ gid c l t, (s.ringsFrom 0 (s.core 0).nextRel).findSome? (fun e => (s.releasable e.1 e.2).map (fun r => (e.1, r))) =
        some (gid, c, .to l t) ∧ (t.card? ⟨gid, c.seq⟩).isSome = true) ∧
    (let s := demoCd .queued
     s.nextCard (.copy 0 0) = some ⟨0, 0⟩ ∧
      ∃ g c, s.card? ⟨0, 0⟩ = some (g, c) ∧ s.canStart g c ⟨0, 0⟩ (g.enginesOf c (.copy 0 0)) = true) ∧
    RunWit (demoCp 0xD00 2 id id) (.copy 0 0) isGo ∧ RunWit (runOn demo (.half 0 0) (runCard (.half 0 0) accCard) id) (.half 0 0) isGo ∧
    RunWit demoRot (.rot 0) isGo ∧ RunWit (runOn (demoE blkRing) (.attn 0) (runCard (.attn 0) ringBytes) id) (.attn 0) isGo ∧
    RunWit (mvOn demoMv mv2Bytes id) (.ismv 0) isGo ∧
    RunWit demoCpPark (.copy 0 0) (fun x => ∃ va w t, x = .park va w t ∧ (t.card? ⟨0, 0⟩).isSome = true) ∧
    RunWit (demoCp 0x2000 0 id id) (.copy 0 0) (fun x => ∃ k t, x = .fail k t ∧
      (∃ c, (t.card? ⟨0, 0⟩).map Prod.snd = some c ∧ c.final = false) ∧ ∀ y ∈ t.waves, y.2.parked = 0) ∧
    (∃ g c q, demoCancel.running (.copy 0 0) = some (⟨0, 0⟩, g, c, q) ∧ c.stopping q = true ∧
      demoCancel.cardBusy ⟨0, 0⟩ = false ∧ c.final = false) ∧
    (∃ g c q, demoFin.running (.copy 0 0) = some (⟨0, 0⟩, g, c, q) ∧ c.cancel = false ∧ c.final = false ∧
      demoFin.cardBusy ⟨0, 0⟩ = false ∧ c.code = 0 ∧ c.atAdd = true ∧ cCnt c.bytes = 0 ∧ q.done = true) ∧
    (∃ g c q, mvFin.running (.ismv 0) = some (⟨0, 0⟩, g, c, q) ∧ c.cancel = false ∧ c.final = false ∧
      mvFin.cardBusy ⟨0, 0⟩ = false ∧ c.code = 0 ∧ c.atAdd = true ∧ cCnt c.bytes = 0 ∧ mvDone c = true) ∧
    ((demoStopped.engine (.half 0 0)).stopAt = some 1 ∧ 1 + 130000 ≤ demoStopped.clock ∧ demoStopped.heldBy (.half 0 0) = []) ∧
    (Tab.get? demoQc.wgs 0 = some (wg0 demoQc) ∧ Tab.get? (wg0 demoQc).queues 3 = some ⟨qword, 0, 0, 1, 0, [(0, [1, 2, 3, 4])]⟩ ∧
      Tab.get? (wg0 demoQc).queues 4 = some ⟨qword, 0, 1, 1, 1, []⟩) := by
  refine ⟨⟨rfl, rfl, by decide +kernel, by decide +kernel, by decide +kernel⟩, okRel_spec (by decide +kernel),
    ⟨by decide +kernel, _, _, rfl, by decide +kernel⟩, runWit (by decide +kernel) (out_go (by decide +kernel)),
    runWit (by decide +kernel) (out_go (by decide +kernel)), runWit (by decide +kernel) (out_go (by decide +kernel)),
    runWit (by decide +kernel) (out_go (by decide +kernel)), runWit (by decide +kernel) (out_go (by decide +kernel)),
    runWit (by decide +kernel) (okPark_spec (by decide +kernel)), runWit (by decide +kernel) (okFail_spec (by decide +kernel)),
    ⟨_, _, _, rfl, by decide +kernel, by decide +kernel, by decide +kernel⟩, ⟨_, _, _, rfl, rfl, by decide +kernel, by decide +kernel, rfl, rfl, by decide +kernel, rfl⟩,
    ⟨_, _, _, rfl, rfl, by decide +kernel, by decide +kernel, rfl, rfl, by decide +kernel, by decide +kernel⟩, ⟨rfl, by decide +kernel, by decide +kernel⟩, rfl, rfl, rfl⟩

/-! ## The machine as a whole -/

/-- Registers, literals and constants at the ends of their ranges. -/
theorem witness_DecodeOfEncode :
    (∀ i ∈ ([.iadd hdr (.v 0) (.v 63) (.s 63) true true, .iadd hdr (.s 63) (.iconst 63) (.lit 0xFFFFFFFF) false true,
        .bra hdr (.off 0x1FFFFFF) true true, .st hdr ⟨.s 4, .v 2⟩ (.v 63) .b8 true (some .dev)] : List Instr),
      hasWords i = true ∧ i.wellFormed = true ∧ ∃ w r, encode i = w :: r) ∧ hasWords (.sleepExpire 0) = false := by
  refine ⟨fun i hi => ?_, rfl⟩
  fin_cases hi <;> exact ⟨rfl, by decide +kernel, _, _, rfl⟩

/-- The wave of the scene is about to fetch the words w. -/
def demoNext (w : Nat) : State := State.reset.planted w
def isNext : Res → Bool
  | .next _ => true
  | _ => false
theorem isNext_spec {r : Res} (h : isNext r = true) : ∃ t, r = .next t := by
  cases r <;> first | exact ⟨_, rfl⟩ | cases h

theorem witness_StepKeepsMemoryCanonical : ∃ s t : State, s.MemOk ∧ s.mem = [] ∧ s.host ≠ [] ∧ Steps s t :=
  let s := demoNext 0x28000A0688000001
  have h := isNext_spec (r := step s) (by decide +kernel)
  ⟨s, h.choose, ⟨by decide +kernel, by decide +kernel, by decide +kernel, by decide +kernel⟩, rfl, by decide +kernel, h.choose_spec⟩

/-- What comes first, on a state whose turn is the waves': the words of an issue, what they decode to. -/
def okIssue (p : Option Instr → Bool) : Next → Bool
  | .issue k f t => (Tab.get? t.waves k).isSome && p (decode f.w f.w2)
  | _ => false
theorem okIssue_spec {p : Option Instr → Bool} {x : Next} (h : okIssue p x = true) :
    ∃ k f t w, x = .issue k f t ∧ Tab.get? t.waves k = some w ∧ p (decode f.w f.w2) = true := by
  cases x with
  | issue k f t =>
    simp only [okIssue, Bool.and_eq_true, Option.isSome_iff_exists] at h
    obtain ⟨⟨w, hw⟩, hp⟩ := h
    exact ⟨k, f, t, w, rfl, hw, hp⟩
  | _ => cases h
/-- One word, a pair of words, PMRD and a word with no second word. -/
theorem witness_StepRunsDecodedInstruction :
    (let s := { demoNext 0 with agenda := [.plimitExceeded] }; s.boot.up = true ∧ s.agenda = .plimitExceeded :: []) ∧
    (∀ x ∈ [(0x28000A0688000001, some (Instr.iadd ⟨⟨true, 2⟩, true⟩ (.v 5) (.v 3) (.s 4) false false)),
        (0xC0000000123456789C00929310000000, some (.iadd hdr (.s 9) (.s 9) (.lit 0x12345678) false false)),
        (0x1FC0A5C200000000, some (.pmrd hdr 18 (.iconst 33))), (0x9C00929310000000, none)],
      (demoNext x.1).boot.up = true ∧ (demoNext x.1).agenda = [] ∧ (demoNext x.1).clock % 2 = 1 ∧
      ∃ k f t w, (demoNext x.1).nextIssue = .issue k f t ∧ Tab.get? t.waves k = some w ∧ (decode f.w f.w2 == x.2) = true) ∧
    (demoWave.ahead = [] ∧ canonical 0x1000 = true ∧ (let s := demoNext 0x28000A0688000001; let g := s.agentOf 0 demoWave 5;
      s.loopWord (spOf 0) g 0x1000 = none ∧ ∃ t, s.xlate g (vaOf 0x1000) false = (.at ⟨.host, 0x4000⟩, t) ∧
        Tab.get? t.icache (icKey (coreOf 0) ⟨.host, 0x4000⟩) = none ∧
        wordTag (BitVec.ofNat 64 (leNat (t.readBytes ⟨.host, 0x4000⟩ 8))) ≠ 2)) := by
  refine ⟨⟨rfl, rfl⟩, fun x hx => ?_, rfl, rfl, by decide +kernel, _, rfl, by decide +kernel, by decide +kernel⟩
  fin_cases hx <;> exact ⟨rfl, rfl, rfl, okIssue_spec (p := fun d => d == _) (by decide +kernel)⟩

/-- A wave that speculates is about to fetch KVAPP, which stalls there. -/
def demoStall : State :=
  { demoNext 0x1F208A91E0980000 with cgs := [(3, cgOpen .collect)] }.modWave 0 (fun w =>
    { w with spec := some demoSpec0, member := some ⟨3, 1, none⟩, sent := true, round := 1 })
def okStall : Next → Bool
  | .issue k f t => (match Tab.get? t.waves k, decode f.w f.w2 with
    | some w, some i => t.onlyStalls k w i
    | _, _ => false)
  | _ => false
theorem okStall_spec {x : Next} (h : okStall x = true) :
    ∃ k f t w i, x = .issue k f t ∧ Tab.get? t.waves k = some w ∧ decode f.w f.w2 = some i ∧ t.onlyStalls k w i = true := by
  cases x with
  | issue k f t =>
    simp only [okStall] at h
    split at h
    · exact ⟨k, f, t, _, _, rfl, ‹_›, ‹_›, h⟩
    · cases h
  | _ => cases h
theorem witness_StepRunsDecodedInstruction_stall :
    demoStall.boot.up = true ∧ demoStall.agenda = [] ∧ demoStall.clock % 2 = 1 ∧
    ∃ k f t w i, demoStall.nextIssue = .issue k f t ∧ Tab.get? t.waves k = some w ∧ decode f.w f.w2 = some i ∧
      t.onlyStalls k w i = true :=
  ⟨rfl, rfl, rfl, okStall_spec (by decide +kernel)⟩

/-! ## Commands -/

/-- A command for virtual device 1 with those values at those bits. -/
def cmd (l : List (Nat × Nat)) : BitVec 512 := BitVec.ofNat 512 (l.foldl (fun n e => n + e.2 * 2 ^ e.1) (2 ^ 16))
/-- A virtual device in a state, with room for 100 frames. -/
def vdC (st : VdState) : VDev := { vdF with st := st, quota := 100 }
/-- The scene with it, a session of the host, one key in use, a fabric group and two consensus groups. -/
def demoCm (st : VdState) : State :=
  { demoHome with
    vds := [(1, vdC st)], keys := [(1, 7)], fgs := [(64, { fg0 with members := [(0, 0, 1)] })], cgs := [(3, cg)]
    boot := { demoHome.boot with session := some 5 } }
/-- The parameters at the ends of their ranges. -/
def cmdParams : BitVec 512 :=
  cmd [(128, 1), (136, 10), (144, 1), (160, 640), (192, 2 ^ 25 - 1), (224, 0xFFFF), (256, 4095), (320, 64)]
/-- A memory command on one frame. -/
def cmdMem (f : Nat) : BitVec 512 := cmd [(128, f), (192, 1)]
/-- A wrapped key of any content. -/
def cmdKey : BitVec 512 := cmd [(72, 63), (80, 63), (128, 2 ^ 320 - 1)]

/-- The session's secret unwraps what it has wrapped: `Config.unwrap` is left open, so this is the premise. -/
theorem unwraps (st : VdState) (c : BitVec 512) (k : BitVec 256) (h : Config.unwrap (Config.hkdf (5 : BitVec 384) kwrapInfo) (cmdBytes c 16 40) = some k) :
    (demoCm st).unwrapped c = .inr k := by
  have hs : (demoCm st).boot.session = some 5 := rfl
  simp only [State.unwrapped, hs, h]

/-- One of three frames is free of the bounce buffers, wherever they stand. -/
theorem freeFrame : ∃ f, f ∈ [2, 2000, 4000] ∧ (demoCm .ready).framesThere f 1 = true := by
  have key : ∀ f, f + 1 ≤ 0x100000 → (∀ d, d < 2 → f + 1 ≤ Config.bounceFrame d ∨ Config.bounceFrame d + 1024 ≤ f) →
      (demoCm .ready).framesThere f 1 = true := by
    intro f hf h
    have h0 := h 0 (by omega)
    have h1 := h 1 (by omega)
    have hs : (demoCm .ready).boot.stk = 0xFF := by decide
    have hl : (demoCm .ready).boot.lp = true := by decide
    simp only [State.framesThere, State.framesPresent, hs, hl, List.range, List.range.loop, List.all_cons, List.all_nil, Bool.and_eq_true, Bool.or_eq_true,
      decide_eq_true_eq, Bool.true_or, and_true]
    refine ⟨⟨by omega, ?_⟩, h0, h1⟩
    refine ⟨?_, ?_, ?_, ?_, ?_, ?_, ?_, ?_⟩ <;> exact .inl (.inl (by decide))
  by_cases a : ∀ d, d < 2 → 2 + 1 ≤ Config.bounceFrame d ∨ Config.bounceFrame d + 1024 ≤ 2
  · exact ⟨2, by simp, key 2 (by omega) a⟩
  by_cases b : ∀ d, d < 2 → 2000 + 1 ≤ Config.bounceFrame d ∨ Config.bounceFrame d + 1024 ≤ 2000
  · exact ⟨2000, by simp, key 2000 (by omega) b⟩
  refine ⟨4000, by simp, key 4000 (by omega) (fun d hd => ?_)⟩
  by_contra hc
  push Not at a b hc
  obtain ⟨x, hx, ha⟩ := a
  obtain ⟨y, hy, hb⟩ := b
  have : x = y ∨ x = d ∨ y = d := by omega
  rcases this with rfl | rfl | rfl <;> omega

set_option maxRecDepth 20000 in
theorem witness_ConfigurationCommands :
    cmdVd (0 : BitVec 512) = 0 ∧
    (let s := demoCm .running; let v := vdC .running
     Tab.get? s.vds (cmdVd (cmd [])) = some v ∧ v.st ≠ .free ∧ v.tdi ≠ .locked ∧ v.tdi ≠ .run ∧
      (zeroOk cmdParams (cfgBits ++ pbBits) = true ∧ ∃ v', v.withParams cmdParams = some v' ∧
        (s.framesOf 1).length ≤ v'.quota ∧ s.minspOthers 1 + v'.minsp ≤ s.populatedSps) ∧
      (let c := cmd [(72, 63), (128, 2 ^ 20 - 1), (160, 15), (168, 7), (192, 0x8000), (256, 0x9000), (320, 65536)]
       zeroOk c (cfgBits ++ [(128, 32), (160, 11), (192, 160)]) = true ∧ cmdCtx c = 63 ∧ cmdField c 16 4 = 2 ^ 20 - 1 ∧
        cmdField c 20 1 = 15 ∧ pow2In (cmdField c 40 4) 16 65536 = true ∧ s.ctxRuns 1 63 = false) ∧
      (let c := cmd [(72, 63), (128, 2 ^ 128 - 1)]
       zeroOk c (cfgBits ++ [(128, 128)]) = true ∧ cmdCtx c = 63) ∧
      (let c := cmd [(72, 63), (80, 63), (128, 0x8000), (192, 4096), (224, 3)]
       zeroOk c (cfgBits ++ [(128, 96), (224, 2)]) = true ∧ cmdField c 10 1 = 63 ∧ cmdField c 16 8 % 64 = 0 ∧
        pow2In (cmdField c 24 4) 2 4096 = true) ∧
      (zeroOk cmdKey (cfgBits ++ [(128, 320)]) = true ∧
        ∀ k, Config.unwrap (Config.hkdf (5 : BitVec 384) kwrapInfo) (cmdBytes cmdKey 16 40) = some k → s.unwrapped cmdKey = .inr k) ∧
      (∀ del, del = 0 ∨ del = 1 → let c := cmd [(128, 255), (144, 511), (160, del)]
        zeroOk c (cfgBits ++ [(128, 33)]) = true ∧ cmdField c 18 2 = 511 ∧ cmdField c 17 1 = 0 ∧ cmdBits c 160 1 = del) ∧
      (let c := cmd [(128, 1024), (144, 0), (160, 1024), (176, 0), (192, 16)]
       zeroOk c (cfgBits ++ [(128, 80)]) = true ∧
        (∀ x ∈ [cmdField c 16 2, cmdField c 18 2, cmdField c 20 2, cmdField c 22 2, cmdField c 24 2], x ≤ 1024) ∧
        (s.modVd 1 (fun _ => { v with resv := [1024, 0, 1024, 0, 16] })).buffersFit = true) ∧
      (let e : BitVec 128 := BitVec.ofNat 128 (31 + 2 ^ 56 + 2 ^ 80); let c := cmd [(128, 1023), (192, e.toNat)]
       zeroOk c (cfgBits ++ [(128, 16), (192, 128)]) = true ∧ cmdField c 16 2 = 1023 ∧ BitVec.ofNat 128 (cmdField c 24 16) = e ∧
        slice e 5 51 = (0 : BitVec 51) ∧ (slice e 56 24 : BitVec 24) ≠ 0 ∧
        s.framesIn (slice e 80 48 : BitVec 48).toNat (slice e 56 24 : BitVec 24).toNat (fun x => fotOwner x == 1) =
          (slice e 56 24 : BitVec 24).toNat)) ∧
    (∃ f, f ∈ [2, 2000, 4000] ∧ (demoCm .ready).framesThere f 1 = true ∧ zeroOk (cmdMem f) [(128, 96)] = true ∧
      cmdField (cmdMem f) 16 8 = f ∧ cmdField (cmdMem f) 24 4 = 1 ∧
      (demoCm .ready).framesIn f 1 (fun e => fotOwner e != 0 || e.getLsbD 28) = 0 ∧
      ((demoCm .ready).framesOf 1).length + 1 ≤ (vdC .ready).quota) ∧
    (zeroOk (cmdMem 1) [(128, 96)] = true ∧ (demoCm .ready).framesIn 1 1 (fun e => fotOwner e == 1) = 1) ∧
    (let s := demoCm .creating; let c := cmd [(128, 2 ^ 320 - 1)]
     zeroOk c keyBits = true ∧ (∀ k, Config.unwrap (Config.hkdf (5 : BitVec 384) kwrapInfo) (cmdBytes c 16 40) = some k → s.unwrapped c = .inr k) ∧
      Tab.get? s.keys 2 = none ∧ (∀ j, j < 1 → (Tab.get? s.keys (j + 1)).isSome = true)) ∧
    (let s := demoCm .ready; let c := cmd [(136, 63), (152, 50), (160, 1000), (176, 1024)]
     zeroOk c fgBits = true ∧ cmdField c 17 1 = 63 ∧ cmdField c 19 1 = 50 ∧ cmdField c 20 2 = 1000 ∧ cmdField c 22 2 = 1024 ∧
      Tab.get? s.fgs (64 + 63) = none ∧ ({ s with fgs := Tab.put s.fgs (64 + 63) ⟨[], 50, 1000, 1024, []⟩ } : State).buffersFit = true ∧
      Tab.get? s.fgs 64 ≠ none ∧ zeroOk (cmd []) fgBits = true) ∧
    (let s := demoCm .ready; let c := cmd [(136, 63), (152, 5), (160, 1023), (176, 1023), (192, 10000), (224, 63)]
     zeroOk c cgBits = true ∧ cmdField c 17 1 = 63 ∧ cmdField c 19 1 = 5 ∧ cmdField c 20 2 = 1023 ∧ cmdField c 22 2 = 1023 ∧
      cmdField c 24 4 = 10000 ∧ cmdField c 28 1 = 63 ∧ Tab.get? s.cgs 63 = none ∧
      zeroOk (cmd [(136, 3)]) cgBits = true ∧ Tab.get? s.cgs 3 = some cg ∧ cg.owner = 1 ∧ cg.deleted = false) ∧
    (let s := demoCm .ready; let c := cmd [(144, 2), (152, 5), (160, 511)]; let d := cmd [(128, 1), (136, 3), (152, 5), (160, 511)]
     zeroOk c [(128, 48)] = true ∧ cmdField c 16 1 = 0 ∧ cmdField c 19 1 ∈ (vdC .ready).members ∧ cmdField c 20 2 ≤ 511 ∧
      zeroOk d [(128, 48)] = true ∧ cmdField d 16 1 = 1 ∧ cmdField d 17 1 = 3 ∧
      ∃ x, Tab.get? s.fgs 64 = some x ∧ ∀ e ∈ x.members, e.1 ≠ cmdField c 18 1 ∧ e.2.1 ≠ cmdField c 19 1) ∧
    (let c := cmd [(128, 6), (136, 63), (144, 511), (160, 63), (168, 3)]
     zeroOk c [(128, 42)] = true ∧ cmdField c 16 1 ≤ 6 ∧ cmdField c 17 1 ≤ 63 ∧ cmdField c 18 2 ≤ 511 ∧ cmdField c 20 1 ≤ 63) ∧
    (zeroOk (cmd [(128, 0xFFFF)]) [(128, 17)] = true ∧ zeroOk (cmd [(128, 0x6000)]) [(128, 64)] = true ∧
      ∀ r ∈ (demoCm .ready).mgmt.runs, r.cmd ≠ cmd [(128, 0x6000)]) := by
  refine ⟨by decide, ⟨rfl, by decide, by decide, by decide, ⟨by decide +kernel, _, rfl, by decide +kernel, by decide +kernel⟩, by decide +kernel,
      by decide +kernel, by decide +kernel, ⟨by decide +kernel, fun k => unwraps _ _ k⟩, ?_, by decide +kernel, by decide +kernel⟩, ?_, by decide +kernel,
    ⟨by decide +kernel, fun k => unwraps _ _ k, by decide +kernel, by decide +kernel⟩, by decide +kernel, by decide +kernel, ?_, by decide +kernel, by decide +kernel⟩
  · rintro del (rfl | rfl) <;> decide +kernel
  · obtain ⟨f, hf, h⟩ := freeFrame
    refine ⟨f, hf, h, ?_⟩
    fin_cases hf <;> decide +kernel
  · exact ⟨by decide +kernel, by decide +kernel, by decide +kernel, by decide +kernel, by decide +kernel, by decide +kernel,
      by decide +kernel, _, rfl, by decide +kernel⟩

/-! ## The life of a virtual device -/

/-- A virtual device with keys, its watchdog at one, its dirty log on. -/
def vdL (st : VdState) : VDev := { vdC st with mkey := 1, fkey := 1, wdog := 1, dlog := true, resv := [16, 16, 16, 16, 32] }
/-- The scene with it, long after its last progress. -/
def demoLf (f : VDev → VDev) (st : VdState) : State := { demoHome with vds := [(1, f (vdL st))], clock := 1300000 }
/-- The same, with no workgroup. -/
def demoLn (st : VdState) : State := { demoLf id st with wgs := [], waves := [] }

theorem cellsGet_split (m : List Host.Cell) (a n k : Nat) : cellsGet m a (n + k) = cellsGet m a n ++ cellsGet m (a + n) k := by
  induction n generalizing a with
  | zero => simp [cellsGet]
  | succ n ih =>
    rw [Nat.succ_add]
    simp only [cellsGet, List.cons_append, ih]
    rw [show a + 1 + n = a + (n + 1) by omega]

/-- The scene with a counter record of zeros at 0x8000 under its own tag. -/
def demoIm : State :=
  let s := demoLn .ready
  { s with host := cellsSet s.host 0x8210 (leBytes (s.recordTag 1 (cellsGet s.host 0x8000 528)).toNat 16) }
/-- The record's tag is the tag of its content. -/
theorem demoIm_tag :
    demoIm.recordTag 1 ((cellsGet demoIm.host 0x8000 544).take 528) =
      BitVec.ofNat 128 (leNat ((cellsGet demoIm.host 0x8000 544).drop 528)) := by
  have head : cellsGet demoIm.host 0x8000 528 = cellsGet (demoLn .ready).host 0x8000 528 :=
    cellsGet_cellsSet_outside _ (.inl (by norm_num))
  have tail : cellsGet demoIm.host 0x8210 16 = leBytes ((demoLn .ready).recordTag 1 (cellsGet (demoLn .ready).host 0x8000 528)).toNat 16 := by
    have h := cellsGet_cellsSet (demoLn .ready).host 0x8210
      (leBytes ((demoLn .ready).recordTag 1 (cellsGet (demoLn .ready).host 0x8000 528)).toNat 16)
    rwa [leBytes_length] at h
  have same : ∀ l, demoIm.recordTag 1 l = (demoLn .ready).recordTag 1 l := fun _ => rfl
  rw [show (544 : Nat) = 528 + 16 from rfl, cellsGet_split, List.take_left' (cellsGet_length ..), List.drop_left' (cellsGet_length ..),
    show (0x8000 + 528 : Nat) = 0x8210 from rfl, tail, head, same, leNat_leBytes]
  apply BitVec.eq_of_toNat_eq
  rw [BitVec.toNat_ofNat]
  have := ((demoLn .ready).recordTag 1 (cellsGet (demoLn .ready).host 0x8000 528)).isLt
  omega

/-- The same with a configured queue that a stop has halted. -/
def demoLq : State := { demoLf id .ready with queues := [(queueKey 1 0 0, { queue0 with halt := .stopped, on := false })] }

set_option maxRecDepth 20000 in
theorem witness_LifeOfAVirtualDevice :
    (let s := demo; let c := cmdParams - 2 ^ 16 + BitVec.ofNat 512 (511 * 2 ^ 16)
     cmdVd c = 511 ∧ zeroOk c pbBits = true ∧ (Tab.getD s.vds 511 VDev.free).st = .free ∧
      ∃ v', VDev.withParams { VDev.free with
        st := .creating, inc := (Tab.getD s.vds 511 VDev.free).inc, tdi := (Tab.getD s.vds 511 VDev.free).tdi } c = some v' ∧
        ({ s with vds := Tab.put s.vds (cmdVd c) v' } : State).buffersFit = true ∧ s.minspOthers 511 + v'.minsp ≤ s.populatedSps) ∧
    (let s := demoLq; Tab.get? s.vds (cmdVd (cmd [(128, 1)])) = some (vdL .ready) ∧ (s.ctx? 1 0).map Context.enable = some true ∧
      Tab.get? s.queues (queueKey 1 0 0) = some { queue0 with halt := .stopped, on := false }) ∧
    (∀ st, st = .ready ∨ st = .running → let s := demoLf id st; let v := vdL st; let c := cmd [(128, 1)]
      Tab.get? s.vds (cmdVd c) = some v ∧ v.st = st ∧ v.tdi ≠ .locked ∧ v.tdi ≠ .run ∧ zeroOk c [(128, 64)] = true ∧ v.mkey ≠ 0 ∧
      v.fpart = 0 ∧ v.fstep = 0 ∧ s.minspOthers 1 + v.minsp ≤ s.populatedSps ∧
      (∃ k, s.ctx? 1 0 = some k ∧ k.enable = true ∧ ∀ e ∈ s.ctxs, e.2.saved = .no) ∧ inMask c 0 = true ∧ s.contextWgs 1 0 ≠ [] ∧
      (demoLn st).contextWgs 1 0 = [] ∧ Tab.get? (demoLn st).vds 1 = some v ∧ ((demoLn st).ctx? 1 0).isSome = true ∧
      zeroOk (cmd []) [] = true ∧ v.dlog = true ∧ zeroOk (cmd [(128, 0xFFFFFFFF)]) [(128, 32)] = true) ∧
    (Tab.get? (demoLf id .creating).vds 1 = some (vdL .creating) ∧ (vdL .creating).st = .creating) ∧
    (∀ l, l = 6 ∨ l = 24 → zeroOk (cmd [(128, 0x8000), (192, l)]) migBits = true ∧ cmdField (cmd [(128, 0x8000), (192, l)]) 25 1 = 0 ∧
      cmdField (cmd [(128, 0x8000), (192, l)]) 24 1 = l) ∧
    (zeroOk (cmd [(128, 0x8000), (200, 1)]) migBits = true ∧ cmdField (cmd [(128, 0x8000), (200, 1)]) 25 1 = 1) ∧
    (let s := demoIm; let c := cmd [(64, 2), (128, 0x8000)]
     Tab.get? s.vds (cmdVd c) = some (vdL .ready) ∧ zeroOk c commitBits = true ∧ cmdField c 16 8 = 0x8000 ∧
      s.recordTag 1 ((cellsGet s.host 0x8000 544).take 528) = BitVec.ofNat 128 (leNat ((cellsGet s.host 0x8000 544).drop 528)) ∧
      (s.ctx? 1 0).isSome = true) ∧
    (let s := demoLf id .running; let v := vdL .running
     Tab.get? s.vds 1 = some v ∧ v.st = .running ∧ v.wdog ≠ 0 ∧ s.hasWork 1 = true ∧ v.progress + 1300000 * v.wdog ≤ s.clock ∧
      fotOwner (s.fotOf (0x1FFFF / 65536)) = 1) ∧
    (∀ st, st = .killing ∨ st = .draining ∨ st = .scrubbing ∨ st = .resetting → ∀ b : Bool,
      let f (v : VDev) : VDev := { v with scrubk := b, killFor := if b then some .destroy else some .kill }
      Tab.get? (demoLf f st).vds 1 = some (f (vdL st)) ∧ (f (vdL st)).st = st ∧ (f (vdL st)).racks = [] ∧
      (((f (vdL st)).scrubk = true ∨ (f (vdL st)).killFor = some .destroy) ↔ b = true)) ∧
    (0x13FFFFFFFFF / 65536 < 0x1400000) := by
  refine ⟨⟨by decide +kernel, by decide +kernel, by decide +kernel, _, rfl, by decide +kernel, by decide +kernel⟩, ⟨rfl, rfl, rfl⟩, ?_, ⟨rfl, rfl⟩, ?_, by decide +kernel,
    ⟨rfl, by decide +kernel, by decide +kernel, demoIm_tag, rfl⟩, by decide +kernel, ?_, by norm_num⟩
  · rintro st (rfl | rfl) <;>
      exact ⟨rfl, rfl, by decide, by decide, by decide +kernel, by decide, rfl, rfl, by decide +kernel, ⟨_, rfl, rfl, by decide +kernel⟩,
        by decide +kernel, by decide +kernel, rfl, rfl, rfl, by decide +kernel, rfl, by decide +kernel⟩
  · rintro l (rfl | rfl) <;> decide +kernel
  · rintro st (rfl | rfl | rfl | rfl) b <;> cases b <;> exact ⟨rfl, rfl, rfl, by decide⟩

/-! ## The world around the device -/

/-- The scene with those entries of frames 1 to 3: unlocked, locked by the device, locked by the host. -/
def demoFr : State := { demo with fot := [(1, 1), (2, 0x40000001), (3, 0x60000001)] }
theorem witness_PlatformEvents :
    ((demo.ctx? 1 0).isSome = true ∧ demo.contextBusy 1 0 0x1000 4096 = false ∧
      (let s := demoOut (.card ⟨0, 0⟩) 0; (s.ctx? 1 0).isSome = true ∧ s.contextBusy 1 0 0x1000 4096 = true)) ∧
    (∀ host : Bool,
      ((demoFr.fotOf 1).getLsbD 30 = false ∧ demoFr.heldOff 1 host = false) ∧
      (let s := { demoFr with holdoff := [(2, 2), (3, 2)] }; (s.fotOf 1).getLsbD 30 = false ∧ s.heldOff 1 host = true) ∧
      ((demoFr.fotOf 2).getLsbD 30 = true ∧ (demoFr.fotOf 2).getLsbD 29 = false) ∧
      ((demoFr.fotOf 3).getLsbD 30 = true ∧ (demoFr.fotOf 3).getLsbD 29 = true)) ∧
    demo.sweepNext (sweepRegion 0) = some (0, 0) ∧
    (let s := demo.modVd 1 (fun v => { v with pcap := 1, power := 2 }); ∃ v, Tab.get? s.vds 1 = some v ∧ v.pcap ≠ 0 ∧ v.pcap < v.power) := by
  refine ⟨⟨rfl, by decide +kernel, rfl, by decide +kernel⟩, fun host => ?_, by decide +kernel, _, rfl, by decide, by decide⟩
  cases host <;> decide +kernel

/-- The scene with queue 63 of context 0 of two records, an open page fault, and a virtual device in a TDI state. -/
def demoHo (t : Tdi) : State :=
  { demoHome with
    vds := [(1, { vdF with tdi := t })], queues := [(queueKey 1 0 63, { queue0 with size := 2, tail := 0, active := false })] }.modCtx 1 0
    (fun c => { c with faults := [⟨0x2000, 0, 0, true, false, false, 1, 0, true⟩] })
/-- The same queue halted. -/
def demoHalt : State :=
  { demoHome with queues := [(queueKey 1 0 63, { queue0 with size := 2, tail := 0, active := false, halt := .recbad })] }
set_option maxRecDepth 20000 in
theorem witness_HostEvents :
    (let s := demoHo .unlocked; let v := { vdF with tdi := .unlocked }; let k := queueKey 1 0 63
     Tab.get? s.vds 1 = some v ∧ s.vfTakes 1 = true ∧ v.st.dying = false ∧
      (∃ x, Tab.get? s.queues k = some x ∧ x.on = true ∧ x.halt = .none ∧
        (∀ val : BitVec 64, val = 0 ∨ val = 2 → ((slice val 0 32 : BitVec 32) - x.head).toNat ≤ x.size) ∧
        (∀ val : BitVec 64, val = 3 ∨ val = 0xFFFFFFFF → x.size < ((slice val 0 32 : BitVec 32) - x.head).toNat)) ∧
      (∃ c, s.ctx? 1 0 = some c ∧ ∀ r : BitVec 64, r = 0 ∨ r = 1 →
        (slice (0x2000 + r) 0 2 : BitVec 2).toNat ≤ 1 ∧
          ∃ f ∈ c.faults, f.va / 4096 = (slice (0x2000 + r) 12 45 : BitVec 45).toNat ∧ f.src ≠ 7 ∧ f.posted = true) ∧
      s.dir = [] ∧ 65536 + 8 ≤ 2 ^ s.bar4Log 1 ∧ (s.framesOf 1)[65535 / 65536]? = some 1 ∧ (s.framesOf 1)[65536 / 65536]? = none) ∧
    (demoHo .unlocked).boot.up = true ∧
    (fotOwner ((demoHo .unlocked).fotOf (0x1FFFF / 65536)) ≠ 0 ∧ fotOwner ((demoHo .unlocked).fotOf (0x20000 / 65536)) = 0) ∧
    (demoHo .unlocked).mgmt.head = (demoHo .unlocked).mgmt.tail ∧ (demoHo .unlocked).boot.supplied = true ∧
    (∃ x, Tab.get? demoHalt.queues (queueKey 1 0 63) = some x ∧ x.on = true ∧ x.halt ≠ .none ∧
      ((slice (2 : BitVec 64) 0 32 : BitVec 32) - x.head).toNat ≤ x.size ∧ Tab.get? demoHalt.vds 1 = some vdF ∧ demoHalt.vfTakes 1 = true) ∧
    ((demoHo .unlocked).vds.any (fun e => e.2.st == .ready || e.2.st == .running || e.2.st.dying) = true ∧
      State.reset.vds.any (fun e => e.2.st == .ready || e.2.st == .running || e.2.st.dying) = false ∧ State.reset.boot.supplied = true ∧
      (demoCm .ready).boot.session ≠ none ∧ demo.boot.session = none) ∧
    (∀ t, t = .unlocked ∨ t = .locked → Tab.get? (demoHo t).vds 1 = some { vdF with tdi := t } ∧ vdF.st ≠ .free) := by
  refine ⟨⟨rfl, rfl, rfl, ⟨_, rfl, rfl, rfl, ?_, ?_⟩, ⟨_, rfl, ?_⟩, rfl, by decide +kernel, by decide +kernel, by decide +kernel⟩, rfl, by decide +kernel, rfl, rfl, ⟨_, rfl, rfl, by decide, by decide, rfl, rfl⟩,
    ⟨rfl, rfl, rfl, by decide, rfl⟩, ?_⟩
  · rintro val (rfl | rfl) <;> decide +kernel
  · rintro val (rfl | rfl) <;> decide +kernel
  · rintro r (rfl | rfl) <;> exact ⟨by decide, _, List.mem_singleton.2 rfl, by decide, by decide, rfl⟩
  · rintro t (rfl | rfl) <;> exact ⟨rfl, by decide⟩

/-! ## The work of the engines -/

/-- What EngineWork asks of a running card before its kind is looked at. -/
def WorkWit (s : State) (e : Engine) : Prop :=
  ∃ g c q, s.running e = some (⟨0, 0⟩, g, c, q) ∧ s.stops ⟨0, 0⟩ c q = false ∧ cCm c.bytes ≠ 2 ∧ c.code = 0 ∧ q.done = false ∧
    ∀ x ∈ s.engines, ∀ z, x.2.run = some z → z.card = ⟨0, 0⟩ → z = q
def okWork (s : State) (e : Engine) : Bool := match s.running e with
  | some (r, _, c, q) => r == ⟨0, 0⟩ && !s.stops ⟨0, 0⟩ c q && cCm c.bytes != 2 && c.code == 0 && !q.done &&
      s.engines.all (fun x => x.2.run.all (fun z => z == q))
  | none => false
theorem workWit {s : State} {e : Engine} (h : okWork s e = true) : WorkWit s e := by
  unfold okWork at h
  split at h
  · rename_i r g c q hr
    simp only [Bool.and_eq_true, beq_iff_eq, bne_iff_ne, Bool.not_eq_true', List.all_eq_true] at h
    obtain ⟨⟨⟨⟨⟨rfl, h1⟩, h2⟩, h3⟩, h4⟩, h5⟩ := h
    refine ⟨g, c, q, hr, h1, h2, h3, h4, fun x hx z hz _ => ?_⟩
    have := h5 x hx
    rw [hz] at this
    simpa using this
  · cases h
/-- The card that runs on an engine of the scene. -/
def cardOf (s : State) (e : Engine) : Card := ((s.running e).map (fun x => x.2.2.1)).getD (cardIn 0 .running)
/-- A copy, a fill and a generating copy of 16 bytes of the scratchpad, whose descriptor has been read. -/
def demoCopyAt (kind prog : Nat) : State :=
  let s := if kind = 3 then demoD 0 0 0 else demoD 0xD00 2 0
  let d := if kind = 3 then descOf 0 0 0 else descOf 0xD00 2 0
  runOn s (.copy 0 0) (runCard (.copy 0 0) (copyCard s kind d)) (fun q =>
    { q with desc := if kind = 3 then descBytes 0 0 0 else descBytes 0xD00 2 0, prog := prog })
/-- Multiplications into tile 0 of a half: fresh, and on top of an integer tile. -/
def mmaCard (x : Word) : List Byte := let f := engFront (demoE blkMma) x 0x10 10 true; f ++ (mmaFoot f (FWord.of x)).flatMap Range.bytes
def demoMma (x : Word) (int : Bool) : State :=
  runOn { demoE blkMma with accInt := if int then [(tileKey 0 0 0, true)] else [] } (.half 0 0) (runCard (.half 0 0) (mmaCard x)) id
/-- Zeroing, loading and converting a tile. -/
def accCardOf (x : Word) (op : Nat) : List Byte :=
  let f := engFront (demoE [0xC00, 128, 0x40 + op * 65536, 0]) x 0x11 4 true
  f ++ (accFoot f (FWord.of x)).flatMap Range.bytes
def demoJacc (x : Word) (op : Nat) (int : Bool) (q : Run → Run) : State :=
  runOn { demo with accInt := if int then [(tileKey 0 0 0, true)] else [] } (.half 0 0) (runCard (.half 0 0) (accCardOf x op)) q
def mvWork : State := mvOn demoMv mv2Bytes (fun c => { c with mv := some ⟨[], []⟩ })
/-- An attention card on a slot ring whose granules are empty, or full. -/
def demoAttn (full : Bool) : State :=
  let s := demoE blkRing
  let s := if full then (List.range 64).foldl (fun s i => s.setFe (granuleOf (wg0 demo) (0xC00 + 16 * i)) true) s else s
  runOn s (.attn 0) (runCard (.attn 0) ringBytes) (fun q => { q with attn := some ⟨List.replicate 1 (AttnRow.init 32), 0, none⟩ })
/-- A gather and a reduction: block 1 of a ring of two has landed in slot 1, or block 1 of three, before the last step. -/
def rotBytes (x : Word) (ws : List Nat) : List Byte := let f := engFront (demoE ws) x 0x20 8 false; f ++ (rotFoot (RotDesc.of f)).flatMap Range.bytes
def demoGot (x : Word) (ws : List Nat) (g : Nat) : State :=
  { demoHome with
    clock := 1300000, fgs := [(64, fg0)]
    engines := [(Engine.key (.rot 0), ⟨[], some ⟨⟨0, 0⟩, 0, false, [], [], none, none,
      some ⟨0, g, [⟨.free, [], [], false⟩, ⟨.held 1, [0], [], false⟩], 0, 0, [], [], 0⟩⟩, none, 0⟩)] }.modWg 0
    (fun h => { h with cards := [{ rotCard with bytes := rotBytes x ws }] })
def gatherWs : List Nat := [0x4A010080, 1, 0xC00, 0xF00, 0xE00, 0, 0xA00, 0]
def reduceWs (nstep : Nat) : List Nat := [0x8A000080 + nstep * 65536, 1, 0xC00, 0xF00, 0xE00, 0, 0xA00, 0]
/-- Within one unit of the scratchpad, an offset is found from its place. -/
theorem scratchAddr_inj {g : Workgroup} {x y : Nat} (hx : x < 4096) (hy : y < 4096) (h : scratchAddr g x = scratchAddr g y) : x = y := by
  simp only [scratchAddr, scratchByte, Nat.div_eq_of_lt hx, Nat.div_eq_of_lt hy] at h
  have hl : x % 128 = y % 128 := by omega
  have hb : x / 128 % 8 = y / 128 % 8 := by omega
  have hr : x / 1024 = y / 1024 := by omega
  omega
/-- Two pieces of that unit that share no byte. -/
theorem apart (g : Workgroup) {a b : Nat} (ha : a + 256 ≤ 4096) (hb : b + 256 ≤ 4096) (h : a + 256 ≤ b ∨ b + 256 ≤ a) :
    ∀ m n, m < 256 → n < 256 → scratchAddr g (a + m) ≠ scratchAddr g (b + n) := by
  intro m n hm hn he
  have := scratchAddr_inj (by omega) (by omega) he
  omega

set_option maxRecDepth 20000 in
/-- A copy whose elements are done, and copies and a fill of one granule. -/
theorem witness_EngineWork_copy :
    (WorkWit (demoCopyAt 1 16) (.copy 0 0) ∧ (CopyDesc.of (descBytes 0xD00 2 0)).total ≤ 16) ∧
    (∀ k ∈ [1, 2, 3], let s := demoCopyAt k 0; let c := cardOf s (.copy 0 0)
      let d := CopyDesc.of (if k = 3 then descBytes 0 0 0 else descBytes 0xD00 2 0)
      let prog := if k = 2 then microOps (c.bytes.drop 32) else []
      WorkWit s (.copy 0 0) ∧ c.kind = k ∧ s.cardBusy ⟨0, 0⟩ = false ∧ 0 < d.total ∧ (d.ssp = 2 ∨ k = 3) ∧ d.dsp = 2 ∧
        ((List.range d.total).takeWhile (fun e => (d.target e).map (fun y => y / 32) == (d.target 0).map (fun y => y / 32))).length ≤ 33 ∧
        ∀ n ∈ List.range d.total, (match d.target n with
          | some y => decide (0 ≤ y) && decide (y < 2 ^ 64) && c.covers 2 (y / 2).toNat d.ebytes true
          | none => false) = true ∧
          (match d.source k prog n with
          | .place x => decide (0 ≤ x) && decide (x < 2 ^ 64) && c.covers 2 (x / 2).toNat d.ebytes false
          | .fill => true
          | .negative => false) = true) := by
  refine ⟨⟨workWit (by decide +kernel), by decide +kernel⟩, fun k hk => ?_⟩
  fin_cases hk <;> exact ⟨workWit (by decide +kernel), by decide +kernel, by decide +kernel, by decide +kernel, by decide, by decide +kernel,
    by decide +kernel, by decide +kernel⟩

set_option maxRecDepth 20000 in
/-- A multiplication that adds to a tile of another type, and one that runs. -/
theorem witness_EngineWork_mma :
    (let s := demoMma 0x1000104 true
     WorkWit s (.half 0 0) ∧ (cardOf s (.half 0 0)).kind = 0x10 ∧ (FWord.of 0x1000104).acc = true ∧
      s.tagAt (tileKey 0 0 0) ≠ fmtInt (FWord.of 0x1000104).afmt) ∧
    (let s := demoMma 0x104 false; let c := cardOf s (.half 0 0); let f := FWord.of 0x104; let d := MmaDesc.of c.bytes
     WorkWit s (.half 0 0) ∧ c.kind = 0x10 ∧ f.acc = false ∧ List.range (d.mt / 16) = [0] ∧
      c.allows [tileRange d.slot d.t 1 true] = true ∧
      ∃ a b, matSide f false d = some a ∧ matSide f true d = some b ∧
        (∀ i ∈ List.range 16, c.allows (a.reach (fmtBytes f.afmt d.k) (blocksOf d.k) i) = true) ∧
        ∀ j ∈ List.range 32, c.allows (b.reach (fmtBytes f.bfmt d.k) (blocksOf d.k) j) = true) :=
  ⟨⟨workWit (by decide +kernel), by decide +kernel, by decide, by decide +kernel⟩,
    ⟨workWit (by decide +kernel), by decide +kernel, by decide, by decide +kernel, by decide +kernel, _, _, rfl, rfl,
      by decide +kernel, by decide +kernel⟩⟩

set_option maxRecDepth 20000 in
/-- A tile zeroed, loaded and converted; one of another type; and an output granule to write. -/
theorem witness_EngineWork_acc :
    (∀ op ∈ [0, 1], let s := demoJacc 0x40104 op false id; let c := cardOf s (.half 0 0)
      WorkWit s (.half 0 0) ∧ c.kind = 0x11 ∧ accOp c.bytes = op ∧ bitsOf (cWord c.bytes 4) 6 6 = 1 ∧ bitsOf (cWord c.bytes 4) 0 6 = 0 ∧
        ∀ m ∈ List.range 16, c.allows [tileRange 0 (m / 16) 1 true, scratchRange (0xC00 + m * 128) (if op = 1 then 128 else 0) false] = true) ∧
    (let s := demoJacc 0x40104 2 true id; WorkWit s (.half 0 0) ∧ accOp (cardOf s (.half 0 0)).bytes = 2 ∧
      s.tagAt (tileKey 0 0 0) ≠ fmtInt (FWord.of 0x40104).afmt) ∧
    (let s := demoJacc 0x40104 2 false id; let c := cardOf s (.half 0 0)
     WorkWit s (.half 0 0) ∧ accOp c.bytes = 2 ∧ s.tagAt (tileKey 0 0 0) = fmtInt (FWord.of 0x40104).afmt ∧
      c.allows [tileRange 0 0 1 false, scratchRange 0 0 false] = true) ∧
    (let s := demoJacc 0x40104 2 false (fun q => { q with desc := [1], out := [(0xC00, List.replicate 16 7)] })
     WorkWit s (.half 0 0) ∧ (cardOf s (.half 0 0)).covers 2 0xC00 16 true = true) := by
  refine ⟨fun op hop => ?_, ⟨workWit (by decide +kernel), by decide +kernel, by decide +kernel⟩,
    ⟨workWit (by decide +kernel), by decide +kernel, by decide +kernel, by decide +kernel⟩, workWit (by decide +kernel), by decide +kernel⟩
  fin_cases hop <;> exact ⟨workWit (by decide +kernel), by decide +kernel, by decide +kernel, by decide +kernel, by decide +kernel, by decide +kernel⟩

set_option maxRecDepth 20000 in
/-- A chunk of JMV of one row and one column. -/
theorem witness_EngineWork_mv :
    let c := cardOf mvWork (.ismv 0)
    let d := MvDesc.of c.bytes
    WorkWit mvWork (.ismv 0) ∧ c.kind = 0x12 ∧ c.mv = some ⟨[], []⟩ ∧ c.atAdd = false ∧ (EFmt.ofCode 4 false).isSome = true ∧
      mvWord (FWord.of 0x540104) = true ∧ 32 * c.prog < d.n ∧ d.n = 1 ∧ d.b = 1 ∧ c.allows (mvReach (FWord.of 0x540104) d 0 0) = true :=
  ⟨workWit (by decide +kernel), by decide +kernel, rfl, rfl, rfl, by decide +kernel, by decide +kernel, by decide +kernel, by decide +kernel,
    by decide +kernel⟩

set_option maxRecDepth 20000 in
/-- An attention card whose granules are empty, and one whose sixteen tokens are there. -/
theorem witness_EngineWork_attn :
    (∀ b : Bool, WorkWit (demoAttn b) (.attn 0) ∧ (cardOf (demoAttn b) (.attn 0)).kind = 0x18 ∧ (wg0 demo).frozen = false) ∧
    (let d := AttnDesc.of ringBytes; d.ring = true ∧ 0 < d.d ∧ 0 < d.nblk * d.bt ∧ 16 % d.bt = 0 ∧ 16 ∣ d.rbase ∧ 16 ∣ d.bt ∧
      d.koff = 0 ∧ d.voff = 0 ∧ d.tpb = 64 ∧ d.d * attnBytes (FWord.of 0x540104).bfmt = 32 ∧
      (demoAttn false).feOf (granuleOf (wg0 demo) d.rbase) = false ∧
      ∀ j ∈ List.range 16, ∀ i ∈ List.range 32, (demoAttn true).feOf (granuleOf (wg0 demo) (d.rbase + j * 64 + i)) = true) := by
  refine ⟨fun b => ?_, by decide +kernel⟩
  cases b <;> exact ⟨workWit (by decide +kernel), by decide +kernel, rfl⟩

set_option maxRecDepth 20000 in
/-- A gathered piece, and reduced pieces before and at the last step. -/
theorem witness_EngineWork_rot :
    (∀ x ∈ [((0 : Word), gatherWs, 2), (0x40861, reduceWs 2, 3), (0x40861, reduceWs 1, 2)], let s := demoGot x.1 x.2.1 x.2.2; let c := cardOf s (.rot 0)
      WorkWit s (.rot 0) ∧ c.kind = 0x20 ∧ s.cardBusy ⟨0, 0⟩ = false ∧
        ((s.engine (.rot 0)).run.bind Run.rot).any (fun y => y.nextPiece (RotDesc.of c.bytes) == some (1, 0)) = true) ∧
    (let d := RotDesc.of (rotBytes 0 gatherWs); d.cons = 1 ∧ d.dsp = 2 ∧ d.rbase = 0xC00 ∧ d.blk = 256 ∧ d.dst = 0xA00) ∧
    (∀ n ∈ [1, 2], let d := RotDesc.of (rotBytes 0x40861 (reduceWs n))
      d.cons = 2 ∧ d.ssp = 2 ∧ d.dsp = 2 ∧ d.nstep = n ∧ d.src = 0xE00 ∧ d.dst = 0xA00 ∧ d.rbase = 0xC00 ∧ (FWord.of 0x40861).out = 1 ∧
        ∀ p ∈ List.range 16, (cardOf (demoGot 0x40861 (reduceWs n) (n + 1)) (.rot 0)).covers 2
          (0xE00 + (0 + (n + 1) * 256 - 1 - 1) % (n + 1) * 256 + 16 * p) 16 false = true) ∧
    ∀ x ∈ [(0xD00, 0xB00), (0xD00, 0xA00), (0xD00, 0xE00), (0xE00, 0xA00), (0xD00, 0xF00), (0xF00, 0xA00)],
      ∀ m n, m < 256 → n < 256 → scratchAddr (wg0 demo) (x.1 + m) ≠ scratchAddr (wg0 demo) (x.2 + n) := by
  refine ⟨fun x hx => ?_, by decide +kernel, fun n hn => ?_, fun x hx => ?_⟩
  · fin_cases hx <;> exact ⟨workWit (by decide +kernel), by decide +kernel, by decide +kernel, by decide +kernel⟩
  · fin_cases hn <;> decide +kernel
  · fin_cases hx <;> exact apart _ (by decide) (by decide) (by decide)

/-! ## The arithmetic of the engines, and starts -/

/-- A descriptor of two rows of four elements, of which three count. -/
def descLim (esz : Nat) : CopyDesc := ⟨0x100, 0x200, 2, 2, esz, 0, 0, 7, 0, 0, 64, true, [⟨4, 1, 1, 3⟩, ⟨2, 4, 4, 0⟩]⟩
def two : Machine.Num := .fin false 1 1
def big : Machine.Num := .fin true 3 40

/-- Each clause at a value that meets its hypotheses. -/
theorem witness_EngineArithmetic :
    ((∀ x ∈ [2, 3], 0 < x) ∧ 4 < [2, 3].foldl (· * ·) 1) ∧ ((-1 : Int) < 0 ∧ (11 : Int) = 2 * (5 : Nat) + (1 : Nat)) ∧
    ((descLim 0).esz = 0 ∧ 0 < (descLim 5).esz ∧ (descLim 5).esz ≤ 5 ∧
      (∃ p ∈ (tupleOf ((descLim 1).dims.map CopyDim.ext) 3).zip (descLim 1).dims, p.2.lim ≠ 0 ∧ p.2.lim ≤ p.1) ∧
      (¬∃ p ∈ (tupleOf ((descLim 1).dims.map CopyDim.ext) 2).zip (descLim 1).dims, p.2.lim ≠ 0 ∧ p.2.lim ≤ p.1) ∧
      ((Micro.mk 0 0 true).run [2, 0] [(5, 0, -1)]).a < 0 ∧
      (let m := (Micro.mk 0 0 true).run [2, 0] [(5, 0, 1)]; m.v ≠ false ∧ ¬m.a < 0 ∧ ¬2 * ((descLim 1).srclen : Int) < (descLim 1).nibbles * (m.a + 1))) ∧
    ((let p := [(two, .nan)].map (fun x : Machine.Num × Machine.Num => x.1.mul x.2); Machine.Num.nan ∈ p) ∧
      (let p := [(two, .inf false), (big, .inf false)].map (fun x : Machine.Num × Machine.Num => x.1.mul x.2); .inf false ∈ p ∧ .inf true ∈ p) ∧
      (let p := [(two, .inf false)].map (fun x : Machine.Num × Machine.Num => x.1.mul x.2); Machine.Num.inf false ∈ p ∧ .nan ∉ p ∧ .inf true ∉ p) ∧
      (let p := [(two, .zero true)].map (fun x : Machine.Num × Machine.Num => x.1.mul x.2); (∀ y ∈ p, y.isFin = true) ∧ ∀ y ∈ p, y.isZero = true) ∧
      (let p := [(two, big), (two, two)].map (fun x : Machine.Num × Machine.Num => x.1.mul x.2); (∀ y ∈ p, y.isFin = true) ∧ ∃ y ∈ p, y.isZero = false)) ∧
    (Fmt.acc.val 0x7FE000000000 = .nan ∧ Fmt.acc.val (511 * 2 ^ 38) = .inf false ∧ (Fmt.acc.val 0).isFin = true ∧ (Fmt.acc.val (2 ^ 38)).isFin = true) ∧
    (2 ^ 48 - 1 < 2 ^ 48 ∧ EFmt.ofCode 0x18 false = some (.int (.full 8 true)) ∧ EFmt.ofCode 0x1A false = some (.int (.full 4 true)) ∧
      EFmt.ofCode 0x20 false = some (.fl .f16)) ∧
    ((Machine.Num.inf true).isInf = true ∧ (Machine.Num.zero false).isZero = true) ∧
    (let r := AttnRow.init 32
     (AttnRow.poison 32).bad = true ∧ r.bad = false ∧ Fmt.f32.val r.m.toNat = .inf true ∧
      attnScore two (List.replicate 32 .nan) (List.replicate 32 two) 1 0 = .nan ∧
      (let x := attnScore two (List.replicate 32 two) (List.replicate 32 two) 1 0; x.isFin = true ∧ x.cmp (.inf true) = 1)) ∧
    ((FWord.of 0x40861).out = 1 ∧ (List.replicate 16 (0 : Byte)).length = 16) := by
  refine ⟨by decide, by decide, by decide +kernel, by decide +kernel, by decide +kernel, by decide, by decide, by decide +kernel, by decide⟩

/-- Nothing fails, and one test after another does. -/
def bt : BootTests := ⟨false, false, false, false, false, false, false, 0, 0, 0, false, false, 0, false, false, 0, 0, false⟩
def rec0 : BootRec := BootRec.of 0
/-- A record that lets a warm start skip. -/
def recWarm : BootRec := { rec0 with flags := 1, steps := (List.range 12).map (fun n => (n + 1, 1)) }
theorem witness_Starts :
    (let st (old : BootRec) (cold : Bool) (t : BootTests) (n : Nat) : Nat := (runStart old cold Boot.init t).r.stepOf n
     (runStart rec0 true Boot.init bt).ended = false ∧ st rec0 true bt 1 = 1 ∧ st rec0 true bt 2 = 1 ∧ st rec0 true bt 10 ≠ 0 ∧ st rec0 true bt 11 = 1 ∧
      rec0.flags.getLsbD 0 = false ∧ (recWarm.flags.getLsbD 0 = true ∧ ∀ n ∈ [3, 4, 5, 6, 7, 8, 9, 10], recWarm.stepOf n ∈ [1, 2, 4, 5]) ∧
      st recWarm false bt 2 = 1 ∧ rec0.link < 4 ∧ st { rec0 with fwSlot := 2 ^ 2 } true bt 2 = 2 ∧
      st { rec0 with fwSlot := 9, flags := 6, lpMode := 2, stkCons := 1 } true { bt with stkConsFail := 1, clFail := 2 ^ 20 + 5, portFail := 1 } 10 = 5) ∧
    (let c := { Boot.init with copyA := 0, copyB := 0 }; recordSeq c.record + 1 = recordSeq (runStart (BootRec.of c.record) true c bt).r.bits) := by
  refine ⟨by decide +kernel, by decide +kernel⟩

/-! ## WellFormed: an ill-formed term for each check -/

/-- Two forms of a job instruction's operands: a counter pair in s7, and the guard slot 9. -/
def oddCtr : JobOps := { job with ctr := some 7 }
def badGuard : JobOps := { job with g := 9 }

theorem test_illformed_operands :
    -- a wide destination or source in an odd register (R80), a vector source of a scalar form (R78), two literals (R82)
    Instr.wellFormed (.iaddw hdr (.v 1) (.v 2) (.v 4) false false) = false ∧
    Instr.wellFormed (.iaddw hdr (.v 2) (.v 3) (.v 4) false false) = false ∧
    Instr.wellFormed (.iadd hdr (.s 2) (.v 3) (.s 4) false false) = false ∧
    Instr.wellFormed (.iadd hdr (.v 2) (.lit 1) (.lit 2) false false) = false ∧
    Instr.wellFormed (.icmpw hdr 1 (.v 3) (.v 4) .eq false .set) = false ∧
    -- U = 1 with SAT = 0 (R108), U with SAT in IDIV
    Instr.wellFormed (.iadd hdr (.v 2) (.v 3) (.v 4) true false) = false ∧
    Instr.wellFormed (.idiv hdr (.v 2) (.v 3) (.v 4) true true false) = false := by decide

theorem test_illformed_lanes :
    -- a vector or a scalar destination where R122 has the other, a scalar source of SHFL's form, a floating pair reduction
    Instr.wellFormed (.ballot hdr (.v 1) 1 false) = false ∧ Instr.wellFormed (.ppopc hdr (.v 1) 1 false) = false ∧
    Instr.wellFormed (.mrank hdr (.s 1) 1 false) = false ∧ Instr.wellFormed (.shfl hdr (.s 1) (.s 2) (.s 3) .idx .seg32 false) = false ∧
    Instr.wellFormed (.rdlane hdr (.v 1) 2 (.s 3) false) = false ∧ Instr.wellFormed (.rdlane hdr (.s 2) 3 (.s 3) true) = false ∧
    Instr.wellFormed (.wrlane hdr (.v 1) (.v 2) (.s 3) false) = false ∧ Instr.wellFormed (.wrlane hdr (.v 1) (.s 2) (.v 3) false) = false ∧
    Instr.wellFormed (.wred hdr (.s 2) 2 .fadd true) = false ∧ Instr.wellFormed (.wred hdr (.s 2) 3 .add true) = false ∧
    Instr.wellFormed (.wscan hdr (.s 2) (.s 4) .add false false) = false ∧ Instr.wellFormed (.matchLane hdr (.s 2) (.v 4) false) = false ∧
    Instr.wellFormed (.elect hdr 1 (some (.v 2))) = false := by decide

theorem test_illformed_formats :
    -- NWB of a packing instruction, a reserved format code, INF or a rounding mode with a code that takes none
    Instr.wellFormed (.qpack hdr .latchV (.v 2) (.s 4) (.s 5) false) = false ∧
    Instr.wellFormed (.q4pack hdr .latchS (.s 2) (.s 4) (.s 5) 0) = false ∧
    Instr.wellFormed (.qdot4 hdr (.v 1) (.v 2) (.v 3) (.v 4) 0 false none false) = false ∧
    Instr.wellFormed (.qdot4 hdr (.v 1) (.v 2) (.v 3) (.v 4) 9 true none false) = false ∧
    Instr.wellFormed (.qdot4 hdr (.v 1) (.v 2) (.v 3) (.v 4) 0x18 false (some .rz) false) = false := by decide

theorem test_illformed_pairs :
    -- a field that is not read, a literal, a vector source of the scalar half, a destination of NOP, an odd pair, one bank
    -- twice, and a register that the other half writes (R84, R85)
    Instr.wellFormed (.pairWord hdr.guard .nop 0 (.s 1) .zero .nop 0 .zero .zero) = false ∧
    Instr.wellFormed (.pairWord hdr.guard .mov 1 (.lit 3) .zero .nop 0 .zero .zero) = false ∧
    Instr.wellFormed (.pairWord hdr.guard .mov 1 (.v 3) .zero .nop 0 .zero .zero) = false ∧
    Instr.wellFormed (.pairWord hdr.guard .nop 1 .zero .zero .nop 0 .zero .zero) = false ∧
    Instr.wellFormed (.pairWord hdr.guard .nop 0 .zero .zero .nop 1 .zero .zero) = false ∧
    Instr.wellFormed (.pairWord hdr.guard .iaddw 1 (.s 2) (.s 4) .nop 0 .zero .zero) = false ∧
    Instr.wellFormed (.pairWord hdr.guard .nop 0 .zero .zero .iadd 1 (.v 2) (.v 6)) = false ∧
    Instr.wellFormed (.pairWord hdr.guard .mov 1 (.s 2) .zero .mov 1 (.s 1) .zero) = false := by decide

theorem test_illformed_control :
    -- an assigned opcode is no illegal word; LB past 63 words or forwards, an odd link, a literal beside a register target
    Instr.wellFormed (.illegalWord 0x1C00000000000000) = false ∧ Instr.wellFormed (.bra hdr (.off 1) false true) = false ∧
    Instr.wellFormed (.bra hdr (.off (-64)) false true) = false ∧ Instr.wellFormed (.call hdr 1 (.off 1) false) = false ∧
    Instr.wellFormed (.callx hdr 1 (.s 2) false false) = false ∧ Instr.wellFormed (.brx hdr (.s 3) false false) = false ∧
    Instr.wellFormed (.ret hdr (.iconst 3) false) = false ∧ Instr.wellFormed (.sleep hdr (.v 1)) = false ∧
    Instr.wellFormed (.cjoin hdr 1 (.b 0)) = false ∧ Instr.wellFormed (.cstat hdr 1 (.s 2)) = false := by decide

theorem test_illformed_memory :
    -- a latch, a constant base, an odd pair, a destination of a wrong multiple, a vector address of a scalar load, SX with a
    -- wide size, a constant as 128-bit data, a size or an operation that an atomic does not take
    Instr.wellFormed (.ld hdr (.v 1) ⟨.v 2, .b 1⟩ .b32 false false none) = false ∧
    Instr.wellFormed (.ld hdr (.v 1) ⟨.iconst 2, .s 1⟩ .b32 false false none) = false ∧
    Instr.wellFormed (.ld hdr (.v 1) ⟨.v 3, .s 1⟩ .b32 false false none) = false ∧
    Instr.wellFormed (.ld hdr (.v 2) ⟨.v 4, .s 1⟩ .b128 false false none) = false ∧
    Instr.wellFormed (.ld hdr (.s 2) ⟨.v 4, .s 1⟩ .b32 false false none) = false ∧
    Instr.wellFormed (.ld hdr (.v 2) ⟨.v 4, .s 1⟩ .b64 true false none) = false ∧
    Instr.wellFormed (.st hdr ⟨.v 4, .s 1⟩ (.iconst 3) .b128 false none) = false ∧
    Instr.wellFormed (.feset hdr ⟨.iconst 4, .s 1⟩ (.s 3) false none) = false ∧
    Instr.wellFormed (.cstore hdr ⟨.v 4, .s 1⟩ (.v 3) 1 false .b32 false none) = false ∧
    Instr.wellFormed (.cstore hdr ⟨.s 4, .s 1⟩ (.v 4) 1 false .b128 false none) = false ∧
    Instr.wellFormed (.atom hdr (.v 1) ⟨.v 4, .s 1⟩ (.v 2) .add .b16 .none none) = false ∧
    Instr.wellFormed (.atomcas hdr (.v 1) (.v 4) (.v 3) (.v 2) .b64 .none none) = false ∧
    Instr.wellFormed (.red hdr ⟨.v 4, .s 1⟩ (.v 2) (.int .exch) .b32 false none) = false ∧
    Instr.wellFormed (.cmaint hdr ⟨.v 4, .s 1⟩ (.s 3) .wb none) = false ∧
    Instr.wellFormed (.tres hdr 1 (.s 3) (.s 4) 0) = false := by decide

theorem test_illformed_rest :
    Instr.wellFormed (.barinit hdr ⟨.v 4, .s 1⟩ (.s 3)) = false ∧ Instr.wellFormed (.cntadd hdr ⟨.s 3, .s 1⟩ (.s 2) false false none) = false ∧
    Instr.wellFormed (.cntwt hdr ⟨.s 3, .s 1⟩ (.s 3) true none none) = false ∧ Instr.wellFormed (.qinit hdr (.s 3) 0) = false ∧
    Instr.wellFormed (.jcopy hdr (.s 3) oddCtr) = false ∧ Instr.wellFormed (.jcopy hdr (.s 3) badGuard) = false ∧
    Instr.wellFormed (.jcopy hdr (.v 3) job) = false ∧ Instr.wellFormed (.jmma hdr (.s 3) 14 job) = false ∧
    Instr.wellFormed (.kvref hdr 1 (.s 2) (.s 3) false none) = false ∧ Instr.wellFormed (.kvlook hdr 1 (.s 2) (.s 3) none) = false ∧
    Instr.wellFormed (.rsig hdr ⟨.s 4, .s 1⟩ (.s 3) true none) = false ∧ Instr.wellFormed (.rflush hdr ⟨.v 4, .s 1⟩ (.s 3) false none) = false ∧
    -- an unassigned index, a pair in an odd register, a register that cannot be written (R433)
    Instr.wellFormed (.movsr hdr (.v 2) 0x3FF) = false ∧ Instr.wellFormed (.movsr hdr (.v 1) 0x00E) = false ∧
    Instr.wellFormed (.movrs hdr (.s 1) 0x000) = false ∧ Instr.wellFormed (.stsrd hdr (.s 1) (.v 2)) = false ∧
    Instr.wellFormed (.probe hdr (.v 1) ⟨.v 2, .s 1⟩) = false ∧ Instr.wellFormed (.pmrd hdr 1 (.s 2)) = false ∧
    Instr.wellFormed (.pmctlVal hdr 1 (.s 2) (.s 3)) = false ∧ Instr.wellFormed (.lcurd hdr 2 (.s 2) 5) = false := by decide

/-- A word of a reserved encoding decodes to no instruction: it raises ILLENC. -/
theorem test_reserved_words_decode_to_none :
    decode 0x1C00020406000002 none = none ∧ decode 0x1C0603080C000000 none = none := by decide

/-! ## Decoding: words written out from the encoding tables of spec/ -/

theorem test_decode_integer_1 :
    decode 0x28000A0688000001 none = some (.iadd ⟨⟨true, 2⟩, true⟩ (.v 5) (.v 3) (.s 4) false false) ∧
    decode 0x9C00929310000000 (some 0xC000000012345678) = some (.iadd hdr (.s 9) (.s 9) (.lit 0x12345678) false false) ∧
    decode 0x1C02020406000006 none = some (.isub hdr (.v 1) (.v 2) (.v 3) true true) ∧
    decode 0x1C04020406080004 none = some (.iadd3 hdr (.v 1) (.v 2) (.v 3) (.v 4) false true) ∧
    decode 0x1C0604080C000000 none = some (.iaddw hdr (.v 2) (.v 4) (.v 6) false false) ∧
    decode 0x1C0884888C000004 none = some (.isubw hdr (.s 2) (.s 4) (.s 6) false true) ∧
    decode 0x1C0B000000000000 none = some (.imul hdr .latchV (.v 0) (.v 0) false false) ∧
    decode 0x1C0D808306000002 none = some (.imulhi hdr .latchS (.s 1) (.b 3) true) ∧
    decode 0x1C0E020406080006 none = some (.imad hdr (.v 1) (.v 2) (.v 3) (.v 4) true true) ∧
    decode 0x1C1004060A0C0002 none = some (.imadw hdr (.v 2) (.v 3) (.v 5) (.v 6) true false) ∧
    decode 0x1C1204080C00000A none = some (.imin hdr (.v 2) (.v 4) (.v 6) true true) ∧
    decode 0x1C14020780000000 none = some (.imax hdr (.v 1) (.v 3) (.iconst 0) false false) ∧
    decode 0x1C16020600000004 none = some (.iabs hdr (.v 1) (.v 3) true) ∧
    decode 0x1C1802060A000002 none = some (.idiff hdr (.v 1) (.v 3) (.v 5) true) ∧
    decode 0x1C1A02068A8E0002 none = some (.iclamp hdr (.v 1) (.v 3) (.s 5) (.s 7) true) ∧
    decode 0x1C1C0007D4004020 none = some (.icmp hdr 1 (.v 3) (.iconst 42) .lt false .set) := by decide

theorem test_decode_integer_2 :
    decode 0x1C1E00040801B052 none = some (.icmpw hdr 6 (.v 2) (.v 4) .ge true .xor) ∧
    decode 0x1C2004080C016008 none = some (.isel hdr (.v 2) (.v 4) (.v 6) 5 true true) ∧
    decode 0x1C22933800000000 none = some (.mov hdr (.s 9) (.fconst 12)) ∧
    decode 0x1C240C0400000000 none = some (.movw hdr (.v 6) (.v 2)) ∧
    decode 0x9C2691E110000000 (some 0xC0000000DEAD0040) = some (.movhi hdr (.s 8) (.iconst 48) (.lit 0xDEAD0040)) ∧
    decode 0x1C2804060000000A none = some (.iext hdr (.v 2) (.v 3) .u32) ∧
    decode 0x1C2A04080C00000C none = some (.idiv hdr (.v 2) (.v 4) (.v 6) false true true) ∧
    decode 0x1C2C02060A000002 none = some (.irem hdr (.v 1) (.v 3) (.v 5) true false) ∧
    decode 0x1C2E04080BC00032 none = some (.lea hdr (.v 2) (.v 4) (.v 5) (.iconst 32) true 3) ∧
    decode 0x1C30020406000000 none = some (.and hdr (.v 1) (.v 2) (.v 3) false) ∧
    decode 0x1C3204080C000008 none = some (.or hdr (.v 2) (.v 4) (.v 6) true) ∧
    decode 0x1C34828486000000 none = some (.xor hdr (.s 1) (.s 2) (.s 3) false) ∧
    decode 0x1C360409BE000008 none = some (.andn hdr (.v 2) (.v 4) (.iconst 31) true) ∧
    decode 0x1C38020406080E80 none = some (.lop3 hdr (.v 1) (.v 2) (.v 3) (.v 4) false 0xE8) ∧
    decode 0x1C3A020406000010 none = some (.shl hdr (.v 1) (.v 2) (.v 3) true) ∧
    decode 0x1C3C020406000000 none = some (.shr hdr (.v 1) (.v 2) (.v 3) false) := by decide

theorem test_decode_integer_3 :
    decode 0x1C3E020406000010 none = some (.sar hdr (.v 1) (.v 2) (.v 3) true) ∧
    decode 0x1C40020406080012 none = some (.shf hdr (.v 1) (.v 2) (.v 3) (.v 4) .l true) ∧
    decode 0x1C42040806000000 none = some (.shlw hdr (.v 2) (.v 4) (.v 3) false) ∧
    decode 0x1C44040806000010 none = some (.shrw hdr (.v 2) (.v 4) (.v 3) true) ∧
    decode 0x1C46848886000000 none = some (.sarw hdr (.s 2) (.s 4) (.s 3) false) ∧
    decode 0x1C4804080600000A none = some (.bfe hdr (.v 2) (.v 4) (.v 3) true true) ∧
    decode 0x1C4A020406080000 none = some (.bfi hdr (.v 1) (.v 2) (.v 3) (.v 4) false) ∧
    decode 0x1C4C020400000008 none = some (.popc hdr (.v 1) (.v 2) true) ∧
    decode 0x1C4E020600000000 none = some (.clz hdr (.v 1) (.v 3) false) ∧
    decode 0x1C50020400000008 none = some (.ctz hdr (.v 1) (.v 2) true) ∧
    decode 0x1C52020600000000 none = some (.brev hdr (.v 1) (.v 3) false) ∧
    decode 0x1C54020406080000 none = some (.bperm hdr (.v 1) (.v 2) (.v 3) (.v 4)) := by decide

theorem test_decode_lane :
    decode 0x1C8086000000A000 none = some (.ballot hdr (.s 3) 2 true) ∧
    decode 0x1C82000000012804 none = some (.vote hdr .uni 4 2 true) ∧
    decode 0x1C84860000008000 none = some (.ppopc hdr (.s 3) 2 false) ∧
    decode 0x1C86060000004000 none = some (.mrank hdr (.v 3) 1 false) ∧
    decode 0x1C8804080600002E none = some (.shfl hdr (.v 2) (.v 4) (.v 3) .xor .seg8 true) ∧
    decode 0x1C8A840086004002 none = some (.rdlane hdr (.s 2) 8 (.s 3) true) ∧
    decode 0x1C8C068284000000 none = some (.wrlane hdr (.v 3) (.s 1) (.s 2) false) ∧
    decode 0x1C8E860000004014 none = some (.wred hdr (.s 3) 8 .fmax false) ∧
    decode 0x1C90040800000066 none = some (.wscan hdr (.v 2) (.v 4) .umin true true) ∧
    decode 0x1C92020800000008 none = some (.matchLane hdr (.v 1) (.v 4) true) ∧
    decode 0x1C948A000000D000 none = some (.elect hdr 3 (some (.s 5))) ∧
    decode 0x1C96000000005312 none = some (.plop hdr 1 2 3 9) ∧
    decode 0x1C98008400004002 none = some (.s2p hdr 1 (.s 2) true) := by decide

theorem test_decode_floating_1 :
    decode 0x1CC0020406001D0C none = some (.fadd hdr (.v 1) (.v 2) (.v 3) ⟨true, false⟩ ⟨false, true⟩ ⟨some .ru, true, true⟩) ∧
    decode 0x1CC2020406000010 none = some (.fsub hdr (.v 1) (.v 2) (.v 3) ⟨false, false⟩ ⟨true, false⟩ ⟨none, false, false⟩) ∧
    decode 0x1CC4020406000680 none = some (.fmul hdr (.v 1) (.v 2) (.v 3) ⟨false, false⟩ ⟨false, false⟩ ⟨some .sr, false, false⟩) ∧
    decode 0x1CC60602048E0482 none = some (.ffma hdr (.v 3) (.v 1) (.v 2) (.s 7) ⟨false, true⟩ ⟨false, false⟩ ⟨false, false⟩ ⟨some .rz, false, false⟩) ∧
    decode 0x1CC8020406001006 none = some (.fmin hdr (.v 1) (.v 2) (.v 3) ⟨true, true⟩ ⟨false, false⟩ true) ∧
    decode 0x1CCA020406000008 none = some (.fmax hdr (.v 1) (.v 2) (.v 3) ⟨false, false⟩ ⟨false, true⟩ false) ∧
    decode 0x1CCC0004060090F2 none = some (.fcmp hdr 2 (.v 2) (.v 3) ⟨false, true⟩ ⟨true, false⟩ .ord .and) ∧
    decode 0x1CCE020400000000 none = some (.fclass hdr (.v 1) (.v 2)) ∧
    decode 0x1CD0020400000400 none = some (.frnd hdr (.v 1) (.v 2) ⟨false, false⟩ (some .rne) false) ∧
    decode 0x1CD2020406000802 none = some (.fscale hdr (.v 1) (.v 2) (.v 3) ⟨false, true⟩ ⟨none, true, false⟩) ∧
    decode 0x1CD4020406000000 none = some (.fdiv hdr (.v 1) (.v 2) (.v 3) ⟨false, false⟩ ⟨false, false⟩ ⟨none, false, false⟩) ∧
    decode 0x1CD6020400001000 none = some (.frcp hdr (.v 1) (.v 2) ⟨false, false⟩ true) ∧
    decode 0x1CD8020400000004 none = some (.frsq hdr (.v 1) (.v 2) ⟨true, false⟩ false) ∧
    decode 0x1CDA020400001580 none = some (.fsqrt hdr (.v 1) (.v 2) ⟨false, false⟩ (some .rd) true) ∧
    decode 0x1CDC020400000000 none = some (.fexp2 hdr (.v 1) (.v 2) ⟨false, false⟩ false) ∧
    decode 0x1CDE020400001002 none = some (.flog2 hdr (.v 1) (.v 2) ⟨false, true⟩ true) := by decide

theorem test_decode_floating_2 :
    decode 0x1CE0020400000000 none = some (.fsin hdr (.v 1) (.v 2) ⟨false, false⟩ false) ∧
    decode 0x1CE2020400001002 none = some (.fcos hdr (.v 1) (.v 2) ⟨false, true⟩ true) ∧
    decode 0x1CE4020400000000 none = some (.ftanh hdr (.v 1) (.v 2) ⟨false, false⟩ false) ∧
    decode 0x1CF0020406002008 none = some (.hadd2 hdr (.v 1) (.v 2) (.v 3) ⟨false, false⟩ ⟨false, true⟩ ⟨none, false, false⟩ .bf16) ∧
    decode 0x1CF2020524000000 none = some (.hmul2 hdr (.v 1) (.v 2) (.fconst 2) ⟨false, false⟩ ⟨false, false⟩ ⟨none, false, false⟩ .f16) ∧
    decode 0x1CF4020406082860 none = some (.hfma2 hdr (.v 1) (.v 2) (.v 3) (.v 4) ⟨false, false⟩ ⟨false, false⟩ ⟨true, true⟩ ⟨none, true, false⟩ .bf16) ∧
    decode 0x1CF6020406003000 none = some (.hmin2 hdr (.v 1) (.v 2) (.v 3) ⟨false, false⟩ ⟨false, false⟩ true .bf16) ∧
    decode 0x1CF8020406000004 none = some (.hmax2 hdr (.v 1) (.v 2) (.v 3) ⟨true, false⟩ ⟨false, false⟩ false .f16) ∧
    decode 0x1CFA020406082620 none = some (.hdot2 hdr (.v 1) (.v 2) (.v 3) (.v 4) ⟨false, false⟩ ⟨false, false⟩ ⟨false, true⟩ ⟨some .rna, false, false⟩ .bf16) ∧
    decode 0x1CFC020406082C88 none = some (.qdot4 hdr (.v 1) (.v 2) (.v 3) (.v 4) 4 true (some .rz) true) := by decide

theorem test_decode_conversion :
    decode 0x1D00020400000820 none = some (.cvt hdr (.v 1) (.v 2) .f32 .bf16 ⟨none, true, false⟩) ∧
    decode 0x1D020406000014B2 none = some (.f2i hdr (.v 2) (.v 3) .f16 .u64 (some .rz) true) ∧
    decode 0x1D04020400000024 none = some (.i2f hdr (.v 1) (.v 2) .bf16 .s64 ⟨none, false, false⟩) ∧
    decode 0x1D06020406002000 none = some (.hpack hdr (.v 1) (.v 2) (.v 3) ⟨none, false, false⟩ .bf16) ∧
    decode 0x1D08020400002002 none = some (.hunpk hdr (.v 1) (.v 2) true false .bf16) ∧
    decode 0x1D0A020486880002 none = some (.qpack hdr (.v 1) (.v 2) (.s 3) (.s 4) true) ∧
    decode 0x1D0C040286880000 none = some (.qunpk hdr (.v 2) (.v 1) (.s 3) (.s 4) false) ∧
    decode 0x1D0E020486880006 none = some (.q4pack hdr (.v 1) (.v 2) (.s 3) (.s 4) 3) ∧
    decode 0x1D10040286880004 none = some (.q4unpk hdr (.v 2) (.v 1) (.s 3) (.s 4) 2) ∧
    decode 0x1D12020486000002 none = some (.bscale hdr (.v 1) (.v 2) (.s 3) true) ∧
    decode 0x5C00283C83880102 none = some (.pairWord ⟨false, 7⟩ .iadd 1 (.s 1) (.iconst 36) .fmul 8 (.v 1) (.v 2)) ∧
    decode 0x5C593CE0000201F0 none = some (.pairWord ⟨false, 7⟩ .mov 9 (.iconst 39) .zero .iadd 2 (.v 1) (.iconst 48)) ∧
    decode 0x1DE0000000000000 none = some (.illegalWord 0x1DE0000000000000) := by decide

theorem test_decode_control_1 :
    decode 0x0580000000000028 none = some (.bra ⟨⟨false, 1⟩, false⟩ (.off 5) false false) ∧
    decode 0x058000000001FFEC none = some (.bra ⟨⟨false, 1⟩, false⟩ (.off 0x3FFD) false true) ∧
    decode 0x9D80011000000002 (some 0xC0000000FFFFFF00) = some (.bra hdr (.lit 0xFFFFFF00) true false) ∧
    decode 0x1D82000800000002 none = some (.brx hdr (.v 4) false true) ∧
    decode 0x1D847C0000010000 none = some (.call hdr 62 (.off 0x2000) false) ∧
    decode 0x1D86048A00000008 none = some (.callx hdr 2 (.s 5) true false) ∧
    decode 0x1D88007C00000000 none = some (.ret hdr (.v 62) false) ∧
    decode 0x1D8A000000000002 none = some (.exit hdr true) ∧
    decode 0x1D8C000000000000 none = some (.yield hdr) ∧
    decode 0x1D8E000000000000 none = some (.nop hdr) ∧
    decode 0x1D90008600000000 none = some (.sleep hdr (.s 3)) ∧
    decode 0x1D92000000000000 none = some (.syncst hdr) ∧
    decode 0x1DC0868800000000 none = some (.cjoin hdr 3 (.s 4)) ∧
    decode 0x1DC2000000000000 none = some (.cleave hdr) ∧
    decode 0x9DC400000000A00A (some 0xEFBBFFFF00000000) = some (.cbr hdr .all .pl 2 true 0x3FFF 0xBEEF) ∧
    decode 0x9DC600000000C000 (some 0xC001C00500000000) = some (.cbrw hdr .any 3 false 5 7) := by decide

theorem test_decode_control_2 :
    decode 0x1DC8860000000002 none = some (.csync hdr (some 3)) ∧
    decode 0x1DCA89C200000000 none = some (.cstat hdr 4 (.iconst 33)) := by decide

theorem test_decode_memory :
    decode 0x1E000C8800040080 none = some (.ld hdr (.v 6) ⟨.s 4, .v 2⟩ .b32 false false none) ∧
    decode 0x9E000C080110062A (some 0xC000000000001000) = some (.ld hdr (.v 6) ⟨.v 4, .lit 0x1000⟩ .b8 true true (some .sys)) ∧
    decode 0x1E02000811D00516 none = some (.st hdr ⟨.v 4, .iconst 40⟩ (.v 8) .b128 true (some .dev)) ∧
    decode 0x1E048C8801C804C0 none = some (.ldl hdr (.s 6) ⟨.s 4, .iconst 36⟩ .b64 false true none) ∧
    decode 0x1E06000891C8004A none = some (.stl hdr ⟨.v 4, .iconst 36⟩ (.s 8) .b16 false (some .wg)) ∧
    decode 0x1E080C0801C09880 none = some (.ldfe hdr (.v 6) ⟨.v 4, .iconst 32⟩ .b32 false true (some 2) none) ∧
    decode 0x1E080C0801C1C080 none = some (.ldfe hdr (.v 6) ⟨.v 4, .iconst 32⟩ .b32 false false none none) ∧
    decode 0x1E0A000811C000C6 none = some (.stfe hdr ⟨.v 4, .iconst 32⟩ (.v 8) .b64 (some .wv)) ∧
    decode 0x1E0C000893C00800 none = some (.feset hdr ⟨.v 4, .iconst 32⟩ (.s 9) true none) ∧
    decode 0x1E0E0C0800040240 none = some (.ldu hdr (.v 6) ⟨.v 4, .v 2⟩ .b16 true false none) ∧
    decode 0x1E10008890920080 none = some (.stu hdr ⟨.s 4, .s 9⟩ (.s 8) .b32 false none) ∧
    decode 0x1E1200900C9A4080 none = some (.cstore hdr ⟨.s 8, .s 13⟩ (.v 6) 1 false .b32 false none) ∧
    decode 0x1E140C0807C00C8E none = some (.xload hdr (.v 6) ⟨.v 4, .iconst 32⟩ (.v 3) .b32 false true true (some .cl)) := by decide

theorem test_decode_atomics :
    decode 0x1E800E89C3C00096 none = some (.atom hdr (.v 7) ⟨.s 4, .iconst 32⟩ (.iconst 33) .add .b32 .none (some .dev)) ∧
    decode 0x1E821008040C06C0 none = some (.atomcas hdr (.v 8) (.v 4) (.v 2) (.v 6) .b64 .ar none) ∧
    decode 0x1E840E0805C01280 none = some (.atomf hdr (.v 7) ⟨.v 4, .iconst 32⟩ (.v 2) .fmax .bf16x2 .acq none) ∧
    decode 0x1E86000805C06480 none = some (.red hdr ⟨.v 4, .iconst 32⟩ (.v 2) (.float .fmin) .b32 true none) ∧
    decode 0x1E86000805C050C0 none = some (.red hdr ⟨.v 4, .iconst 32⟩ (.v 2) (.int .dec) .b64 false none) ∧
    decode 0x1E880E0A05C04480 none = some (.atoml hdr (.v 7) ⟨.v 5, .iconst 32⟩ (.v 2) .exch .b32 .rel none) ∧
    decode 0x1E8A8E8A84860082 none = some (.atomlcas hdr (.s 7) (.s 5) (.s 2) (.s 3) .b32 .none (some .th)) ∧
    decode 0x1E8C0000000000A6 none = some (.fence hdr .rel (some .pod)) ∧
    decode 0x1E8E008893C00080 none = some (.cmaint hdr ⟨.s 4, .iconst 32⟩ (.s 9) .inv none) ∧
    decode 0x1E90008893C0001A none = some (.icinv hdr ⟨.s 4, .iconst 32⟩ (.s 9) (some .node)) ∧
    decode 0x1E9286889200000A none = some (.tres hdr 3 (.s 4) (.s 9) 5) ∧
    decode 0x1E94008600000000 none = some (.trel hdr (.s 3)) ∧
    decode 0x1E96008600000000 none = some (.tevict hdr (.s 3)) ∧
    decode 0x1E9801C400000000 none = some (.tdemote hdr (.iconst 34)) := by decide

theorem test_decode_synchronisation :
    decode 0x1EC000888BC00000 none = some (.barinit hdr ⟨.s 4, .iconst 32⟩ (.s 5)) ∧
    decode 0x1EC286888BC00006 none = some (.bararv hdr (some 3) ⟨.s 4, .iconst 32⟩ (some (.s 5))) ∧
    decode 0x1EC400888BC00000 none = some (.barwt hdr ⟨.s 4, .iconst 32⟩ (.s 5)) ∧
    decode 0x1EC6008801C00000 none = some (.bar hdr ⟨.s 4, .iconst 32⟩ none) ∧
    decode 0x1EC8000A0DC01800 none = some (.cntadd hdr ⟨.v 5, .iconst 32⟩ (.v 6) true true none) ∧
    decode 0x1ECA008899C1C016 none = some (.cntwt hdr ⟨.s 4, .iconst 32⟩ (.s 12) false none (some .dev)) ∧
    decode 0x1ECA000A0DC08C00 none = some (.cntwt hdr ⟨.v 5, .iconst 32⟩ (.v 6) true (some 2) none) ∧
    decode 0x1ECC008800012000 none = some (.qinit hdr (.s 4) 9) ∧
    decode 0x1ECE000A01C12A00 none = some (.qpush hdr ⟨.v 5, .iconst 32⟩ 9 (some 2)) ∧
    decode 0x1ED0000A01C13C00 none = some (.qpop hdr ⟨.v 5, .iconst 32⟩ 9 none) ∧
    decode 0x1ED286000001E000 none = some (.qstat hdr 3 15) ∧
    decode 0x1ED4000000000002 none = some (.snext hdr true) ∧
    decode 0x1ED6860000000000 none = some (.gset hdr 3) ∧
    decode 0x1ED801C800000002 none = some (.gres hdr (.iconst 36) true) := by decide

theorem test_decode_jobs_1 :
    decode 0x1F008C8491C2104A none = some (.jcopy hdr (.s 2) ⟨some 6, some 8, .iconst 33, .scratch, 0, some .wg⟩) ∧
    decode 0x1F020085C1C00800 none = some (.jgen hdr (.s 2) ⟨none, none, .iconst 32, .global, 8, none⟩) ∧
    decode 0x9F04011090860180 (some 0xC000000000000040) = some (.jfill hdr (.lit 0x40) ⟨none, some 8, .s 3, .barrier, 1, none⟩) ∧
    decode 0x1F068C85C086100E none = some (.jmcast hdr (.s 2) ⟨some 6, none, .s 3, .global, 0, some .cl⟩) ∧
    decode 0x1F0800049086A000 none = some (.jmma hdr (.v 2) 5 ⟨none, some 8, .s 3, .global, 0, none⟩) ∧
    decode 0x1F0A00849087E000 none = some (.jacc hdr (.s 2) 15 ⟨none, some 8, .s 3, .global, 0, none⟩) ∧
    decode 0x1F0C8A8490863000 none = some (.jmv hdr (.s 2) 1 ⟨some 5, some 8, .s 3, .global, 0, none⟩) ∧
    decode 0x1F0E008490864200 none = some (.jattn hdr (.s 2) 2 ⟨none, some 8, .s 3, .global, 2, none⟩) ∧
    decode 0x1F10008490866040 none = some (.jrot hdr (.s 2) 3 ⟨none, some 8, .s 3, .scratch, 0, none⟩) ∧
    decode 0x1F12008400000000 none = some (.jpub hdr (.s 2)) ∧
    decode 0x1F14868400000000 none = some (.jcancel hdr 3 (.s 2)) ∧
    decode 0x1F16868400000000 none = some (.jstat hdr 3 (.s 2)) ∧
    decode 0x1F16860000000002 none = some (.jstatRing hdr 3) ∧
    decode 0x1F208A91E0980000 none = some (.kvapp hdr 5 (.s 8) (.iconst 48) (.s 12) none) ∧
    decode 0x1F228A9094000040 none = some (.kvref hdr 5 (.s 8) (.s 10) true none) ∧
    decode 0x1F248A9092000052 none = some (.kvdem hdr 5 (.s 8) (.s 9) true (some .die)) := by decide

theorem test_decode_jobs_2 :
    decode 0x1F268C9092000000 none = some (.kvlook hdr 6 (.s 8) (.s 9) none) ∧
    decode 0x1F288A909400001E none = some (.kvfork hdr 5 (.s 8) (.s 10) (some .grp)) := by decide

theorem test_decode_system_1 :
    decode 0x1F600091C3C00026 none = some (.rsig hdr ⟨.s 8, .iconst 32⟩ (.iconst 33) false (some .pod)) ∧
    decode 0x1F62009093C00062 none = some (.rflush hdr ⟨.s 8, .iconst 32⟩ (.s 9) true (some .ten)) ∧
    decode 0x1F62009200000080 none = some (.rflushAll hdr (.s 9) false none) ∧
    decode 0x1F80900000000022 none = some (.movsr hdr (.s 8) 0x011) ∧
    decode 0x1F80000000000004 none = some (.movsr hdr (.v 0) 0x002) ∧
    decode 0x1F8200A800000080 none = some (.movrs hdr (.s 20) 0x040) ∧
    decode 0x1F8400000000000A none = some (.trap hdr 5) ∧
    decode 0x1F86000000000000 none = some (.rft hdr) ∧
    decode 0x1F880000000001FE none = some (.brk hdr 255) ∧
    decode 0x1F8A060800000000 none = some (.stsrd hdr (.v 3) (.v 4)) ∧
    decode 0x1F8C868800000000 none = some (.intr hdr 3 (.s 4)) ∧
    decode 0x1F8E040801C20000 none = some (.probe hdr (.v 2) ⟨.v 4, .iconst 33⟩) ∧
    decode 0x1F900089E1C00016 none = some (.tlbinv hdr ⟨.s 4, .iconst 32⟩ (.iconst 48) (some .dev)) ∧
    decode 0x1F90000000000040 none = some (.tlbinvAll hdr none) ∧
    decode 0x1FC0A5C200000000 none = some (.pmrd hdr 18 (.iconst 33)) ∧
    decode 0x1FC286888A000000 none = some (.pmctl hdr 3 (.s 4) (.s 5)) := by decide

theorem test_decode_system_2 :
    decode 0x1FC286888C000002 none = some (.pmctlVal hdr 3 (.s 4) (.s 6)) ∧
    decode 0x1FC4888A0000003E none = some (.lcurd hdr 4 (.s 5) 31) ∧
    decode 0x1FC600000000003C none = some (.mark hdr .fin 7) := by decide

end Sys2Proof.Tests
end

section
/-! ## Exact integers as operands and results (R109, R110, R114) -/

namespace Sys2Proof.Machine

open Sys2Proof

theorem slice_zero_toNat {m : Nat} (x : BitVec m) (n : Nat) : (slice x 0 n).toNat = x.toNat % 2 ^ n := by
  simp [slice, BitVec.extractLsb'_toNat]

@[simp] theorem slice_zero_self {n : Nat} (x : BitVec n) : slice x 0 n = x :=
  BitVec.eq_of_toNat_eq (by rw [slice_zero_toNat, Nat.mod_eq_of_lt x.isLt])

/-- The low bits of a low part are the low bits of the whole. -/
theorem slice_slice {m : Nat} (x : BitVec m) {n k : Nat} (h : k ≤ n) : slice (slice x 0 n) 0 k = slice x 0 k :=
  BitVec.eq_of_toNat_eq (by simp only [slice_zero_toNat, Nat.mod_mod_of_dvd _ (Nat.pow_dvd_pow 2 h)])

@[simp] theorem slice_setWidth (x : Word) : slice (x.setWidth 64) 0 32 = x :=
  BitVec.eq_of_toNat_eq (by rw [slice_zero_toNat, BitVec.toNat_setWidth]; omega)

/-- `ext` of an operand is the exact value of its low n bits (R109). -/
theorem extInt_eq_exactOf (u : Bool) {n : Nat} (hn : 0 < n) (x : DWord) : extInt u n x = exactOf u (slice x 0 n) := by
  have hp : 2 ^ n = 2 * 2 ^ (n - 1) := by rw [← Nat.pow_succ', Nat.succ_eq_add_one, Nat.sub_add_cancel hn]
  cases u
  · simp only [extInt, exactOf, BitVec.toInt_eq_toNat_cond, slice_zero_toNat, Bool.not_false, Bool.true_and,
      decide_eq_true_eq, Bool.false_eq_true, if_false]
    by_cases hv : x.toNat % 2 ^ n ≥ 2 ^ (n - 1)
    · rw [if_pos hv, if_neg (by omega), Nat.cast_pow]; rfl
    · rw [if_neg hv, if_pos (by omega)]
  · simp [extInt, exactOf, slice_zero_toNat]

/-- An integer operand is the exact value of its 32 or 64 bits. -/
theorem Rd.int_eq (r : Rd) (u w : Bool) (x : Src) (l : Nat) :
    r.int u w x l = if w then exactOf u (r.val x .w64 l) else exactOf u (r.w32 x l) := by
  cases w
  · exact extInt_eq_exactOf u (by decide) _
  · exact (extInt_eq_exactOf u (by decide) _).trans (by simp [widthOf, bitsW])

/-- An operand's value, extended as its sign says, is its exact value modulo 2^64. -/
theorem ofInt_exactOf (u : Bool) {n : Nat} (x : BitVec n) :
    BitVec.ofInt 64 (exactOf u x) = if u then x.setWidth 64 else x.signExtend 64 := by
  cases u
  · rfl
  · exact BitVec.eq_of_toNat_eq (by simp [exactOf])

/-- What a destination holds of an integer is that integer modulo 2^32 or 2^64. -/
theorem atWidth_ofInt_congr {w : Bool} {x y : Int} (h : x % 2 ^ bitsW w = y % 2 ^ bitsW w) :
    atWidth w (BitVec.ofInt 64 x) = atWidth w (BitVec.ofInt 64 y) := by
  cases w
  · apply BitVec.eq_of_toNat_eq
    simp only [bitsW, Bool.false_eq_true, if_false] at h
    simp only [atWidth, Bool.false_eq_true, if_false, BitVec.toNat_setWidth, slice_zero_toNat, BitVec.toNat_ofInt]
    omega
  · apply BitVec.eq_of_toNat_eq
    simp only [bitsW, if_true] at h
    simp only [atWidth, if_true, BitVec.toNat_ofInt]
    omega

theorem atWidth_intCode (w : Bool) (x : Int) :
    atWidth w (BitVec.ofNat 64 (intCode (bitsW w) x)) = atWidth w (BitVec.ofInt 64 x) := by
  have h : ((intCode (bitsW w) x : Nat) : Int) = x % 2 ^ bitsW w := Int.toNat_of_nonneg (Int.emod_nonneg _ (by positivity))
  rw [← BitVec.ofInt_natCast, h]
  exact atWidth_ofInt_congr (Int.emod_emod_of_dvd _ (dvd_refl _))

/-- A result is the clamped exact integer, with SAT where it clamps (R109). -/
theorem narrowInt_eq {n : Nat} (u sat : Bool) (x : Int) :
    narrowInt n u sat x = (BitVec.ofNat 64 (intCode n (clampTo n u sat x)), satFlag n u sat x) := by
  have hp : (1 : Int) ≤ 2 ^ n ∧ (1 : Int) ≤ 2 ^ (n - 1) := ⟨one_le_pow₀ (by norm_num), one_le_pow₀ (by norm_num)⟩
  have hlo : leastOf n u ≤ greatestOf n u := by
    unfold leastOf greatestOf
    split <;> omega
  have e : narrowInt n u sat x =
      if sat && (decide (x < leastOf n u) || decide (x > greatestOf n u)) then
        (BitVec.ofNat 64 (intCode n (if x < leastOf n u then leastOf n u else greatestOf n u)), flagSAT)
      else (BitVec.ofNat 64 (intCode n x), 0) := rfl
  cases sat
  · simp [e, clampTo, satFlag]
  · rw [e]
    by_cases hbelow : x < leastOf n u
    · have : max (leastOf n u) (min (greatestOf n u) x) = leastOf n u := by omega
      simp [clampTo, satFlag, hbelow, this]
    · by_cases habove : greatestOf n u < x
      · have : max (leastOf n u) (min (greatestOf n u) x) = greatestOf n u := by omega
        simp [clampTo, satFlag, hbelow, habove, this]
      · have : max (leastOf n u) (min (greatestOf n u) x) = x := by omega
        simp [clampTo, satFlag, hbelow, habove, this]

/-- The constants that R114 writes at a width: all ones, the least integer and the greatest. -/
theorem atWidth_extremes (w : Bool) :
    atWidth w (BitVec.ofNat 64 (2 ^ bitsW w - 1)) = atWidth w (BitVec.ofInt 64 (-1)) ∧
    atWidth w (BitVec.ofNat 64 (2 ^ (bitsW w - 1))) = atWidth w (BitVec.ofInt 64 (leastOf (bitsW w) false)) ∧
    atWidth w (BitVec.ofNat 64 (2 ^ (bitsW w - 1) - 1)) = atWidth w (BitVec.ofInt 64 (greatestOf (bitsW w) false)) := by
  cases w <;> decide

/-- The case of R114 in which the quotient does not fit: the most negative number over −1. -/
def divCorner (n : Nat) (u : Bool) (a b : Int) : Bool := !u && decide (a = leastOf n false) && decide (b = -1)

theorem divInt_zero (n : Nat) (u sat : Bool) (a : Int) :
    divInt n u sat a 0 = ((BitVec.ofNat 64 (2 ^ n - 1), flagIDZ), (BitVec.ofNat 64 (intCode n a), flagIDZ)) := rfl

theorem divInt_corner {n : Nat} {u : Bool} (sat : Bool) {a b : Int} (hc : divCorner n u a b = true) :
    divInt n u sat a b =
      (if sat then (BitVec.ofNat 64 (2 ^ (n - 1) - 1), flagSAT) else (BitVec.ofNat 64 (2 ^ (n - 1)), 0), (0, 0)) := by
  simp only [divCorner, Bool.and_eq_true, Bool.not_eq_true', decide_eq_true_eq] at hc
  obtain ⟨⟨rfl, rfl⟩, rfl⟩ := hc
  simp [divInt, leastOf]

theorem divInt_regular {n : Nat} {u : Bool} (sat : Bool) {a b : Int} (hb : b ≠ 0) (hc : divCorner n u a b = false) :
    divInt n u sat a b =
      ((BitVec.ofNat 64 (intCode n (Int.tdiv a b)), 0), (BitVec.ofNat 64 (intCode n (Int.tmod a b)), 0)) := by
  have hm : a - Int.tdiv a b * b = Int.tmod a b := by rw [Int.tmod_def, mul_comm]
  have hc' : (!u && a == -(2 ^ (n - 1)) && b == -1) = false := by
    simpa only [divCorner, leastOf, Bool.false_eq_true, if_false, beq_eq_decide] using hc
  simp only [divInt, if_neg hb, hc', Bool.false_eq_true, if_false, hm]

/-- The quotient of R114: all ones for a divisor of 0, the least integer or, saturated, the greatest in the corner, and
otherwise rounded toward zero. -/
theorem divInt_quotient (w u sat : Bool) (a b : Int) :
    atWidth w (divInt (bitsW w) u sat a b).1.1 = atWidth w (BitVec.ofInt 64 (if decide (b = 0) then -1
      else if divCorner (bitsW w) u a b then (if sat then greatestOf (bitsW w) false else leastOf (bitsW w) false)
      else Int.tdiv a b)) := by
  obtain ⟨hones, hleast, hgreatest⟩ := atWidth_extremes w
  by_cases hb : b = 0
  · subst hb; exact hones
  · cases hc : divCorner (bitsW w) u a b with
    | true =>
      rw [divInt_corner sat hc]
      cases sat
      · simpa [hb] using hleast
      · simpa [hb] using hgreatest
    | false => rw [divInt_regular sat hb hc]; simpa [hb] using atWidth_intCode w _

theorem divInt_quotient_flags (n : Nat) (u sat : Bool) (a b : Int) : (divInt n u sat a b).1.2 =
    if decide (b = 0) then flagIDZ else if divCorner n u a b && sat then flagSAT else 0 := by
  by_cases hb : b = 0
  · subst hb; rfl
  · cases hc : divCorner n u a b with
    | true => rw [divInt_corner sat hc]; cases sat <;> simp [hb]
    | false => rw [divInt_regular sat hb hc]; simp [hb]

/-- The remainder of R114: the dividend for a divisor of 0, and otherwise with the sign of the dividend. -/
theorem divInt_remainder (w u : Bool) (a b : Int) : atWidth w (divInt (bitsW w) u false a b).2.1 =
    atWidth w (BitVec.ofInt 64 (if decide (b = 0) then a else Int.tmod a b)) := by
  by_cases hb : b = 0
  · subst hb; exact atWidth_intCode w a
  · cases hc : divCorner (bitsW w) u a b with
    | true =>
      rw [divInt_corner false hc]
      simp only [divCorner, Bool.and_eq_true, decide_eq_true_eq] at hc
      simp [hc.2]
    | false => rw [divInt_regular false hb hc]; simpa [hb] using atWidth_intCode w _

theorem divInt_remainder_flags (n : Nat) (u : Bool) (a b : Int) :
    (divInt n u false a b).2.2 = if decide (b = 0) then flagIDZ else 0 := by
  by_cases hb : b = 0
  · subst hb; rfl
  · cases hc : divCorner n u a b with
    | true => rw [divInt_corner false hc]; simp [hb]
    | false => rw [divInt_regular false hb hc]; simp [hb]

/-! ## Integer instructions of one lane at a time -/

section
variable {s : State} {h : Hdr} {d : Dst} {l : List Src} {i : Iss}

/-- An instruction whose lanes give exact integers, clamped where it saturates. -/
theorem intIssue_exact (hr : AluReady s h d l i) (w u sat : Bool) (e : Rd → Nat → Int) (y : Nat → Int)
    (he : ∀ j, e (i.rd s d.scalar) j = y j) :
    AluEffect (intIssue h d w l s (fun r j => narrowInt (bitsW w) u sat (e r j))) s i d w i.part
      (fun j => BitVec.ofInt 64 (clampTo (bitsW w) u sat (y j))) (fun j => satFlag (bitsW w) u sat (y j)) :=
  (intIssue_effect hr w _).congr (fun j => by rw [he, narrowInt_eq, atWidth_intCode]) (fun j => by rw [he, narrowInt_eq])

/-- The same where it does not saturate: no flag. -/
theorem intIssue_wrapped (hr : AluReady s h d l i) (w u : Bool) (e : Rd → Nat → Int) (y : Nat → Int)
    (he : ∀ j, e (i.rd s d.scalar) j = y j) :
    AluEffect (intIssue h d w l s (fun r j => narrowInt (bitsW w) u false (e r j))) s i d w i.part
      (fun j => BitVec.ofInt 64 (y j)) (fun _ => 0) := intIssue_exact hr w u false e y he

/-- An instruction whose lanes give a value without a flag. -/
theorem intIssue_plain (hr : AluReady s h d l i) (w : Bool) (v : Rd → Nat → DWord) (y : Nat → DWord)
    (hv : ∀ j, atWidth w (v (i.rd s d.scalar) j) = atWidth w (y j)) :
    AluEffect (intIssue h d w l s (fun r j => plain (v r j))) s i d w i.part y (fun _ => 0) :=
  (intIssue_effect hr w _).congr hv (fun _ => rfl)

end

/-- Settles O2: each result is the narrowed exact integer, or the quotient or the remainder of R114. -/
theorem integerExtremesAndDivision : Obligations.IntegerExtremesAndDivision := by
  refine ⟨fun s h d a b c u sat w i =>
    ⟨fun hr => ?iabs, fun hr => ⟨?imin, ?imax, ?idiff, ?imulhi⟩, fun hr => ?iclamp⟩,
    fun s h d a b u sat w i hr => ⟨?idiv, ?irem⟩⟩
  case iabs => exact intIssue_exact hr false false sat _ _ (fun j => by rw [Rd.int_eq, Int.natCast_natAbs]; rfl)
  case imin => exact intIssue_wrapped hr w u _ _ (fun j => by simp only [Rd.int_eq])
  case imax => exact intIssue_wrapped hr w u _ _ (fun j => by simp only [Rd.int_eq])
  case idiff =>
    exact intIssue_plain hr false _ _ (fun j => by
      rw [← BitVec.ofInt_natCast, Int.natCast_natAbs, Rd.int_eq, Rd.int_eq]; rfl)
  case imulhi => exact intIssue_wrapped hr false u _ _ (fun j => by simp only [Rd.int_eq]; rfl)
  case iclamp => exact intIssue_wrapped hr false u _ _ (fun j => by simp only [Rd.int_eq]; rfl)
  case idiv =>
    exact (intIssue_effect hr w _).congr (fun j => by rw [divInt_quotient, Rd.int_eq, Rd.int_eq]; rfl)
      (fun j => by rw [divInt_quotient_flags, Rd.int_eq, Rd.int_eq]; rfl)
  case irem =>
    exact (intIssue_effect hr w _).congr (fun j => by rw [divInt_remainder, Rd.int_eq, Rd.int_eq])
      (fun j => by rw [divInt_remainder_flags, Rd.int_eq])

end Sys2Proof.Machine
end

section
/-! ## Extensions and the three-input function of LOP3 (R113, R116) -/

namespace Sys2Proof.Machine

open Sys2Proof

/-- What a 32-bit destination holds of an operand is its 32-bit value. -/
theorem Rd.atWidth_val (r : Rd) (x : Src) (l : Nat) :
    atWidth false (r.val x .w32 l) = atWidth false ((r.w32 x l).setWidth 64) := by
  simp [atWidth, Rd.w32]

/-- An extension of the low n bits of a 32-bit operand, at the width of its destination. -/
theorem narrowInt_ext (wide u : Bool) {n : Nat} (hn : 0 < n) (hn' : n ≤ 32) (r : Rd) (x : Src) (l : Nat) :
    atWidth wide (narrowInt (bitsW wide) false false (extInt u n (r.val x .w32 l))).1 =
      atWidth wide (if u then (slice (r.w32 x l) 0 n).setWidth 64 else (slice (r.w32 x l) 0 n).signExtend 64) := by
  rw [narrowInt_eq, atWidth_intCode, extInt_eq_exactOf u hn, ← ofInt_exactOf, Rd.w32, slice_slice _ hn']; rfl

/-- IEXT gives the low byte, half or word of its operand, extended as the mode says (R113). -/
theorem execIext_effect {s : State} {h : Hdr} {d : Dst} {a : Src} {i : Iss} (hr : AluReady s h d [a] i) (mode : ExtMode) :
    let p := extParts mode
    AluEffect (execIext h d a mode s) s i d p.2.2 i.part (fun j =>
      if !p.2.1 then (slice ((i.rd s d.scalar).w32 a j) 0 p.1).setWidth 64
      else (slice ((i.rd s d.scalar).w32 a j) 0 p.1).signExtend 64) (fun _ => 0) := by
  have hbits : 0 < (extParts mode).1 ∧ (extParts mode).1 ≤ 32 := by cases mode <;> decide
  exact (intIssue_effect hr _ _).congr (narrowInt_ext _ _ hbits.1 hbits.2 _ a) (fun _ => rfl)

/-- A bit of the OR of the words that a list selects. -/
theorem getLsbD_foldl_or (f : Nat → Bool) (m : Nat → DWord) (L : List Nat) (x : DWord) (j : Nat) :
    (L.foldl (fun x k => if f k then x ||| m k else x) x).getLsbD j =
      (x.getLsbD j || L.any (fun k => f k && (m k).getLsbD j)) := by
  induction L generalizing x with
  | nil => simp
  | cons a r ih =>
    rw [List.foldl_cons, ih, List.any_cons]
    cases f a <;> simp [Bool.or_assoc]

theorem getLsbD_one_shiftLeft (k j : Nat) (hj : j < 64) : (1#64 <<< k).getLsbD j = decide (k = j) := by
  rw [BitVec.getLsbD_shiftLeft, BitVec.getLsbD_one]
  by_cases h : k = j
  · simp [h, hj]
  · simp only [h, decide_false]
    by_cases hk : j < k
    · simp [hk]
    · have : j - k ≠ 0 := by omega
      simp [this]

/-- Bit j of a word put together bit by bit. -/
theorem getLsbD_foldl_bits (f : Nat → Bool) (j : Nat) (hj : j < 64) :
    ((List.range 64).foldl (fun x k => if f k then x ||| (1#64 <<< k) else x) 0).getLsbD j = f j := by
  rw [getLsbD_foldl_or, Bool.eq_iff_iff]
  simp only [getLsbD_one_shiftLeft _ j hj, BitVec.ofNat_eq_ofNat, BitVec.getLsbD_zero, Bool.false_or, List.any_eq_true,
    List.mem_range, Bool.and_eq_true, decide_eq_true_eq]
  exact ⟨fun ⟨k, _, hf, hk⟩ => hk ▸ hf, fun hf => ⟨j, hj, hf, rfl⟩⟩

/-- A word, or its complement. -/
def orNot (t : Bool) (x : DWord) : DWord := if t then x else ~~~x

theorem getLsbD_orNot (t : Bool) (x : DWord) (j : Nat) (hj : j < 64) : (orNot t x).getLsbD j = (t == x.getLsbD j) := by
  cases t <;> simp [orNot, hj]

/-- Of the eight rows of a table of three inputs, the one that the inputs select gives the result. -/
theorem lut_row (lut : Nat → Bool) (x y z : Bool) :
    (List.range 8).any (fun k => lut k && (k.testBit 2 == x && (k.testBit 1 == y) && (k.testBit 0 == z))) =
      lut ((if x then 4 else 0) + (if y then 2 else 0) + (if z then 1 else 0)) := by
  have hrows : List.range 8 = [0, 1, 2, 3, 4, 5, 6, 7] := rfl
  rw [hrows]
  cases x <;> cases y <;> cases z <;> simp [Nat.testBit]

/-- LOP3 is the OR of the rows of its table (R116). -/
theorem lop3Bits_eq_rows (lut : BitVec 8) (x y z : DWord) :
    lop3Bits lut x y z = (List.range 8).foldl (fun r k =>
      if lut.getLsbD k then
        r ||| (orNot (k.testBit 2) x &&& orNot (k.testBit 1) y &&& orNot (k.testBit 0) z)
      else r) 0 := by
  apply BitVec.eq_of_getLsbD_eq
  intro j hj
  rw [getLsbD_foldl_or]
  simp only [BitVec.getLsbD_and, getLsbD_orNot _ _ j hj, BitVec.ofNat_eq_ofNat, BitVec.getLsbD_zero, Bool.false_or]
  rw [lut_row lut.getLsbD]
  exact getLsbD_foldl_bits (fun j => lut.getLsbD
    ((if x.getLsbD j then 4 else 0) + (if y.getLsbD j then 2 else 0) + (if z.getLsbD j then 1 else 0))) j hj

/-- Settles O4: each result is the operand's value, its extension, or the bitwise function of the operands. -/
theorem movesAndLogic : Obligations.MovesAndLogic := by
  refine ⟨fun s h d a b ps pn w mode i => ⟨fun hr => ⟨?mov, ?movw, ?iext⟩, fun hr => ⟨?movhi, ?isel⟩⟩,
    fun s h d a b c w lut i => ⟨fun hr => ⟨?and, ?or, ?xor, ?andn⟩, fun hr => ?lop3⟩⟩
  case mov => exact intIssue_plain hr false _ _ (fun j => Rd.atWidth_val _ a j)
  case movw => exact intIssue_plain hr true _ _ (fun _ => rfl)
  case iext =>
    have hext := execIext_effect hr mode
    cases mode with
    | s8 | u8 | s16 | u16 => exact hext
    | s32 | u32 => exact hext.congr (fun j => by simp [extParts]) (fun _ => rfl)
  case movhi => exact intIssue_plain hr true _ _ (fun _ => rfl)
  case isel =>
    refine intIssue_plain hr w _ _ (fun j => ?_)
    have hpick : (((i.w.getP ps.toNat).has j != pn) = true) = ((i.w.getP ps.toNat).has j = !pn) := by
      cases pn <;> simp
    simp only [Iss.rd, hpick]
    rfl
  case and => exact intIssue_plain hr w _ _ (fun _ => rfl)
  case or => exact intIssue_plain hr w _ _ (fun _ => rfl)
  case xor => exact intIssue_plain hr w _ _ (fun _ => rfl)
  case andn => exact intIssue_plain hr w _ _ (fun _ => rfl)
  case lop3 => exact intIssue_plain hr w _ _ (fun j => by rw [lop3Bits_eq_rows]; rfl)

end Sys2Proof.Machine
end

section
/-! ## Predicates as masks of lanes (R106, R111, R122) -/

namespace Sys2Proof

/-- Two masks with the same lanes are the same mask. -/
theorem Mask.ext_has {m n : Mask} (h : ∀ l, l < 32 → m.has l = n.has l) : m = n :=
  BitVec.eq_of_getLsbD_eq (fun l hl => h l hl)

@[simp] theorem Mask.has_and (m n : Mask) (l : Nat) : (m &&& n).has l = (m.has l && n.has l) := BitVec.getLsbD_and
@[simp] theorem Mask.has_or (m n : Mask) (l : Nat) : (m ||| n).has l = (m.has l || n.has l) := BitVec.getLsbD_or
@[simp] theorem Mask.has_xor (m n : Mask) (l : Nat) : (m ^^^ n).has l = (m.has l ^^ n.has l) := BitVec.getLsbD_xor
@[simp] theorem Mask.has_not (m : Mask) (l : Nat) : (~~~m).has l = (decide (l < 32) && !m.has l) := BitVec.getLsbD_not
@[simp] theorem Mask.has_zero (l : Nat) : Mask.has 0#32 l = false := BitVec.getLsbD_zero

@[simp] theorem Mask.has_ones (l : Nat) : Mask.has 4294967295#32 l = decide (l < 32) := BitVec.getLsbD_allOnes

end Sys2Proof

namespace Sys2Proof.Machine

open Sys2Proof

/-- Only the bits of participating lanes count. -/
theorem PredEffect.congr {r : Res} {s : State} {i : Iss} {pd : BitVec 3} {b b' : Mask} (h : PredEffect r s i pd b)
    (hb : ∀ l, i.part.has l = true → b.has l = b'.has l) : PredEffect r s i pd b' := by
  have hand : b &&& i.part = b' &&& i.part := Mask.ext_has (fun l _ => by
    cases hp : i.part.has l
    · simp [hp]
    · simp [hb l hp])
  obtain ⟨w', e, hp, hpc, ho⟩ := h
  exact ⟨w', e, fun q => by rw [hp, hand], hpc, ho⟩

theorem has_combine_congr (c : Comb) (old : Mask) {m n : Mask} {l : Nat} (h : m.has l = n.has l) :
    (combine c old m).has l = (combine c old n).has l := by
  cases c <;> simp [combine, h]

/-- The lane that a mask elects. -/
theorem has_electMask (i : Iss) {l : Nat} (hl : l < 32) : (electMask i).has l = (i.part.lowest == some l) := by
  unfold electMask
  cases i.part.lowest with
  | none => simp
  | some p => rw [Mask.has_one p l hl, beq_eq_decide]; simp [eq_comm]

section
variable {s : State} {h : Hdr} {l : List Src} {i : Iss}

/-- A comparison combines its relation, lane by lane, with the old predicate (R111, R173). -/
theorem predIssue_combine (hr : PredReady s h l i) (pd : BitVec 3) (comb : Comb) (t : Iss → Rd → Nat → Bool)
    (y : Nat → Bool) (hy : ∀ j, t i (i.rd s false) j = y j) :
    PredEffect (predIssue h pd l s (fun i r =>
        (combine comb (i.w.getP pd.toNat) (Mask.ofFn (fun j => i.part.has j && t i r j)), i.w))) s i pd
      (combine comb (i.w.getP pd.toNat) (Mask.ofFn y)) :=
  (predIssue_effect hr pd _ rfl).congr (fun j hj => has_combine_congr comb _ (by simp [hj, hy]))

/-- One truth value written in every participating lane (R124). -/
theorem predIssue_uniform (hr : PredReady s h l i) (pd : BitVec 3) (t : Iss → Bool) (p : Prop) [Decidable p]
    (hp : t i = decide p) :
    PredEffect (predIssue h pd l s (fun i _ => (if t i then i.part else 0, i.w))) s i pd (if p then 0xFFFFFFFF else 0) :=
  (predIssue_effect hr pd _ rfl).congr (fun j hj => by
    by_cases hc : p
    · simp [hp, hc, hj, Mask.has_lt hj]
    · simp [hp, hc])

end

/-- Settles O6: each predicate result, lane by lane, through the law of the instructions that write only a predicate. -/
theorem predicateResults : Obligations.PredicateResults := by
  intro s h pd p q a b u neg mask cmp fc comb ma mb lut i rd old joined rel chosen done
  have hjoined : ∀ t, joined t = combine comb old (Mask.ofFn t) := fun t => by cases comb <;> rfl
  have hrel : ∀ x y, cmpRel cmp x y = rel x y := fun x y => by cases cmp <;> simp [cmpRel, rel, bne, beq_eq_decide]
  have hchosen : i.pred p neg = chosen := rfl
  refine ⟨fun hr => ⟨?icmp, ?icmpw, ?fcmp⟩, fun hr => ⟨?any, ?all, ?uni, ?elect, ?plop⟩, fun hr => ?s2p⟩
  case icmp =>
    rw [hjoined]
    exact predIssue_combine hr pd comb (fun _ r j => cmpRel cmp (r.int u false a j) (r.int u false b j)) _
      (fun j => by rw [Rd.int_eq, Rd.int_eq, hrel]; rfl)
  case icmpw =>
    rw [hjoined]
    exact predIssue_combine hr pd comb (fun _ r j => cmpRel cmp (r.int u true a j) (r.int u true b j)) _
      (fun j => by rw [Rd.int_eq, Rd.int_eq, hrel]; rfl)
  case fcmp =>
    rw [hjoined]
    refine predIssue_combine hr pd comb (fun i r j => fcmpRel fc (r.f32 i.w.ftz ma a j) (r.f32 i.w.ftz mb b j)) _
      (fun j => ?_)
    simp only [fcmpRel]
    cases fc <;> simp [rd, bne, beq_eq_decide]
  case any =>
    rw [← ite_not]
    exact predIssue_uniform hr pd (fun i => i.pred p neg != 0) _ (by simp [hchosen, bne, beq_eq_decide])
  case all => exact predIssue_uniform hr pd (fun i => i.pred p neg == i.part) _ (by simp [hchosen, beq_eq_decide])
  case uni =>
    exact predIssue_uniform hr pd (fun i => i.pred p neg == 0 || i.pred p neg == i.part) _
      (by simp [hchosen, beq_eq_decide])
  case elect =>
    refine PredEffect.congr (predIssue_effect hr pd (fun i _ => (electMask i, i.w)) rfl) (fun j hj => ?_)
    rw [has_electMask i (Mask.has_lt hj), Mask.has_ofFn, decide_eq_true (Mask.has_lt hj), Bool.true_and]
  case plop =>
    change PredEffect (execPlop h pd p q lut s) s i pd _
    refine PredEffect.congr (predIssue_effect hr pd _ rfl) (fun j hj => ?_)
    cases hp : (i.w.getP p.toNat).has j <;> cases hq : (i.w.getP q.toNat).has j <;> simp [Mask.has_lt hj, hp, hq]
  case s2p =>
    change PredEffect (execS2p h pd a mask s) s i pd _
    refine PredEffect.congr (predIssue_effect hr pd _ rfl) (fun j hj => ?_)
    simp [Mask.has_lt hj, rd, bne, beq_eq_decide]

end Sys2Proof.Machine
end

section
/-! ## Results of the lane instructions (R122 to R129) -/

namespace Sys2Proof.Machine

open Sys2Proof

/-- The lanes of a set below a bound, counted. -/
def numberBelow (m : Mask) (n : Nat) : Nat := ((List.range n).filter m.getLsbD).length

theorem foldl_count (p : Nat → Bool) (L : List Nat) (n : Nat) :
    L.foldl (fun n j => if p j then n + 1 else n) n = n + (L.filter p).length := by
  induction L generalizing n with
  | nil => rfl
  | cons a r ih =>
    rw [List.foldl_cons, ih, List.filter_cons]
    cases p a
    · rfl
    · simp; omega

theorem popCount_eq {n : Nat} (x : BitVec n) : popCount x = ((List.range n).filter x.getLsbD).length :=
  (foldl_count x.getLsbD _ 0).trans (Nat.zero_add _)

/-- The mask of the lanes below a lane. -/
theorem has_one_sub_one {l : Nat} (hl : l < 32) (j : Nat) : (Mask.one l - 1).has j = decide (j < l) := by
  have hpow : 2 ^ l < 2 ^ 32 := Nat.pow_lt_pow_right (by decide) hl
  have hone : (Mask.one l - 1).toNat = 2 ^ l - 1 := by
    have h1 : 1 ≤ 2 ^ l := Nat.one_le_two_pow
    have h2 : (Mask.one l).toNat = 2 ^ l := by
      rw [Mask.one, BitVec.toNat_shiftLeft, Nat.shiftLeft_eq, show (1#32).toNat = 1 from rfl, Nat.one_mul,
        Nat.mod_eq_of_lt hpow]
    rw [BitVec.toNat_sub, h2, show BitVec.toNat (1 : Mask) = 1 from rfl]
    omega
  rw [Mask.has, BitVec.getLsbD, hone, Nat.testBit_two_pow_sub_one]

/-- The rank of a lane counts the lanes of the set below it (R123). -/
theorem popCount_below (m : Mask) {l : Nat} (hl : l < 32) : popCount (m &&& (Mask.one l - 1)) = numberBelow m l := by
  have hbit : ∀ j, (m &&& (Mask.one l - 1)).getLsbD j = (m.getLsbD j && decide (j < l)) := fun j => by
    rw [BitVec.getLsbD_and]; exact congrArg _ (has_one_sub_one hl j)
  have hrange : List.range 32 = List.range l ++ (List.range (32 - l)).map (l + ·) := by
    rw [← List.range_add, Nat.add_sub_cancel' (Nat.le_of_lt hl)]
  have hlow : (List.range l).filter (m &&& (Mask.one l - 1)).getLsbD = (List.range l).filter m.getLsbD :=
    List.filter_congr (fun j hj => by rw [hbit, decide_eq_true (List.mem_range.1 hj), Bool.and_true])
  have hhigh : ((List.range (32 - l)).map (l + ·)).filter (m &&& (Mask.one l - 1)).getLsbD = [] :=
    List.filter_eq_nil_iff.2 (fun j hj => by
      obtain ⟨k, _, rfl⟩ := List.mem_map.1 hj
      rw [hbit, decide_eq_false (by omega), Bool.and_false]; exact Bool.false_ne_true)
  rw [popCount_eq, numberBelow, hrange, List.filter_append, hlow, hhigh, List.append_nil]

/-- The lanes of a set that holds one lane at most. -/
theorem lanes_and_one (m : Mask) {j : Nat} (hj : j < 32) : (m &&& Mask.one j).lanes = if m.has j then [j] else [] := by
  have hbit : ∀ l ∈ List.range 32, (m &&& Mask.one j).has l = (m.has j && l == j) := fun l hl => by
    rw [Mask.has_and, Mask.has_one j l (List.mem_range.1 hl), beq_eq_decide]
    by_cases h : l = j
    · rw [h]
    · simp [h]
  rw [Mask.lanes, List.filter_congr hbit]
  cases m.has j
  · simp
  · have hcount : (List.range 32).count j = 1 := List.count_eq_one_of_mem List.nodup_range (List.mem_range.2 hj)
    simp [List.filter_beq, hcount]

/-- UP keeps a lane of its segment whose count would leave the segment (R125). -/
theorem shflLane_up (sz l k : Nat) : shflLane .up sz l k = if k ≤ l % sz then l - k else l := by
  have hl := Nat.div_add_mod' l sz
  simp only [shflLane]
  by_cases h : k ≤ l % sz
  · rw [if_neg (by omega), if_pos h]
  · rw [if_pos (by omega), if_neg h]

/-- DOWN does so at the other end. -/
theorem shflLane_down (sz l k : Nat) : shflLane .down sz l k = if l % sz + k < sz then l + k else l := by
  have hl := Nat.div_add_mod' l sz
  simp only [shflLane]
  by_cases h : l % sz + k < sz
  · rw [if_neg (by omega), if_pos h]
  · rw [if_pos (by omega), if_neg h]

section
variable {s : State} {h : Hdr} {d : Dst} {l : List Src} {i : Iss}

/-- An ALU-class instruction that hands over values and sets nothing else. -/
theorem aluIssue_effect (hr : AluReady s h d l i) (wide : Bool) (f : Iss → Rd → Tab DWord × Wave) (wr : Mask)
    (val : Nat → DWord) (hf : f i (i.rd s d.scalar) = (resultsOf i d wr val, i.w)) :
    AluEffect (aluIssue h d wide l noGen s f) s i d wide wr val (fun _ => 0) := by
  obtain ⟨w', e, hd, hs⟩ := aluChecked_done hr wide (fun i _ => noGen i.w) noBad f wr val (fun _ => 0) rfl (by rw [hf])
    (by rw [hf]) (fun j => by rw [hf]; simp)
  exact ⟨w', e, hd, by rw [hs, hf]⟩

/-- A scalar form writes one value, if a lane participates. -/
theorem onceDst_eq (hd : d.scalar = true) (wr : Mask) {x : DWord} {val : Nat → DWord}
    (hv : ∀ p, i.part.lowest = some p → x = val p) : onceDst i x = (resultsOf i d wr val, i.w) := by
  simp only [onceDst, resultsOf, hd, if_true]
  cases hp : i.part.lowest with
  | none => rw [if_pos (Mask.lowest_none.1 hp)]
  | some p => rw [if_neg (fun e => by rw [Mask.lowest_none.2 e] at hp; cases hp), hv p hp]

/-- A vector form writes a value in every participating lane. -/
theorem eachLane_eq (hd : d.scalar = false) {f val : Nat → DWord} (hv : ∀ j, i.part.has j = true → f j = val j) :
    eachLane i f = (resultsOf i d i.part val, i.w) := by
  simp only [eachLane, resultsOf, hd, Bool.false_eq_true, if_false]
  rw [List.map_congr_left (fun j hj => by rw [hv j (Mask.mem_lanes.1 hj)])]

/-- A vector form that writes one lane writes it if that lane participates. -/
theorem oneLane_eq (hd : d.scalar = false) {j : Nat} (hj : j < 32) (x : DWord) :
    (if i.part.has j then [(j, x)] else [], i.w) = (resultsOf i d (i.part &&& Mask.one j) (fun _ => x), i.w) := by
  simp only [resultsOf, hd, Bool.false_eq_true, if_false, lanes_and_one i.part hj]
  cases i.part.has j <;> rfl

end

/-! ## ELECT with a register (R129) -/

/-- The answer of an ALU-class instruction that is ready. -/
theorem aluIssue_next {s : State} {h : Hdr} {d : Dst} {l : List Src} {i : Iss} (hr : AluReady s h d l i) (wide : Bool)
    (gen : Wave → Bool) (f : Iss → Rd → Tab DWord × Wave) :
    aluIssue h d wide l gen s f =
      .next (s.setWave i.k (i.step ((f i (i.rd s d.scalar)).2.takeResult d wide (f i (i.rd s d.scalar)).1))) := by
  have hc : (d.nwb && i.w.chain == 4) = false := by
    cases hd : d.nwb
    · rfl
    · simp [hr.chain hd]
  have hl : l.any (i.rd s d.scalar).latchTrap = false := List.any_eq_false.2 (fun x hx => by simp [hr.latch x hx])
  simp only [aluIssue, aluChecked, noBad, hr.iss, hc, hl, hr.runs, State.permit, hr.calm, Bool.false_eq_true, if_false,
    ne_eq, not_true_eq_false, Bool.false_and]

theorem Wave.takeResult_p (w : Wave) (d : Dst) (wide : Bool) (rs : Tab DWord) : (w.takeResult d wide rs).p = w.p := by
  have : (w.takeResult d wide rs).p = (w.writeDst d wide rs).p := rfl
  rw [this, Wave.writeDst_others]

/-- A scalar result is taken the same way whatever the predicates hold. -/
theorem Wave.takeResult_of_otherP {x w : Wave} (hx : x = { w with p := x.p }) {d : Dst} (hd : d.scalar = true)
    (wide : Bool) (rs : Tab DWord) : x.takeResult d wide rs = { w.takeResult d wide rs with p := x.p } := by
  generalize x.p = q at hx ⊢
  subst hx
  cases d with
  | s n =>
    cases rs with
    | nil => rfl
    | cons e r => cases wide <;> rfl
  | latchS => rfl
  | v n => cases hd
  | latchV => cases hd

/-- A written predicate reads as written in the lanes that participate. -/
theorem Wave.has_getP_writeP (w : Wave) {pd : BitVec 3} (h7 : pd ≠ 7) (part bits : Mask) {j : Nat}
    (hj : part.has j = true) : ((w.writeP pd part bits).getP pd.toNat).has j = bits.has j := by
  have hn : pd.toNat ≠ 7 := fun e => h7 (BitVec.eq_of_toNat_eq e)
  rw [Wave.writeP, Wave.getP_setP, if_pos ⟨rfl, hn⟩]
  simp [hj]

/-- ELECT gives the number of the elected lane, and writes the mask of that lane to its predicate. -/
theorem execElect_effect {s : State} {h : Hdr} {d : Dst} {i : Iss} (hr : AluReady s h d [] i) (hd : d.scalar = true)
    (pd : BitVec 3) :
    ∃ w', execElect h pd (some d) s = .next (s.setWave i.k w') ∧
      AluDone i d false 0 (fun j => BitVec.ofNat 64 j) (fun _ => 0) { w' with p := i.w.p } ∧
      ∀ q, w'.getP q = (i.w.writeP pd i.part (electMask i)).getP q := by
  let rs := resultsOf i d 0 (fun j => BitVec.ofNat 64 j)
  have hval : onceDst i (BitVec.ofNat 64 i.lane) = (rs, i.w) := onceDst_eq hd 0 (fun j hj => by rw [Iss.lane, hj]; rfl)
  have hmark := Wave.takeResult_of_otherP (Wave.writeP_others i.w pd i.part (electMask i)) hd false rs
  have hdone := takeResult_done i d false 0 (fun j => BitVec.ofNat 64 j) (fun _ => 0) i.w rfl (fun j => by simp)
  have hkept : i.step (i.w.takeResult d false rs) = { i.step (i.w.takeResult d false rs) with p := i.w.p } := by
    rw [← Wave.takeResult_p i.w d false rs]; rfl
  refine ⟨i.step ((i.w.writeP pd i.part (electMask i)).takeResult d false rs),
    (aluIssue_next hr false noGen _).trans (by rw [hval]), ?_, fun q => ?_⟩
  · rw [hmark]
    exact hkept ▸ hdone
  · rw [hmark]; rfl

/-- Settles O7: each lane result through the law of the ALU-class instructions that hand over values and set no flag, and
ELECT through its own. -/
theorem laneResults : Obligations.LaneResults := by
  intro s h d a b vs p neg w mode seg i rd x chosen number sz k from_ done
  refine ⟨fun hr => ⟨fun hd => ⟨?ballot, ?ppopc, ?elect⟩, fun hd => ?mrank⟩, fun hr hd => ?rdlane,
    fun hr hd => ⟨?shfl, fun _ => ?wrlane⟩, fun hr hd => ?matchLane⟩
  case ballot =>
    change AluEffect (execBallot h d p neg s) s i d false 0 _ _
    exact aluIssue_effect hr false _ 0 _ (onceDst_eq hd 0 (fun _ _ => rfl))
  case ppopc =>
    change AluEffect (execPpopc h d p neg s) s i d false 0 _ _
    exact aluIssue_effect hr false _ 0 _ (onceDst_eq hd 0 (fun _ _ => by rw [popCount_eq]; rfl))
  case elect =>
    obtain ⟨w', he, hdone, hp⟩ := execElect_effect hr hd p
    refine ⟨w', he, hdone, fun hp7 j hj => ?_⟩
    rw [hp, Wave.has_getP_writeP _ hp7 _ _ hj, has_electMask i (Mask.has_lt hj), beq_eq_decide]
  case mrank =>
    change AluEffect (execMrank h d p neg s) s i d false i.part _ _
    exact aluIssue_effect hr false _ i.part _
      (eachLane_eq hd (fun j hj => congrArg _ (popCount_below chosen (Mask.has_lt hj))))
  case rdlane =>
    change AluEffect (execRdlane h d vs b w s) s i d w 0 _ _
    exact aluIssue_effect hr w _ 0 _ (onceDst_eq hd 0 (fun j hj => by rw [Iss.lane, hj]; rfl))
  case shfl =>
    have hsz : segSize seg = sz := by cases seg <;> rfl
    have hfrom : ∀ j, shflLane mode sz j (k j) = from_ j := fun j => by
      cases mode with
      | idx | xor => rfl
      | up => exact shflLane_up sz j (k j)
      | down => exact shflLane_down sz j (k j)
    change AluEffect (execShfl h d a b mode seg w s) s i d w i.part _ _
    refine aluIssue_effect hr w _ i.part _ (eachLane_eq hd (fun j _ => ?_))
    rw [hsz, ← hfrom]; rfl
  case wrlane =>
    change AluEffect (execWrlane h d a b w s) s i d w _ _ _
    exact aluIssue_effect hr w _ _ _ (oneLane_eq hd (Nat.mod_lt _ (by decide)) _)
  case matchLane =>
    change AluEffect (execMatchLane h d a w s) s i d false i.part _ _
    exact aluIssue_effect hr false _ i.part _ (eachLane_eq hd (fun j hj => by simp [x, rd, widthOf, beq_eq_decide]))

end Sys2Proof.Machine
end
